-- ==== Sys2Proof/Word.lean ====
section
/-! DEFINITION. The words of the GC-4812 (R10: bit 0 is the least significant bit) and the sparse table in which the model
keeps what the device holds in large numbers. -/

namespace Sys2Proof

/-- One byte. -/
abbrev Byte := BitVec 8

/-- A 64-bit register or descriptor word. -/
abbrev W64 := BitVec 64

/-- A 32-bit register. -/
abbrev W32 := BitVec 32

/-- A byte in transit with its poison mark (R88, R327: poison travels with the data). -/
abbrev PByte := Byte × Bool

/-- A table with one entry per number, keys strictly rising; a number that is not listed holds the table's default
(its reset contents). `Sys2Proof.Machine.tget` and `tset` read and write it. -/
abbrev Tab (α : Type) := List (Nat × α)

end Sys2Proof
end

