-- ==== Sys2Proof/Syntax.lean ====
section
/-! DEFINITION. The commands of the GC-4812: one constructor of `Instr` per row of spec/opcode_table.json, with the operands
that the rule of the row names. An operand that names a unit (a tile, a stack, a port) has the type of that unit's numbers, so
a command cannot name a unit that does not exist. -/

namespace Sys2Proof

/-- Tile number t (R82). -/
abbrev TileIx := Fin 256
/-- Stack number k (R320). -/
abbrev StackIx := Fin 12
/-- Fabric port FBn (R394). -/
abbrev PortIx := Fin 12
/-- Partition number (R83). -/
abbrev PartIx := Fin 4
/-- Stream number (R429). -/
abbrev StreamIx := Fin 8192

/-- Where an access comes from (R100, R424, R425, R440, R478): it decides the tag that the access carries. -/
inductive Agent where
  /-- A service core running Walzin firmware: the firmware tag. -/
  | sc (n : Fin 8)
  /-- The Lookout (R482, R504). -/
  | lookout
  /-- The host through BAR 0: the firmware tag (R424). -/
  | bar0
  /-- The host through BAR 2: the partition tag of PCI_B2PART (R425). -/
  | bar2
  /-- A tile: its partition and the context of the kernel that runs on it (R100, R452). -/
  | tile (t : TileIx)
  /-- A system DMA channel: SDMA_TAGn (R393). -/
  | sdma (n : Fin 64)
  /-- A hub agent acting for a stream or collective of a context (R452). -/
  | engine (p : PartIx) (c : Fin 16)
  deriving DecidableEq, Repr

/-- What a request asks (R96). -/
inductive ReqOp where
  | read (n : Nat)
  | write (d : List PByte)
  deriving DecidableEq, Repr

/-- A request on the mesh, the memory network or the hub: its source, the source's channel and burst numbers, the device
address and the operation. -/
structure Req where
  src : Agent
  chan : Nat
  burst : Nat
  addr : Nat
  op : ReqOp
  deriving DecidableEq, Repr

/-- A mesh EVT message (R91, R96): its source, the target tile, the event counter and the 16-bit increment. -/
structure EvtMsg where
  src : Agent
  tgt : TileIx
  ev : Fin 16
  inc : BitVec 16
  deriving DecidableEq, Repr

/-- The EVT-class message of a phase stop (R516). -/
structure PhaseMsg where
  hub : Bool
  tile : TileIx
  timer : Fin 8
  tag : BitVec 16
  cycles : W64
  deriving DecidableEq, Repr

/-- What a check of R137, R198, R232 or R375 found in this step: an input, since the manual says what a failed check does and
not when one fails. `unit` is 0 for an array, 1 for the vector engine, 2 for the special-function pipes. -/
structure CheckFail where
  unit : Fin 3
  arr : Fin 4
  stage : Fin 8
  lane : Fin 512
  row : Fin 128
  deriving DecidableEq, Repr

/-- The sequencer slot's fields d, a, b, sub and imm (R300). -/
structure SeqF where
  d : BitVec 7
  a : BitVec 7
  b : BitVec 7
  sub : BitVec 3
  imm : BitVec 24
  deriving DecidableEq, Repr

/-- The matrix slot's fields (R134, R300). -/
structure MxF where
  arr : Fin 4
  sr : BitVec 4
  deriving DecidableEq, Repr

/-- The vector slot's fields but op (R168, R300). -/
structure VecF where
  form : Bool
  vfmt : BitVec 4
  dfmt : BitVec 4
  n : BitVec 12
  vd : BitVec 5
  va : BitVec 5
  vb : BitVec 5
  vc : BitVec 5
  asrc : BitVec 2
  bsrc : BitVec 2
  arr : BitVec 2
  arow : BitVec 7
  sub : BitVec 4
  rm : BitVec 3
  sat : Bool
  sw : Bool
  smd : BitVec 3
  deriving DecidableEq, Repr

/-- The special-function slot's fields but op (R206). -/
structure SfF where
  func : BitVec 5
  form : Bool
  ifmt : BitVec 4
  ofmt : BitVec 4
  n : BitVec 12
  vd : BitVec 5
  va : BitVec 5
  sx : BitVec 4
  rm : BitVec 3
  sat : Bool
  smd : BitVec 3
  opt : BitVec 2
  deriving DecidableEq, Repr

/-- The load/store slot's fields but op (R186, R300). -/
structure LsF where
  vfmt : BitVec 4
  dfmt : BitVec 4
  n : BitVec 12
  vr : BitVec 5
  sa : BitVec 4
  sm : BitVec 4
  rm : BitVec 3
  sat : Bool
  sw : Bool
  e : BitVec 6
  deriving DecidableEq, Repr

/-- The three claims registers (R506 to R509). -/
inductive ClaimReg where
  | tsf (t : TileIx)
  | evt
  | trc
  deriving DecidableEq, Repr

/-- A DMA channel: one of a tile's eight or one of the 64 system channels (R378, R393). -/
inductive Chan where
  | tile (t : TileIx) (n : Fin 8)
  | sys (n : Fin 64)
  deriving DecidableEq, Repr

/-- How a channel is started: by the DMA slot, which reads the image at the offset in a scalar register (R301), or by a
register write of start (R378). -/
inductive DmaStartBy where
  | slot (t : TileIx) (n : Fin 8) (sr : BitVec 4)
  | reg (c : Chan)
  deriving DecidableEq, Repr

/-- The stash fields that only the owner of an open slot writes (R260). -/
inductive StashField where
  | base
  | size
  | nrec
  deriving DecidableEq, Repr

/-- A convoy request (R288, R405): the collective's kind and operands. `pgroup` is the parameter group of kind 3 and of a
RECONCILE that names one. -/
structure CollReq where
  kind : Fin 4
  retry : Bool
  root : BitVec 16
  group : BitVec 32
  tensor : Nat
  bytes : Nat
  elem : BitVec 4
  step : W64
  pgroup : Option (BitVec 32)
  deriving DecidableEq, Repr

/-- Where the status of a collective or update goes: a tile's status tensor and event (R288, R289) or a result address of a
stream command (R435). -/
inductive ReplyTo where
  | tile (t : TileIx) (off : Nat) (ev : Fin 16)
  | stream (s : StreamIx) (addr : Nat)
  deriving DecidableEq, Repr

/-- A convoy message (R404, R406, R407, R410): fabric group, epoch, sequence number and origin rank, with the fields of its
kind. -/
structure ConvoyMsg where
  fgid : W32
  epoch : Byte
  seq : BitVec 16
  from_ : BitVec 16
  deriving DecidableEq, Repr

/-- What a READY message carries (R406). -/
structure ReadyInfo where
  kind : Fin 4
  bytes : Nat
  root : BitVec 16
  step : W32
  deriving DecidableEq, Repr

/-- What a CHUNK message carries (R407, R408): the chunk's index, its phase (false: reduce-scatter, true: all-gather or
broadcast) and its data. -/
structure ChunkInfo where
  index : Nat
  gather : Bool
  offset : Nat
  data : List PByte
  deriving DecidableEq, Repr

/-- A flooded control message (R410): its identifier and its contents. -/
structure CtrlInfo where
  ident : W32
  rank : BitVec 16
  code : Byte
  arg : Byte
  deriving DecidableEq, Repr

/-- What a CTRL cell carries. -/
inductive CtrlPay where
  | ready (m : ConvoyMsg) (r : ReadyInfo)
  | refuse (m : ConvoyMsg) (epoch : Byte)
  | abort (m : ConvoyMsg) (c : CtrlInfo)
  | memberFail (m : ConvoyMsg) (c : CtrlInfo)
  | slow (m : ConvoyMsg) (c : CtrlInfo)
  deriving DecidableEq, Repr

/-- What a cell carries (R395, R396): DATA carries a chunk (whole or part), CTRL a control message. -/
inductive CellPay where
  | data (m : ConvoyMsg) (c : ChunkInfo)
  | ctrl (c : CtrlPay)
  | keepalive
  | nak
  deriving DecidableEq, Repr

/-- A cell on a link (R395). `crcOk` is what the CRC-32C check of the receiver finds. -/
structure Cell where
  seq : BitVec 12
  ack : BitVec 12
  pois : BitVec 8
  crcOk : Bool
  pay : CellPay
  deriving DecidableEq, Repr

/-- A chunk handed to a stratus unit (R373): context and group, the first element and the FP32 values with their poison. -/
structure StratChunk where
  ctx : Fin 16
  group : BitVec 32
  first : Nat
  vals : List (W32 × Bool)
  deriving DecidableEq, Repr

/-- A 64-byte stream command as one number, byte 0 lowest (R435). -/
abbrev StreamCmd := BitVec 512

/-- A firmware image slot of the Lookout store (R442, R469). -/
structure ImageSlot where
  kind : Fin 4
  slotB : Bool
  deriving DecidableEq, Repr

/-- An access through a BAR (R423): a read or a write of 4 or 8 bytes, or of any width for BAR 2. -/
structure BarAcc where
  off : Nat
  op : ReqOp
  deriving DecidableEq, Repr

/-- The path on which a Lookout operation arrives (R469). -/
inductive MgmtPath where
  | tls
  | mctp
  deriving DecidableEq, Repr

/-- The commands: one constructor per row of spec/opcode_table.json, in the table's order. -/
inductive Instr where
  -- registers, windows, events
  | registerWrite (a : Agent) (addr : Nat) (w8 : Bool) (v : W64)
  | rcRegisterRead (a : Agent) (addr : Nat) (w8 : Bool)
  | windowRequest (r : Req)
  | evtMessage (m : EvtMsg)
  -- the sequencer
  | bundleIssue (t : TileIx) (ck : List CheckFail)
  | halt (t : TileIx)
  | trap (t : TileIx) (f : SeqF)
  | seqMov (t : TileIx) (f : SeqF)
  | seqAdd (t : TileIx) (f : SeqF)
  | seqSub (t : TileIx) (f : SeqF)
  | seqMul (t : TileIx) (f : SeqF)
  | seqAnd (t : TileIx) (f : SeqF)
  | seqOr (t : TileIx) (f : SeqF)
  | seqXor (t : TileIx) (f : SeqF)
  | seqShl (t : TileIx) (f : SeqF)
  | seqShr (t : TileIx) (f : SeqF)
  | seqSra (t : TileIx) (f : SeqF)
  | seqMin (t : TileIx) (f : SeqF)
  | seqMax (t : TileIx) (f : SeqF)
  | seqMinu (t : TileIx) (f : SeqF)
  | seqMaxu (t : TileIx) (f : SeqF)
  | movh (t : TileIx) (f : SeqF)
  | rdid (t : TileIx) (f : SeqF)
  | ld (t : TileIx) (f : SeqF)
  | st (t : TileIx) (f : SeqF)
  | br (t : TileIx) (f : SeqF)
  | bcc (t : TileIx) (f : SeqF)
  | bcnd (t : TileIx) (f : SeqF)
  | loop (t : TileIx) (f : SeqF)
  | seqWait (t : TileIx) (f : SeqF)
  | waitResume (t : TileIx) (cycles : Nat)
  | fence (t : TileIx) (f : SeqF)
  | fenceResume (t : TileIx) (cycles : Nat)
  | waitLimitTimeout (t : TileIx)
  | cmpset (t : TileIx) (f : SeqF)
  | evset (t : TileIx) (f : SeqF)
  | evadd (t : TileIx) (f : SeqF)
  | sig (t : TileIx) (f : SeqF)
  | hsig (t : TileIx) (f : SeqF)
  | phase (t : TileIx) (f : SeqF)
  | phaseExportRecord (m : PhaseMsg)
  | phaseTimerClear (a : Agent) (t : TileIx) (n : Fin 8)
  | hubPhaseStart (a : Agent) (n : Fin 8)
  | hubPhaseStop (a : Agent) (n : Fin 8)
  | traceUnfreeze (a : Agent)
  | tseqStart (a : Agent) (t : TileIx) (v : W32)
  | codeCopyComplete (t : TileIx)
  | tseqStop (a : Agent) (t : TileIx) (v : W32)
  | setCheckedMode (a : Agent) (t : TileIx) (v : W32)
  -- the arrays
  | mma (t : TileIx) (f : MxF) (ck : List CheckFail)
  | accld (t : TileIx) (f : MxF) (ck : List CheckFail)
  | accst (t : TileIx) (f : MxF)
  | pendingOperationStart (t : TileIx) (arr : Fin 4) (ck : List CheckFail)
  | arrayEnableWrite (a : Agent) (t : TileIx) (v : W32)
  -- the drizzle compressor
  | drizzleOpen (a : Agent) (t : TileIx) (v : W32)
  | drizzleClose (a : Agent) (t : TileIx) (v : W32)
  | drizzleAbort (a : Agent) (t : TileIx) (v : W32)
  -- the vector engine
  | vadd (t : TileIx) (f : VecF) (ck : List CheckFail)
  | vsub (t : TileIx) (f : VecF) (ck : List CheckFail)
  | vmul (t : TileIx) (f : VecF) (ck : List CheckFail)
  | vfma (t : TileIx) (f : VecF) (ck : List CheckFail)
  | vfms (t : TileIx) (f : VecF) (ck : List CheckFail)
  | vneg (t : TileIx) (f : VecF) (ck : List CheckFail)
  | vabs (t : TileIx) (f : VecF) (ck : List CheckFail)
  | vand (t : TileIx) (f : VecF) (ck : List CheckFail)
  | vor (t : TileIx) (f : VecF) (ck : List CheckFail)
  | vxor (t : TileIx) (f : VecF) (ck : List CheckFail)
  | vshl (t : TileIx) (f : VecF) (ck : List CheckFail)
  | vshr (t : TileIx) (f : VecF) (ck : List CheckFail)
  | vmac (t : TileIx) (f : VecF) (ck : List CheckFail)
  | vmax (t : TileIx) (f : VecF) (ck : List CheckFail)
  | vmin (t : TileIx) (f : VecF) (ck : List CheckFail)
  | vcmp (t : TileIx) (f : VecF) (ck : List CheckFail)
  | vsel (t : TileIx) (f : VecF) (ck : List CheckFail)
  | vmov (t : TileIx) (f : VecF) (ck : List CheckFail)
  | vbcast (t : TileIx) (f : VecF) (ck : List CheckFail)
  | vcvt (t : TileIx) (f : VecF) (ck : List CheckFail)
  | vperm (t : TileIx) (f : VecF) (ck : List CheckFail)
  | vsegred (t : TileIx) (kind : Fin 3) (f : VecF) (ck : List CheckFail)
  | vsum (t : TileIx) (f : VecF) (ck : List CheckFail)
  | vrng (t : TileIx) (f : VecF) (ck : List CheckFail)
  | vdrop (t : TileIx) (f : VecF) (ck : List CheckFail)
  | summaryBroadcastClear (t : TileIx)
  | ptld (t : TileIx) (f : VecF) (ck : List CheckFail)
  | ptmac (t : TileIx) (f : VecF) (ck : List CheckFail)
  | ptswap (t : TileIx) (f : VecF)
  | rcmb (t : TileIx) (f : VecF) (ck : List CheckFail)
  | expand (t : TileIx) (f : VecF) (ck : List CheckFail)
  | vld (t : TileIx) (f : LsF)
  | vldS (t : TileIx) (f : LsF)
  | vst (t : TileIx) (f : LsF)
  | vstZ (t : TileIx) (f : LsF)
  | vectorClear (a : Agent) (t : TileIx) (v : W32)
  | rngReseed (a : Agent) (t : TileIx) (v : W32)
  -- the special functions
  | sfnFunc (t : TileIx) (f : SfF) (ck : List CheckFail)
  | softmax (t : TileIx) (f : SfF) (ck : List CheckFail)
  | rstat (t : TileIx) (f : SfF) (ck : List CheckFail)
  | sfld (t : TileIx) (f : SfF) (ck : List CheckFail)
  -- claims and the event pin
  | claim (r : ClaimReg) (a : Agent) (v : W32)
  | release (r : ClaimReg) (a : Agent) (v : W32)
  | evtIoFallingEdge
  -- DMA
  | dmaStart (b : DmaStartBy) (a : Agent)
  | dmaAbort (c : Chan) (a : Agent)
  | dmaDisable (c : Chan) (a : Agent)
  | dmaBurstIssue (c : Chan)
  | dmaResponse (c : Chan) (i : Nat)
  | dmaRetryReissue (c : Chan) (burst : Nat)
  -- the stash directory
  | stashClaim (a : Agent) (s : Fin 64) (tag : BitVec 20)
  | stashSeal (a : Agent) (s : Fin 64)
  | stashRelease (a : Agent) (s : Fin 64)
  | stashFieldWrite (a : Agent) (s : Fin 64) (f : StashField) (v : W64)
  -- the translator
  | npcRequestWrite (a : Agent) (p : PartIx) (v : W64)
  | npcLoad (a : Agent) (p : PartIx)
  | npcUnload (a : Agent) (p : PartIx)
  | npcRequestComplete (p : PartIx)
  | coll (t : TileIx) (r : CollReq) (off : Nat) (ev : Fin 16)
  | upd (t : TileIx) (group : BitVec 32) (step : W64) (off : Nat) (ev : Fin 16)
  -- the stacks
  | stackRequest (r : Req)
  | stackRequestIssue (k : StackIx) (cls : Fin 5) (nth : Nat) (ecc : List (Nat × Nat))
  | regulatorRefill (k : StackIx)
  | refresh (k : StackIx) (bank : Nat) (postpone : Bool)
  | scrubStep (k : StackIx) (symbols : Nat)
  | scrubPeriodEnd (k : StackIx)
  | pageRetire (a : Agent) (k : StackIx) (v : W32)
  | remapLoad (a : Agent) (k : StackIx) (v : W64)
  | faultRecordPop (a : Agent) (k : StackIx) (v : W32)
  | thresholdWrite (a : Agent) (k : StackIx) (v : W32)
  | stackThermalSample (k : StackIx) (temp : Int)
  | stackResume (a : Agent) (k : StackIx) (v : W32)
  -- the stratus units
  | update (s : StreamIx) (c : StreamCmd)
  | stratusPassStart (k : StackIx) (ck : List CheckFail)
  | stratusPassComplete (k : StackIx)
  | add (k : StackIx) (c : StratChunk)
  | finalAdd (k : StackIx) (c : StratChunk)
  | finalSet (k : StackIx) (c : StratChunk)
  | stratusReseed (a : Agent) (k : StackIx) (v : W32)
  -- fabric ports
  | portEnable (a : Agent) (n : PortIx)
  | portDisable (a : Agent) (n : PortIx)
  | portRetrain (a : Agent) (n : PortIx)
  | trainingComplete (n : PortIx) (peerId : BitVec 16) (peerPort : BitVec 4)
  | trainingTimeout (n : PortIx)
  | keepaliveSend (n : PortIx)
  | keepaliveWindow (n : PortIx)
  | data (n : PortIx) (c : Cell)
  | ctrl (n : PortIx) (c : Cell)
  | nak (n : PortIx) (ack : BitVec 12)
  | keepalive (n : PortIx) (c : Cell)
  -- the convoy engine
  | collectiveStart
  | ready (n : PortIx) (m : ConvoyMsg) (r : ReadyInfo)
  | chunk (n : PortIx) (m : ConvoyMsg) (c : ChunkInfo)
  | refuse (n : PortIx) (m : ConvoyMsg) (epoch : Byte)
  | abort (n : PortIx) (m : ConvoyMsg) (c : CtrlInfo)
  | memberFail (n : PortIx) (m : ConvoyMsg) (c : CtrlInfo)
  | slow (n : PortIx) (m : ConvoyMsg) (c : CtrlInfo)
  | slowRepeat (k : StackIx)
  | convoyTimeout (fgid : W32) (rank : BitVec 16)
  | collectiveComplete (fgid : W32)
  -- streams
  | streamOpen (a : Agent)
  | streamClose (a : Agent)
  | streamResume (a : Agent)
  | streamDoorbell (a : Agent) (s : StreamIx) (v : W32)
  | hamperFetch (s : StreamIx)
  | commandDispatch (host : List PByte)
  | nop (s : StreamIx) (c : StreamCmd)
  | launch (s : StreamIx) (c : StreamCmd)
  | launchComplete (s : StreamIx)
  | patch (s : StreamIx) (c : StreamCmd) (host : List PByte)
  | copy (s : StreamIx) (c : StreamCmd)
  | seal (s : StreamIx) (c : StreamCmd)
  | unseal (s : StreamIx) (c : StreamCmd) (host : List (List PByte × List PByte))
  | signal (s : StreamIx) (c : StreamCmd)
  | wait (s : StreamIx) (c : StreamCmd)
  | waitSatisfied (s : StreamIx)
  | waitTimeout (s : StreamIx)
  | barrier (s : StreamIx) (c : StreamCmd)
  | convoy (s : StreamIx) (c : StreamCmd)
  | reconcile (s : StreamIx) (c : StreamCmd)
  -- the host attachment
  | bar0Access (b : BarAcc)
  | bar2Access (b : BarAcc)
  | msixVectorWrite (vec : Fin 2048) (word : Fin 4) (v : W32)
  | hostCompletion (id : Nat) (ok : Bool) (d : List PByte)
  | hostCompletionTimeout (id : Nat)
  | pcieLinkUp (width : BitVec 4) (rate : BitVec 4)
  | pcieLinkDown
  | hostLost
  -- SPDM
  | getVersion
  | getCapabilities
  | negotiateAlgorithms (req : List Byte)
  | getDigests
  | getCertificate (req : List Byte)
  | challenge (req : List Byte)
  | getMeasurements (index : Byte) (nonce : BitVec 256)
  | keyExchange (req : List Byte)
  | finish (req : List Byte)
  | heartbeat
  | keyUpdate
  | endSession
  | confEnter
  | windowSet (w : Fin 64) (data hdr : BitVec 44) (chunks : BitVec 20) (part : BitVec 2) (ctx : BitVec 4)
  | windowClear (w : Fin 64)
  | keyInstall (g : W32)
  | keyRetire (g : W32)
  | regWrite (off : Nat) (v : W64)
  | regRead (off : Nat)
  -- security and management
  | measurementExtend (a : Agent) (v : W32)
  | tileClear (a : Agent) (v : W32)
  | entropyHealthFail
  | powerOn (p : MgmtPath)
  | powerOff (p : MgmtPath)
  | stage (p : MgmtPath) (slot : ImageSlot) (image : List Byte)
  | svnCommit (p : MgmtPath)
  | revoke (p : MgmtPath) (erev lrev : BitVec 4)
  | debugToken (p : MgmtPath) (uid : BitVec 128) (nonce : W64) (token : List Byte)
  | layout (p : MgmtPath) (mode : Fin 3)
  | devid (p : MgmtPath) (v : BitVec 16)
  | telemetry (p : MgmtPath)
  | faultlog (p : MgmtPath)
  | attest (p : MgmtPath) (nonce : BitVec 256)
  | anchorSet (p : MgmtPath) (slot : Fin 4) (anchor : List Byte)
  | lookoutHeartbeat
  | lookoutMailboxRequest (a : Agent) (v : W64)
  | lookoutMailboxReply (v : W64)
  -- interrupts
  | interruptLevelChange
  | icuClaim (a : Agent) (n : Fin 10)
  | icuComplete (a : Agent) (n : Fin 10) (src : BitVec 10)
  | pendset (a : Agent) (w : Fin 32) (v : W32)
  | pendclr (a : Agent) (w : Fin 32) (v : W32)
  | tmaskset (a : Agent) (src : Fin 1024) (v : W32)
  | tmaskclr (a : Agent) (src : Fin 1024) (v : W32)
  -- clocks and power
  | opChange (a : Agent) (v : W32)
  | pllLock (pg : Fin 16)
  | pllLockTimeout (pg : Fin 16)
  | voltageSettle
  | clockSwitchWatchdog (domain : Fin 28)
  | powerSample (watts : BitVec 12)
  | excursionBackstop
  | powerEvaluation
  | tileStateRequest (a : Agent) (v : W32)
  | tileIdleDusk (t : TileIx)
  | tileWakeComplete (t : TileIx)
  | deviceDuskRequest (a : Agent) (v : W32)
  | deviceWake
  | deviceDawnComplete
  | scDusk (n : Fin 8)
  | scWake (n : Fin 8)
  | hubClockEnable (a : Agent) (v : W32)
  -- reset, pins and errors
  | porstNAssert
  | porstNDeassert (straps : BitVec 4) (fuseOk : Bool) (stackOk : BitVec 12)
  | perstNAssert
  | lkoRstNAssert
  | pgoodTimeout
  | aoClkLoss
  | refclkLoss
  | scWatchdogExpiry (n : Fin 8)
  | watchdogKick (a : Agent) (n : Fin 8) (v : W32)
  | scRelease (a : Agent) (n : Fin 8) (v : W32)
  | scMachineCheck (n : Fin 8) (residue : Bool) (addr : W64)
  | sc0FailureRestart
  | operationRetire (t : TileIx)
  | rngReseedComplete (t : TileIx)
  | vectorClearComplete (t : TileIx)
  | tileClearComplete
  | stratusReseedComplete (k : StackIx)
  | junctionSample (temp : Int)
  | perstNDeassert
  | lkoRstNDeassert
  | pgoodRise
  | aoClkRestore
  | evtIoRisingEdge
  | mctpHeartbeatRequest
  | tlsSessionOpen (cert : List Byte)
  deriving DecidableEq, Repr

end Sys2Proof
end

