-- ==== Sys2Proof/Decode.lean ====
section
/-! DEFINITION. The command that a word spells. No row of spec/opcode_table.json has bits: a command reaches this block as an access, a
message, a slot of a bundle or an event, never as one word of an encoding (log entry 1). The fields of a bundle are read by
`Machine.bundleOps`. -/

namespace Sys2Proof

/-- The command that a word spells by the table's bits: none, since the table gives no row any bits. -/
def decodeTableWord (_nbits _w : Nat) : Option Instr := none

end Sys2Proof
end

