-- ==== Sys2Proof/Config.lean ====
section
/-! DEFINITION. What one implementation of the GC-4812 fixes and the manual leaves open. Every constant here is OPAQUE: it
has no body that Lean can evaluate, so a statement about it holds whatever its value is (log entries 5 to 12). -/

namespace Sys2Proof.Config

/-- The n-th value that the manual leaves open at run time: a free value (log entry 5). -/
opaque freeValue : Nat → BitVec 64

/-- Which of several equal places that the manual leaves to the device it takes: what is chosen (0 the spare of a row pair, 1 the remap entry,
2 the system channel of a COPY), the model's draw counter, the number of places; the place is this modulo that number (log entries 42 and
43). -/
opaque choose : Nat → Nat → Nat → Nat

/-- The retry limit of a system channel that carries a COPY (R435 does not state it; log entry 43). -/
opaque copyRetry : BitVec 4

/-- The n-th 64 bits drawn from the hub entropy source (R466; log entry 6). -/
opaque entropy : Nat → BitVec 64

/-- The numbering of the vector slot's op field: the manual names the operations (R176) and does not number them, except
that value 0 is NOP (R299). The result is an index into the operation list of `Operands.vopOfIndex` (log entry 7). -/
opaque vecOpIndex : BitVec 8 → Nat

/-- Where the results of a monotone function (R214) go from one encoding of the destination to the next: function code, destination format
code, number of the lower encoding; the first source, by `orderKey`, whose result is the upper one (R210; log entry 8). -/
opaque sfnStep : Nat → Nat → Int → Int

/-- Which of the results left open by R210 gelu, sin and cos return: function code, destination format code, source by `orderKey` (R216; log
entry 8). -/
opaque sfnPick : Nat → Nat → Int → Nat

/-- Which of the results left open by R222 a softmax element takes: the row's source bits as FP64, the element's index, destination format
code, rounding mode, random bits (log entry 8). -/
opaque softmaxPick : List (BitVec 64) → Nat → Nat → Nat → Nat → Nat

/-- Which FP64 value within 1 ulp pow(beta, t) of R357 gives: the bits of beta as FP64, t (log entry 8). -/
opaque powPick : BitVec 64 → Nat → Nat

/-- pow(beta, t) of R357 for a beta that is no number or infinite, which the group table excludes (log entry 8). -/
opaque powValue : BitVec 64 → Nat → BitVec 64

/-- SHA-384 (R270, R442, R446, R449; log entry 9). -/
opaque sha384 : List Byte → BitVec 384

/-- ECDSA P-384 verification of R443 step 6: public key, digest, signature (log entry 9). -/
opaque ecdsaVerify : List Byte → BitVec 384 → List Byte → Bool

/-- LMS verification of R443 step 7: public key, digest, signature (log entry 9). -/
opaque lmsVerify : List Byte → BitVec 384 → List Byte → Bool

/-- The ECDSA P-384 signature by the key derived from the secret: key material, digest, draw number (R449; log entry 9). -/
opaque ecdsaSign : BitVec 384 → BitVec 384 → Nat → BitVec 768

/-- HKDF-SHA-384 of RFC 5869: salt, input key material, info (R447, R463; log entry 9). -/
opaque hkdf : List Byte → List Byte → List Byte → BitVec 384

/-- AES-256-GCM encryption: key, nonce and associated data (16 bytes of header), plaintext; answers ciphertext and tag
(R461, R462; log entry 9). -/
opaque gcmSeal : BitVec 384 → List Byte → List Byte → List Byte × BitVec 128

/-- AES-256-GCM decryption: key, header bytes, ciphertext, tag; answers the plaintext when the tag verifies (R462; log
entry 9). -/
opaque gcmOpen : BitVec 384 → List Byte → List Byte → BitVec 128 → Option (List Byte)

/-- The body of an SPDM response whose bytes SPDM 1.3 fixes and the manual does not repeat: request code and request bytes
(R448; log entry 9). -/
opaque spdmBody : Nat → List Byte → List Byte

/-- The session secret S of R463 as it stands at FINISH (log entry 9). -/
opaque sessionSecret : Nat → BitVec 384

/-- Whether a client certificate chains to a trust anchor (R467; log entry 9). -/
opaque chainsTo : List Byte → List Byte → Bool

/-- Whether a debug-unlock token is signed under both rules of R442 by key slots that are not revoked (R450; log entry 9). -/
opaque tokenSigned : List Byte → BitVec 4 → BitVec 4 → Bool

/-- The tile code that the translator produces for a kernel of a module: module bytes, capability word, layout, checked
flag, kernel index (R261: the manual fixes what the code does, not which bundles it has; log entry 10). -/
opaque tileCode : List Byte → BitVec 64 → Nat → Bool → Nat → List (BitVec 256)

/-- Whether entry i of a module's section of a type is refused with BAD_FIELD by a check of R268 steps 6 and 7 that the model does not make:
module, capability word, layout, section type, entry (log entry 10). -/
opaque moduleCheck : List Byte → BitVec 64 → Nat → Nat → Nat → Bool

/-- Whether a module does not fit on a tile (R268 step 8: the size of translated code is the translator's; log entry 10). -/
opaque noSpace : List Byte → BitVec 64 → Nat → Bool

/-- The section and index that a load record shows for a failure of no one entry, by its status (R266; log entry 10). -/
opaque failPlace : List Byte → Nat → BitVec 16 × BitVec 32

/-- Translation time in µs and largest footprint in KiB of a load (R266; log entry 10). -/
opaque loadCost : List Byte → BitVec 64 → BitVec 32 × BitVec 32

/-- The fused contents of a part (R441): field number and 64-bit word of the field (log entry 11). -/
opaque fuse : Nat → Nat → BitVec 64

/-- A factory image of the Lookout store: kind 1 Lookout, 2 service cores, 3 base dies; slot A or B (R442: the bytes of a shipped image are
not given; log entry 11). -/
opaque storeImage : Nat → Bool → List Byte

/-- Where the translator places a kernel's code in the scratchpad: module, capability word, layout, kernel (R274: the translator
places; log entry 10). -/
opaque codePlace : List Byte → BitVec 64 → Nat → Nat → Nat

/-- STREAM_TBASE as firmware writes it at start-up (R524: the value is firmware's; log entry 44). -/
opaque streamBase : BitVec 64

/-- The ROM contents (R446: their digest extends slot 0; log entry 11). -/
opaque romBytes : List Byte

/-- What the sectors of a stack hold after an error in three or more symbols: the data read back (R325: such an error may be
miscorrected); stack, sector, draw (log entry 5). -/
opaque miscorrected : Nat → Nat → Nat → BitVec 256

/-- The body of a TELEMETRY answer: a draw for the counters that the manual does not name, and what the answer reports; its layout is not given
(R469; log entry 12). -/
opaque telemetryBody : Nat → List Int → List Byte

/-- The body of a FAULTLOG answer from the records and entries that it reports: its layout is not given (R469; log entry 12). -/
opaque faultlogBody : List Byte → List Byte

end Sys2Proof.Config
end

