-- ==== Sys2Proof/Machine/Tab.lean ====
section
/-! DEFINITION. Reading and writing a sparse table (`Tab`): keys strictly rising, no entry equal to the default. -/

namespace Sys2Proof.Machine

/-- What table `m` holds at number `k`; a number that is not listed holds the default `d`. -/
def tget {α : Type} (d : α) : Tab α → Nat → α
  | [], _ => d
  | (j, v) :: m, k => if k = j then v else if k < j then d else tget d m k

/-- The table with `v` at number `k`: writing the default removes the entry, so equal tables are equal data. -/
def tset {α : Type} [DecidableEq α] (d : α) : Tab α → Nat → α → Tab α
  | [], k, v => if v = d then [] else [(k, v)]
  | (j, w) :: m, k, v =>
    if k = j then (if v = d then m else (j, v) :: m)
    else if k < j then (if v = d then (j, w) :: m else (k, v) :: (j, w) :: m)
    else (j, w) :: tset d m k v

/-- `f` applied to what the table holds at number `k`. -/
def tmod {α : Type} [DecidableEq α] (d : α) (m : Tab α) (k : Nat) (f : α → α) : Tab α :=
  tset d m k (f (tget d m k))

/-- The canonical form: keys strictly rising, all of them at `lo` or above, and no entry equal to the default. -/
def Tab.wfFrom {α : Type} [DecidableEq α] (d : α) : Nat → Tab α → Bool
  | _, [] => true
  | lo, (j, v) :: m => decide (lo ≤ j) && decide (v ≠ d) && Tab.wfFrom d (j + 1) m

/-- The canonical form of a table. -/
def Tab.wf {α : Type} [DecidableEq α] (d : α) (m : Tab α) : Bool := Tab.wfFrom d 0 m

/-- Writes of consecutive entries from number `k` on. -/
def tsetList {α : Type} [DecidableEq α] (d : α) : Tab α → Nat → List α → Tab α
  | m, _, [] => m
  | m, k, v :: vs => tsetList d (tset d m k v) (k + 1) vs

/-- The entries `k` to `k + n - 1`. -/
def tgetList {α : Type} (d : α) (m : Tab α) (k : Nat) : Nat → List α
  | 0 => []
  | n + 1 => tget d m k :: tgetList d m (k + 1) n

end Sys2Proof.Machine
end

