-- ==== Sys2Proof/Machine/Flags.lean ====
section
/-! DEFINITION. The arithmetic flags of TSEQ_NUMFLAGS (R50) as a 10-bit set, and how units put them together. -/

namespace Sys2Proof.Machine

/-- Bits 9:0 of TSEQ_NUMFLAGS (01, register table). -/
abbrev Flags := BitVec 10

/-- inv, bit 0: invalid operation. -/
def fInv : Flags := 0x001#10
/-- dz, bit 1: zero argument at a pole. -/
def fDz : Flags := 0x002#10
/-- ovf, bit 2: floating-point overflow (R29). -/
def fOvf : Flags := 0x004#10
/-- unf, bit 3: tiny and inexact (R28). -/
def fUnf : Flags := 0x008#10
/-- inx, bit 4: inexact (R28). -/
def fInx : Flags := 0x010#10
/-- sat, bit 5: clamped (R29, R35, R545). -/
def fSat : Flags := 0x020#10
/-- wrap, bit 6: integer wrap (R35). -/
def fWrap : Flags := 0x040#10
/-- w80_ovf, bit 7: a W80 float accumulation overflowed (R20). -/
def fW80 : Flags := 0x080#10
/-- nan_scale, bit 8: an E8M0 scale of 0xFF was decoded (R48). -/
def fNanScale : Flags := 0x100#10
/-- nan_in, bit 9: a NaN operand entered an operation (R546). -/
def fNanIn : Flags := 0x200#10

/-- The flag `f` when the condition holds. -/
def fWhen (c : Bool) (f : Flags) : Flags := if c then f else 0

/-- The union of the flags of a list of results. -/
def fUnion (l : List Flags) : Flags := l.foldl (· ||| ·) 0

/-- The value of TSEQ_NUMFLAGS after a unit raised `f`: the bits of `f`, and src bit 16 + `src` (0 arrays, 1 vector engine,
2 special-function pipes) when `f` is not empty (R50, R51). -/
def numflagsRaise (nf : BitVec 32) (f : Flags) (src : Nat) : BitVec 32 :=
  if f = 0 then nf else nf ||| f.zeroExtend 32 ||| (1#32 <<< (16 + src))

end Sys2Proof.Machine
end

