-- ==== Sys2Proof/Machine/Num.lean ====
section
/-! DEFINITION. Number formats and arithmetic (R13 to R49, R545, R546): every format decodes to an exact value, every
operation is exact, and one rounding brings the value to the destination format. -/

namespace Sys2Proof.Machine

/-- An exact value: NaN, an infinity, or (−1)^s × m × 2^e (m = 0: a zero of sign s). -/
inductive FVal where
  | nan
  | inf (s : Bool)
  | fin (s : Bool) (m : Nat) (e : Int)
  deriving DecidableEq, Repr

/-- The element formats of R108 and R167. -/
inductive Fmt where
  | bf16 | fp16 | e5m2 | e4m3 | e2m1 | int8 | uint8 | int4 | fp32 | fp64 | int16 | int32 | raw
  deriving DecidableEq, Repr

/-- The 4-bit format codes of R108, extended by R167. -/
def Fmt.ofCode : Nat → Option Fmt
  | 0 => some .bf16 | 1 => some .fp16 | 2 => some .e5m2 | 3 => some .e4m3 | 4 => some .e2m1
  | 5 => some .int8 | 6 => some .uint8 | 7 => some .int4 | 8 => some .fp32 | 9 => some .fp64
  | 10 => some .int16 | 11 => some .int32 | 12 => some .raw | _ => none

/-- The code of a format (R108, R167). -/
def Fmt.code : Fmt → Nat
  | .bf16 => 0 | .fp16 => 1 | .e5m2 => 2 | .e4m3 => 3 | .e2m1 => 4 | .int8 => 5 | .uint8 => 6 | .int4 => 7
  | .fp32 => 8 | .fp64 => 9 | .int16 => 10 | .int32 => 11 | .raw => 12

/-- Width in bits (R108; RAW words have 32, R166). -/
def Fmt.bits : Fmt → Nat
  | .bf16 | .fp16 | .int16 => 16
  | .e5m2 | .e4m3 | .int8 | .uint8 => 8
  | .e2m1 | .int4 => 4
  | .fp32 | .int32 | .raw => 32
  | .fp64 => 64

/-- The floating-point formats of R13. -/
def Fmt.isFloat : Fmt → Bool
  | .bf16 | .fp16 | .e5m2 | .e4m3 | .e2m1 | .fp32 | .fp64 => true
  | _ => false

/-- The integer formats of R23 that are signed. -/
def Fmt.signed : Fmt → Bool
  | .uint8 | .raw => false
  | _ => true

/-- The layout of a floating-point format (R13, R14): fraction bits, exponent bits, bias, and the largest finite encoding. -/
structure FSpec where
  frac : Nat
  ebits : Nat
  bias : Nat
  maxBits : Nat
  deriving DecidableEq, Repr

/-- The layouts of R13 and R14; the integer formats take FP64's, which no caller uses. -/
def Fmt.spec : Fmt → FSpec
  | .bf16 => ⟨7, 8, 127, 0x7F7F⟩
  | .fp16 => ⟨10, 5, 15, 0x7BFF⟩
  | .e5m2 => ⟨2, 5, 15, 0x7B⟩
  | .e4m3 => ⟨3, 4, 7, 0x7E⟩
  | .e2m1 => ⟨1, 2, 1, 0x7⟩
  | .fp32 => ⟨23, 8, 127, 0x7F7FFFFF⟩
  | _ => ⟨52, 11, 1023, 0x7FEFFFFFFFFFFFFF⟩

/-- The sign bit position of a float format. -/
def FSpec.sbit (f : FSpec) : Nat := f.frac + f.ebits

/-- The canonical NaN of R15; E2M1 has none. -/
def Fmt.nanBits : Fmt → Nat
  | .fp64 => 0x7FF8000000000000 | .fp32 => 0x7FC00000 | .bf16 => 0x7FC0 | .fp16 => 0x7E00
  | .e5m2 => 0x7E | .e4m3 => 0x7F | _ => 0

/-- The formats that have infinities (R15). -/
def Fmt.hasInf : Fmt → Bool
  | .e4m3 | .e2m1 => false
  | _ => true

/-- The exponent of the least significant bit of a subnormal: 1 − bias − frac (R13). -/
def FSpec.qmin (f : FSpec) : Int := 1 - (f.bias : Int) - (f.frac : Int)

/-- The value of an encoding in a floating-point format (R13, R15). -/
def decF (fmt : Fmt) (w : Nat) : FVal :=
  let f := fmt.spec
  let s : Bool := (w / 2 ^ f.sbit) % 2 = 1
  let e : Nat := (w / 2 ^ f.frac) % 2 ^ f.ebits
  let m : Nat := w % 2 ^ f.frac
  let top : Bool := e = 2 ^ f.ebits - 1
  if top && fmt.hasInf then (if m = 0 then .inf s else .nan)
  else if top && fmt = .e4m3 && m = 7 then .nan
  else if e = 0 then .fin s m f.qmin
  else .fin s (m + 2 ^ f.frac) (f.qmin + e - 1)

/-- The integer value of an encoding in an integer format (R23). -/
def decI (fmt : Fmt) (w : Nat) : Int :=
  let n := fmt.bits
  let v : Nat := w % 2 ^ n
  if fmt.signed && 2 ^ (n - 1) ≤ v then (v : Int) - 2 ^ n else v

/-- An integer as an exact value; 0 is +0 (R39). -/
def FVal.ofInt (i : Int) : FVal := .fin (i < 0) i.natAbs 0

/-- The exact value of an element of any format but RAW. -/
def decAny (fmt : Fmt) (w : Nat) : FVal :=
  if fmt.isFloat then decF fmt w else .ofInt (decI fmt w)

/-- The number of bits of a natural number. -/
def bitLen (m : Nat) : Nat := if m = 0 then 0 else m.log2 + 1

/-- m × 2^d for d ≥ 0. -/
def shl (m : Nat) (d : Int) : Nat := m * 2 ^ d.toNat

/-- Whether a rounding adds one to the kept part: rounding mode, 16 random bits, sign, kept part, discarded part of `d` bits
(R25, R32). A reserved mode rounds as RNE (R26). -/
def roundUp (rm : Nat) (r : Nat) (s : Bool) (kept rem d : Nat) : Bool :=
  match rm with
  | 1 => false
  | 2 => s && rem ≠ 0
  | 3 => !s && rem ≠ 0
  | 4 =>
    let D := if 16 ≤ d then rem / 2 ^ (d - 16) else rem * 2 ^ (16 - d)
    65536 ≤ D + r
  | _ => if 2 * rem = 2 ^ d then kept % 2 = 1 else 2 ^ d < 2 * rem

/-- m × 2^e rounded to a multiple of 2^q: the multiple and whether it is inexact. -/
def roundAt (rm r : Nat) (s : Bool) (m : Nat) (e q : Int) : Nat × Bool :=
  if q ≤ e then (shl m (e - q), false)
  else
    let d := (q - e).toNat
    let kept := m / 2 ^ d
    let rem := m % 2 ^ d
    (if roundUp rm r s kept rem d then kept + 1 else kept, rem ≠ 0)

/-- m × 2^e rounded to p significant bits, no bit below 2^qmin kept: multiple, exponent, inexact (R27). -/
def roundP (rm r p : Nat) (qmin : Option Int) (s : Bool) (m : Nat) (e : Int) : Nat × Int × Bool :=
  let q0 := e + bitLen m - p
  let q := match qmin with | none => q0 | some x => max q0 x
  let (k, inx) := roundAt rm r s m e q
  (k, q, inx)

/-- Comparison a × 2^ea < b × 2^eb. -/
def ltScaled (a : Nat) (ea : Int) (b : Nat) (eb : Int) : Bool :=
  let e := min ea eb
  shl a (ea - e) < shl b (eb - e)

/-- The encoding of a value that the format represents exactly: sign, multiple, exponent (R13). -/
def packF (f : FSpec) (s : Bool) (m : Nat) (q : Int) : Nat :=
  let sg := if s then 2 ^ f.sbit else 0
  if m = 0 then sg
  else
    let E := q + bitLen m - 1
    let emin : Int := 1 - (f.bias : Int)
    if E < emin then
      sg + (if f.qmin ≤ q then shl m (q - f.qmin) else m / 2 ^ (f.qmin - q).toNat)
    else
      let L := bitLen m
      let mm := if L ≤ f.frac + 1 then m * 2 ^ (f.frac + 1 - L) else m / 2 ^ (L - f.frac - 1)
      sg + (E + f.bias).toNat * 2 ^ f.frac + (mm - 2 ^ f.frac)

/-- Whether rounding under `rm` of an overflowing value of sign `s` gives an infinity (R29). -/
def ovfToInf (rm : Nat) (s : Bool) : Bool :=
  match rm with
  | 1 => false
  | 2 => s
  | 3 => !s
  | _ => true

/-- The result that stands for an infinity of sign `s` with sat = 0, in a format that may lack one (R15, R30, R31). -/
def infBits (fmt : Fmt) (s : Bool) : Nat :=
  let sg := if s then 2 ^ fmt.spec.sbit else 0
  match fmt with
  | .e4m3 => 0x7F
  | .e2m1 => sg + 7
  | _ => sg + (2 ^ fmt.spec.ebits - 1) * 2 ^ fmt.spec.frac

/-- The largest finite encoding of sign `s`. -/
def maxBits (fmt : Fmt) (s : Bool) : Nat := (if s then 2 ^ fmt.spec.sbit else 0) + fmt.spec.maxBits

/-- The flag inv of a reserved rounding mode (R26). -/
def rmFlags (rm : Nat) : Flags := fWhen (5 ≤ rm) fInv

/-- An exact value brought to a floating-point format: rounding mode, sat, 16 random bits; answers encoding and flags (R27 to
R32, R38, R39, R545). The flags of the operation itself (nan_in, inv, dz) are its own. -/
def encF (fmt : Fmt) (rm : Nat) (sat : Bool) (r : Nat) (v : FVal) : Nat × Flags :=
  let f := fmt.spec
  match v with
  | .nan => (fmt.nanBits, fWhen (fmt = .e2m1) fInv)
  | .inf s =>
    if sat then (maxBits fmt s, fSat ||| fWhen (!fmt.hasInf) fInv)
    else (infBits fmt s, fWhen (!fmt.hasInf) fInv)
  | .fin s m e =>
    if m = 0 then (packF f s 0 0, 0)
    else
      let p := f.frac + 1
      let (k, q, inx) := roundP rm r p (some f.qmin) s m e
      let (kmax, qmax) := match decF fmt f.maxBits with | .fin _ km qm => (km, qm) | _ => (0, 0)
      if ltScaled kmax qmax k q then
        let fl := fOvf ||| fInx
        if sat then (maxBits fmt s, fl ||| fSat)
        else if fmt = .e2m1 then (maxBits fmt s, fl)
        else if ovfToInf rm s then (infBits fmt s, fl) else (maxBits fmt s, fl)
      else
        let (ku, qu, _) := roundP rm r p none s m e
        let tiny := ltScaled ku qu 1 (1 - (f.bias : Int))
        (packF f s k q, fWhen inx fInx ||| fWhen (inx && tiny) fUnf)

/-- An integer result brought to an integer format under sw (R35). -/
def encI (fmt : Fmt) (sw : Bool) (i : Int) : Nat × Flags :=
  let n := fmt.bits
  let lo : Int := if fmt.signed then -(2 ^ (n - 1)) else 0
  let hi : Int := if fmt.signed then 2 ^ (n - 1) - 1 else 2 ^ n - 1
  let md (x : Int) : Nat := (x % (2 ^ n : Int)).toNat
  if lo ≤ i ∧ i ≤ hi then (md i, 0)
  else if sw then (md i, fWrap)
  else if i < lo then (md lo, fSat) else (md hi, fSat)

/-- An exact value rounded to an integer under rm (R36): the integer and whether it was inexact. -/
def roundInt (rm r : Nat) (s : Bool) (m : Nat) (e : Int) : Int × Bool :=
  let (k, inx) := roundAt rm r s m e 0
  (if s then -(k : Int) else k, inx)

/-- A value converted to an integer format (R36, R35). -/
def encFI (fmt : Fmt) (rm : Nat) (sw : Bool) (r : Nat) (v : FVal) : Nat × Flags :=
  let n := fmt.bits
  let lo : Int := if fmt.signed then -(2 ^ (n - 1)) else 0
  let hi : Int := if fmt.signed then 2 ^ (n - 1) - 1 else 2 ^ n - 1
  let md (x : Int) : Nat := (x % (2 ^ n : Int)).toNat
  match v with
  | .nan => (0, fInv)
  | .inf s => if sw then (0, fInv) else (md (if s then lo else hi), fInv ||| fSat)
  | .fin s m e =>
    let (i, inx) := roundInt rm r s m e
    let (w, fl) := encI fmt sw i
    (w, fl ||| fWhen inx fInx)

/-- A value brought to any format but RAW. -/
def encAny (fmt : Fmt) (rm : Nat) (sat sw : Bool) (r : Nat) (v : FVal) : Nat × Flags :=
  if fmt.isFloat then encF fmt rm sat r v else encFI fmt rm sw r v

/-- The flag nan_in when a value is NaN (R546). -/
def nanFlag (v : FVal) : Flags := fWhen (v = .nan) fNanIn

/-- A conversion between two formats (R37, R38, R39, R546): encoding and flags. A conversion that R37 calls exact sets none
for finite inputs, which the rounding gives by itself. -/
def cvt (src dst : Fmt) (rm : Nat) (sat sw : Bool) (r : Nat) (w : Nat) : Nat × Flags :=
  if src.isFloat then
    let v := decF src w
    let (o, fl) := encAny dst rm sat sw r v
    (o, fl ||| nanFlag v ||| rmFlags rm)
  else if dst.isFloat then
    let (o, fl) := encF dst rm sat r (.ofInt (decI src w))
    (o, fl ||| rmFlags rm)
  else encI dst sw (decI src w)

/-! ### Exact arithmetic -/

/-- The sign of a value. -/
def FVal.neg? : FVal → Bool
  | .nan => false
  | .inf s => s
  | .fin s _ _ => s

/-- Whether a value is a zero. -/
def FVal.isZero : FVal → Bool
  | .fin _ 0 _ => true
  | _ => false

/-- Negation; a NaN stays a NaN (R43). -/
def FVal.negate : FVal → FVal
  | .nan => .nan
  | .inf s => .inf (!s)
  | .fin s m e => .fin (!s) m e

/-- Absolute value (R43). -/
def FVal.abs : FVal → FVal
  | .nan => .nan
  | .inf _ => .inf false
  | .fin _ m e => .fin false m e

/-- The signed multiple of 2^q that a finite value is, for q not above its exponent. -/
def FVal.scaled (q : Int) : FVal → Int
  | .fin s m e => let k : Int := shl m (e - q); if s then -k else k
  | _ => 0

/-- The exponent of a finite value's multiple. -/
def FVal.ex : FVal → Int
  | .fin _ _ e => e
  | _ => 0

/-- The exact sum of finite values as a signed multiple and its exponent. -/
def sumScaled (l : List FVal) : Int × Int :=
  let q := l.foldl (fun q v => min q v.ex) 0
  (l.foldl (fun a v => a + v.scaled q) 0, q)

/-- The value of a signed multiple; a zero has sign `z`. -/
def FVal.ofScaled (z : Bool) (k : Int) (q : Int) : FVal :=
  if k = 0 then .fin z 0 0 else .fin (k < 0) k.natAbs q

/-- a + b exactly, by IEEE 754-2019 and R43; `rdn`: rounding toward −infinity is in force. -/
def fadd (rdn : Bool) (a b : FVal) : FVal × Flags :=
  match a, b with
  | .nan, _ => (.nan, fNanIn)
  | _, .nan => (.nan, fNanIn)
  | .inf s, .inf t => if s = t then (.inf s, 0) else (.nan, fInv)
  | .inf s, .fin _ _ _ => (.inf s, 0)
  | .fin _ _ _, .inf t => (.inf t, 0)
  | .fin s m e, .fin t n f =>
    let z := if m = 0 ∧ n = 0 ∧ s = t then s else rdn
    let (k, q) := sumScaled [.fin s m e, .fin t n f]
    (.ofScaled z k q, 0)

/-- a × b exactly (R43). -/
def fmul (a b : FVal) : FVal × Flags :=
  match a, b with
  | .nan, _ => (.nan, fNanIn)
  | _, .nan => (.nan, fNanIn)
  | .inf s, .inf t => (.inf (s != t), 0)
  | .inf s, .fin t n _ => if n = 0 then (.nan, fInv) else (.inf (s != t), 0)
  | .fin s m _, .inf t => if m = 0 then (.nan, fInv) else (.inf (s != t), 0)
  | .fin s m e, .fin t n f => (.fin (s != t) (m * n) (e + f), 0)

/-- a × b + c with one rounding to come (R27). -/
def ffma (rdn : Bool) (a b c : FVal) : FVal × Flags :=
  let (p, f1) := fmul a b
  let (s, f2) := fadd rdn p c
  if p = .nan then (.nan, f1 ||| nanFlag c) else (s, f1 ||| f2)

/-- Comparison of two values that are not NaN: less than, with −0 = +0 (R45). -/
def fltNum (a b : FVal) : Bool :=
  match a, b with
  | .inf s, .inf t => s && !t
  | .inf s, _ => s
  | _, .inf t => !t
  | .fin s m e, .fin t n f =>
    let (k, _) := sumScaled [.fin s m e, .fin (!t) n f]
    k < 0
  | _, _ => false

/-- a < b, unordered false (R45). -/
def flt (a b : FVal) : Bool := if a = .nan ∨ b = .nan then false else fltNum a b

/-- a = b, unordered false (R45). -/
def feq (a b : FVal) : Bool := if a = .nan ∨ b = .nan then false else !fltNum a b && !fltNum b a

/-- The six comparisons in the order eq, ne, lt, le, gt, ge (R45, R176, R303). -/
def fcmp (k : Nat) (a b : FVal) : Bool :=
  match k with
  | 0 => feq a b
  | 1 => !feq a b
  | 2 => flt a b
  | 3 => flt a b || feq a b
  | 4 => flt b a
  | _ => flt b a || feq a b

/-- The six comparisons on integers. -/
def icmp (k : Nat) (a b : Int) : Bool :=
  match k with
  | 0 => a = b
  | 1 => a ≠ b
  | 2 => a < b
  | 3 => a ≤ b
  | 4 => b < a
  | _ => b ≤ a

/-- maximumNumber and minimumNumber of R44: −0 below +0, a NaN yields the other operand. -/
def fmaxmin (mx : Bool) (a b : FVal) : FVal × Flags :=
  let fl := nanFlag a ||| nanFlag b
  match a, b with
  | .nan, _ => (b, fl)
  | _, .nan => (a, fl)
  | _, _ =>
    let aLess := fltNum a b || (!fltNum b a && a.neg? && !b.neg?)
    (if mx then (if aLess then b else a) else (if aLess then a else b), fl)

/-- The sum of a list by the order of R41 and R179: NaN first, then opposite infinities, then an infinity, then the exact
sum. A zero sum of zeros of one sign keeps that sign; any other zero sum is +0, or −0 when rounding toward −infinity is in
force (R43). -/
def fsum (rdn : Bool) (l : List FVal) : FVal × Flags :=
  if l.any (· = .nan) then (.nan, fNanIn)
  else if l.any (· = .inf false) && l.any (· = .inf true) then (.nan, fInv)
  else if l.any (· = .inf false) then (.inf false, 0)
  else if l.any (· = .inf true) then (.inf true, 0)
  else
    let (k, q) := sumScaled l
    let z :=
      if l.all (fun v => v.isZero && v.neg?) then l ≠ []
      else if l.all (fun v => v.isZero && !v.neg?) then false else rdn
    (.ofScaled z k q, 0)

/-! ### Quotients and roots, kept to 128 bits with a sticky last bit: enough for one correct rounding -/

/-- n / d for d ≠ 0 as m × 2^e, its last bit set when the quotient is not exact. -/
def divSticky (n d : Nat) : Nat × Int :=
  let sh := 130 + bitLen d
  let q := n * 2 ^ sh / d
  let rem := n * 2 ^ sh % d
  (2 * q + (if rem = 0 then 0 else 1), -(sh : Int) - 1)

/-- The integer square root by bisection on bits, from bit `i` down. -/
def isqrtGo (n : Nat) : Nat → Nat → Nat
  | 0, acc => acc
  | i + 1, acc =>
    let t := acc + 2 ^ i
    isqrtGo n i (if t * t ≤ n then t else acc)

/-- ⌊√n⌋. -/
def isqrt (n : Nat) : Nat := isqrtGo n (bitLen n / 2 + 1) 0

/-- √(m × 2^e) as m' × 2^e', its last bit set when it is not exact. -/
def sqrtSticky (m : Nat) (e : Int) : Nat × Int :=
  let sh0 : Nat := 280
  let sh := if (e - sh0) % 2 = 0 then sh0 else sh0 + 1
  let n := m * 2 ^ sh
  let r := isqrt n
  (2 * r + (if r * r = n then 0 else 1), (e - sh) / 2 - 1)

/-- a / b by IEEE 754-2019. -/
def fdiv (a b : FVal) : FVal × Flags :=
  match a, b with
  | .nan, _ => (.nan, fNanIn)
  | _, .nan => (.nan, fNanIn)
  | .inf _, .inf _ => (.nan, fInv)
  | .inf s, .fin t _ _ => (.inf (s != t), 0)
  | .fin s _ _, .inf t => (.fin (s != t) 0 0, 0)
  | .fin s m e, .fin t n f =>
    if n = 0 then (if m = 0 then (.nan, fInv) else (.inf (s != t), fDz))
    else if m = 0 then (.fin (s != t) 0 0, 0)
    else let (k, q) := divSticky m n; (.fin (s != t) k (q + e - f), 0)

/-- √a by IEEE 754-2019 (R211). -/
def fsqrt (a : FVal) : FVal × Flags :=
  match a with
  | .nan => (.nan, fNanIn)
  | .inf s => if s then (.nan, fInv) else (.inf false, 0)
  | .fin s m e =>
    if m = 0 then (.fin s 0 0, 0)
    else if s then (.nan, fInv)
    else let (k, q) := sqrtSticky m e; (.fin false k q, 0)

/-- 1/√a (R211): √(1/a), with the sticky bit kept through both steps. -/
def frsqrt (a : FVal) : FVal × Flags :=
  match a with
  | .nan => (.nan, fNanIn)
  | .inf s => if s then (.nan, fInv) else (.fin false 0 0, 0)
  | .fin s m e =>
    if m = 0 then (.inf false, fDz)
    else if s then (.nan, fInv)
    else
      let sh := 400 + bitLen m
      let q := 2 ^ sh / m
      let rem := 2 ^ sh % m
      let ex : Int := -(sh : Int) - e
      let (n, x) := if ex % 2 = 0 then (q, ex) else (2 * q + 2 * rem / m, ex - 1)
      let r := isqrt n
      let exact := r * r = n && rem = 0
      (.fin false (2 * r + (if exact then 0 else 1)) (x / 2 - 1), 0)

/-! ### FP64 arithmetic in one rounding (RNE), used by rstat and the stratus units -/

/-- A value rounded to FP64 under RNE, as a value again. -/
def r64 (v : FVal) : FVal := decF .fp64 (encF .fp64 0 false 0 v).1
/-- A value rounded to FP32 under RNE, as a value again. -/
def r32 (v : FVal) : FVal := decF .fp32 (encF .fp32 0 false 0 v).1
/-- FP64 addition. -/
def add64 (a b : FVal) : FVal := r64 (fadd false a b).1
/-- FP64 subtraction. -/
def sub64 (a b : FVal) : FVal := r64 (fadd false a b.negate).1
/-- FP64 multiplication. -/
def mul64 (a b : FVal) : FVal := r64 (fmul a b).1
/-- FP64 division. -/
def div64 (a b : FVal) : FVal := r64 (fdiv a b).1
/-- FP64 square root. -/
def sqrt64 (a : FVal) : FVal := r64 (fsqrt a).1
/-- FP64 fused multiply-add. -/
def fma64 (a b c : FVal) : FVal := r64 (ffma false a b c).1
/-- A natural number as a value. -/
def FVal.ofNat (n : Nat) : FVal := .fin false n 0

/-! ### W80 (R17 to R22) -/

/-- The value of a W80 float encoding, the encodings of R18 included. -/
def decW80 (w : Nat) : FVal :=
  let s : Bool := (w / 2 ^ 79) % 2 = 1
  let e : Nat := (w / 2 ^ 64) % 2 ^ 15
  let m : Nat := w % 2 ^ 64
  if e = 0x7FFF then (if m = 2 ^ 63 then .inf s else .nan)
  else if e = 0 then .fin s m (-16445)
  else .fin s m ((e : Int) - 16383 - 63)

/-- An exact value rounded to W80 float under a rounding mode (R19, R20, R76). -/
def encW80rm (rm r : Nat) (v : FVal) : Nat × Flags :=
  match v with
  | .nan => (0x7FFF * 2 ^ 64 + 0xC000000000000000, 0)
  | .inf s => ((if s then 2 ^ 79 else 0) + 0x7FFF * 2 ^ 64 + 2 ^ 63, 0)
  | .fin s m e =>
    let sg := if s then 2 ^ 79 else 0
    if m = 0 then (sg, 0)
    else
      let (k, q, inx) := roundP rm r 64 (some (-16445)) s m e
      let E := q + bitLen k - 1
      if 16383 < E then (sg + 0x7FFF * 2 ^ 64 + 2 ^ 63, fOvf ||| fInx ||| fW80)
      else if E < -16382 then
        let (ku, qu, _) := roundP rm r 64 none s m e
        (sg + shl k (q + 16445), fWhen inx fInx ||| fWhen (inx && ltScaled ku qu 1 (-16382)) fUnf)
      else (sg + (E + 16383).toNat * 2 ^ 64 + k * 2 ^ (64 - bitLen k), fWhen inx fInx)

/-- An exact value rounded to W80 under RNE (R20). -/
def encW80 (v : FVal) : Nat × Flags := encW80rm 0 0 v

/-- The integer of a W80 integer-mode entry (R21). -/
def decW80I (w : Nat) : Int :=
  let v : Nat := w % 2 ^ 64
  if 2 ^ 63 ≤ v then (v : Int) - 2 ^ 64 else v

/-- An exact integer put into a W80 integer-mode entry under sw (R21, R35). -/
def encW80I (sw : Bool) (i : Int) : Nat × Flags :=
  let md (x : Int) : Nat := (x % (2 ^ 64 : Int)).toNat
  if -(2 ^ 63) ≤ i ∧ i < 2 ^ 63 then (md i, 0)
  else if sw then (md i, fWrap)
  else if i < 0 then (2 ^ 63, fSat) else (2 ^ 63 - 1, fSat)

/-! ### Block scales (R46 to R49) -/

/-- The value of an element under an E8M0 scale: NaN for 0xFF, otherwise the element's value times 2^(S − 127) (R46, R48). -/
def scaleVal (v : FVal) (sc : Nat) : FVal × Flags :=
  if sc = 0xFF then (.nan, fNanScale)
  else match v with
    | .fin s m e => (if m = 0 then .fin s 0 0 else .fin s m (e + sc - 127), 0)
    | x => (x, 0)

/-! ### Piece splitting (R57) and slicing (R70, R71) -/

/-- The hi, mid and lo pieces of an FP32 operand with the flags of R58. -/
def splitPieces (a : FVal) : FVal × FVal × FVal × Flags :=
  match a with
  | .nan => (.nan, .fin false 0 0, .fin false 0 0, 0)
  | .inf s => (.inf s, .fin false 0 0, .fin false 0 0, 0)
  | .fin s m e =>
    let toB (sat : Bool) (v : FVal) : FVal := decF .bf16 (encF .bf16 0 sat 0 v).1
    let hi := toB true (.fin s m e)
    let rho1 := (fadd false (.fin s m e) hi.negate).1
    let mid := toB false rho1
    let rho2 := (fadd false rho1 mid.negate).1
    let lo := toB false rho2
    let rest := (fadd false rho2 lo.negate).1
    let fl := fWhen (!rest.isZero) (fUnf ||| fInx)
    let pz (v : FVal) : FVal := if v.isZero then .fin false 0 0 else v
    (hi, pz mid, pz lo, fl)

/-- The integer M of R70 for an element of a row with exponent E, n slices; flags sat and inx. -/
def sliceInt (n : Nat) (E : Int) (a : FVal) : Int × Flags :=
  match a with
  | .fin s m e =>
    if m = 0 then (0, 0)
    else
      let lim : Nat := 2 ^ (7 * n) - 1
      let sg (k : Nat) : Int := if s then -(k : Int) else k
      if !ltScaled m e 1 (E + 1) then (sg lim, fSat ||| fInx)
      else
        let (k, inx) := roundAt 0 0 s m (e + 7 * n - 1 - E) 0
        (sg (min k lim), fWhen inx fInx)
  | _ => (0, 0)

/-- Slice t of M (R71). -/
def sliceAt (n : Nat) (M : Int) (t : Nat) : Int :=
  let c : Int := ((M.natAbs / 2 ^ (7 * (n - 1 - t)) % 128 : Nat) : Int)
  if M < 0 then -c else c

end Sys2Proof.Machine
end

