-- ==== Sys2Proof/Machine/TileState.lean ====
section
/-! DEFINITION. The state of one tile as plain data: scratchpad, sequencer, arrays, compressor, vector engine,
special-function pipes, DMA channels and phase timers (03 to 07, 10, 13, 19), and the work it has in flight. -/

namespace Sys2Proof.Machine

/-- The power states of a tile (R495). -/
inductive PowerSt where
  | noon | dusk | night | dawn
  deriving DecidableEq, Repr

/-- The sequencer's states (R305). -/
inductive SeqSt where
  | halted | loading | running | waiting
  deriving DecidableEq, Repr

/-- What a Waiting sequencer waits for (R93, R303): a comparator or a fence. -/
inductive WaitFor where
  | comparator (n : Fin 4)
  | fence
  deriving DecidableEq, Repr

/-! ### Sequencer -/

/-- A live hardware loop (R312): its counter, its address A, its end E; the list of live loops is innermost first. -/
structure LoopRec where
  k : Nat
  a : Nat
  e : Nat
  deriving DecidableEq, Repr

/-- A phase timer (R514 to R519). -/
structure PhTimer where
  run : Bool := false
  ivl : BitVec 12 := 0
  tag : BitVec 16 := 0
  cnt : W64 := 0
  sum : W64 := 0
  deriving DecidableEq, Repr

/-- The timer after reset. -/
def PhTimer.zero : PhTimer := {}

/-- The sequencer block (R89, R104, R317). -/
structure SeqBlk where
  st : SeqSt := .halted
  valid : Bool := false
  chk : Bool := false
  pc : BitVec 11 := 0
  trap : W32 := 0
  /-- A halt by a summary-poison read, a poisoned ld or an uncorrectable bundle-store read since the last start (R181, R304,
  R528). -/
  mcHalt : Bool := false
  /-- A halt by trap or a checked-mode event since the last start (R508, use 3). -/
  trapHalt : Bool := false
  /-- The tile fault latch: a trap, wait limit, refused claim or checked-mode event since the last start (R305, R318, R472). -/
  faultHalt : Bool := false
  codebase : W32 := 0
  codelen : W32 := 0
  /-- TSEQ_HAZ (R317). -/
  haz : W32 := 0
  /-- TSEQ_CHKFLT (R317). -/
  chkflt : W32 := 0
  numflags : W32 := 0
  ev : Tab W32 := []
  cmpsel : Tab W32 := []
  cmpthr : Tab W32 := []
  waitlim : W32 := 0
  waitflt : W32 := 0
  gatedReq : BitVec 16 := 0
  xpartEvt : BitVec 16 := 0
  param : Tab W64 := []
  scalar : Tab W64 := []
  sum : Tab W64 := []
  loop : Tab W32 := []
  loops : List LoopRec := []
  wait : Option WaitFor := none
  /-- The cycle in which the waiting wait or fence issued (R94). -/
  waitAt : Nat := 0
  /-- Cycle before which no bundle issues: a taken branch, a loop of count zero, a resumption, a start (R93, R303, R304). -/
  nextAt : Nat := 0
  /-- The bundle address after the last bundle issued, and the loop counters before its loop-back (R305, R313). -/
  undo : Option (Nat × Tab W32) := none
  /-- The bundle store: bundle number to its 256 bits, and the bundles that hold an uncorrectable word (R304). -/
  store : Tab (BitVec 256) := []
  storeBad : Tab Bool := []
  deriving DecidableEq, Repr

/-! ### Matrix arrays -/

/-- An accumulator entry (R119). -/
structure AccE where
  val : BitVec 80 := 0
  tag : BitVec 2 := 0
  pois : Bool := false
  deriving DecidableEq, Repr

/-- +0 with tag none and poison clear (R126). -/
def AccE.zero : AccE := {}

/-- The three matrix-slot operations (R134). -/
inductive MxKind where
  | mma | accld | accst
  deriving DecidableEq, Repr

/-- An operation of an array: issue number, bundle address, issue cycle, kind, the eight descriptor words, the failed checks
that its step brings (R137), and the cycle in which its exponent vectors are read. -/
structure MxOp where
  seq : Nat
  pc : Nat
  kind : MxKind
  w : List W64
  ck : List CheckFail
  deriving DecidableEq, Repr

/-- One array (R115, R116, R119, R121, R122, R139). -/
structure MxArr where
  run : Option MxOp := none
  pend : Option MxOp := none
  /-- First cycle in which every result of the last operation is visible (R116: last_visible). -/
  lastVis : Nat := 0
  /-- hr, b and the first broadcasts st of the last steps, newest first (R116); `gidx` counts the steps. -/
  hr : Nat := 0
  b : Nat := 0
  sts : List Nat := []
  gidx : Nat := 0
  amode : BitVec 2 := 0
  sliceN : BitVec 4 := 0
  stat : BitVec 5 := 0
  /-- The accumulator file as the read port sees it, and as the accumulate stage sees it (R113, R114), by 32 × row + column. -/
  acc : Tab AccE := []
  fwd : Tab AccE := []
  eVec : List (Int × Bool) := []
  fVec : List (Int × Bool) := []
  deriving DecidableEq, Repr

/-- The array after reset. -/
def MxArr.zero : MxArr := {}

/-- The TMX_ block but the arrays' own registers (R139). -/
structure MxBlk where
  clken : BitVec 4 := 0
  reserr : W32 := 0
  errcnt : BitVec 16 := 0
  arr : Tab MxArr := []
  deriving DecidableEq, Repr

/-! ### Drizzle compressor -/

/-- The compressor (R157 to R162). -/
structure DzBlk where
  active : Bool := false
  fmt : BitVec 4 := 0
  rowlen : BitVec 24 := 0
  rows : W32 := 0
  data : W32 := 0
  lim : W32 := 0
  dir : W32 := 0
  dstr : W32 := 0
  recAddr : W32 := 0
  pos : W32 := 0
  nnz : W64 := 0
  elem : W64 := 0
  occ : W32 := 0
  pass : W64 := 0
  stat : BitVec 4 := 0
  /-- The next block: row and block in the row. -/
  row : Nat := 0
  blk : Nat := 0
  /-- The present elements of each segment of the current window (R149, R150). -/
  seg : List Nat := []
  fullSeen : Bool := false
  dropSeen : Bool := false
  deriving DecidableEq, Repr

/-! ### Vector engine -/

/-- The vector engine (R165 to R202). -/
structure VeBlk where
  clrBusy : Bool := false
  sumpois : BitVec 8 := 0
  ptbank : Bool := false
  stat : BitVec 5 := 0
  rngBusy : Bool := false
  rngFixed : Bool := false
  seed : W64 := 0
  reserr : W32 := 0
  errcnt : BitVec 16 := 0
  vreg : Tab W32 := []
  vpois : Tab Bool := []
  /-- The lane generators (R190): state of each lane at the last load, and the steps taken since. -/
  rng : Tab W64 := []
  rngN : Nat := 0
  /-- The lanes and paths are occupied until these cycles (R171, R185); the unit of a load or store uses its path until. -/
  lanesFree : Nat := 0
  pathFree : Nat := 0
  /-- The load/store slot accepts an operation from this cycle (R186). -/
  lsFree : Nat := 0
  /-- A ptld has entries to write until this cycle (R196). -/
  ptldEnd : Nat := 0
  deriving DecidableEq, Repr

/-! ### Special-function pipes -/

/-- The special-function block (R233), with the table RAM that the product tables share (R193). -/
structure SfBlk where
  stat : BitVec 6 := 0
  tpage : BitVec 2 := 0
  smsat : BitVec 16 := 0
  reserr : W32 := 0
  errcnt : BitVec 16 := 0
  tram : Tab Byte := []
  tpar : Tab Bool := []
  free : Nat := 0
  /-- The lane group of the last grant (R204). -/
  rr : Nat := 31
  /-- TSF_CLAIM (R506, R507): result, fw, part, ctx, use. -/
  claim : W32 := 0
  deriving DecidableEq, Repr

/-! ### DMA channels -/

/-- A write request of a burst: destination, place in the burst's data, length, state (0 not issued, 1 outstanding, 2
acknowledged, 3 waiting for a retry) and retries spent. -/
structure DmaWr where
  addr : Nat
  off : Nat
  len : Nat
  st : Nat
  tries : Nat
  deriving DecidableEq, Repr

/-- A burst in flight (R383, R385): its number, read request, state of the read (1 outstanding, 2 arrived, 3 waiting for a
retry), retries, data and writes. -/
structure DmaBurst where
  idx : Nat
  raddr : Nat
  rlen : Nat
  rst : Nat
  rtries : Nat
  data : List PByte
  wrs : List DmaWr
  deriving DecidableEq, Repr

/-- The states of a channel (R391). -/
inductive DmaSt where
  | idle | running | halting | draining
  deriving DecidableEq, Repr

/-- A channel (R378, R391, R393). -/
structure DmaCh where
  src : W64 := 0
  dst : W64 := 0
  cnt : W64 := 0
  sstr : W64 := 0
  sstr2 : W64 := 0
  dstr : W64 := 0
  dstr2 : W64 := 0
  /-- Control without bits 2:0; retry is 3 at reset. -/
  ctrl : W64 := 0x30000000000#64
  st : DmaSt := .idle
  again : Bool := false
  pois : Bool := false
  resp : BitVec 4 := 0
  tries : BitVec 4 := 0
  code : BitVec 4 := 0
  res : BitVec 40 := 0
  /-- The code that the exit will write (R391). -/
  exit : BitVec 4 := 0
  /-- The next burst to issue, the bursts in flight, and the requests that a disable left outstanding. -/
  next : Nat := 0
  infl : List DmaBurst := []
  /-- SDMA_TAGn (R393): part 1:0, ctx 7:4, fw 8; system channels only. -/
  tag : W32 := 0
  deriving DecidableEq, Repr

/-- A channel after reset. -/
def DmaCh.zero : DmaCh := {}

/-! ### Work in flight -/

/-- The vector slot's operations (R176); the segmented reduction is three, by its kind. -/
inductive VOp where
  | add | sub | mul | fma | fms | neg | abs
  | and | or | xor | shl | shr | mac
  | max | min | cmp | sel | mov | bcast | cvt | perm
  | segSum | segMax | segMin | summary | rng | drop
  | ptld | ptmac | ptswap | rcmb | expand | sumClear
  deriving DecidableEq, Repr

/-- A vector instruction as issued: operation, fields, the scalar values read in the issue cycle (R299: those that va, vb and vd
name), the failed checks its step brings, the issue cycle, and the live product-table bank at issue (R196). -/
structure VInst where
  op : VOp
  f : VecF
  sva : W64
  svb : W64
  svd : W64
  ck : List CheckFail
  t0 : Nat
  bank : Bool
  deriving DecidableEq, Repr

/-- A special-function instruction as issued: operation (0 func, 1 softmax, 2 rstat, 3 sfld), fields, the scalars that va, vd
and sx name, failed checks, issue cycle, and the header of the user table (R218). -/
structure SInst where
  op : Nat
  f : SfF
  sva : W64
  svd : W64
  sx : W64
  ck : List CheckFail
  t0 : Nat
  hdr : List PByte
  deriving DecidableEq, Repr

/-- A load/store instruction as issued: operation (1 vld, 2 vld.s, 3 vst, 4 vst.z), fields and its two offsets. -/
structure LInst where
  op : Nat
  f : LsF
  off : Nat
  soff : Nat
  t0 : Nat
  deriving DecidableEq, Repr

/-- An element in flight: its index, its bits and its poison. -/
structure Elem where
  k : Nat
  bits : Nat
  pois : Bool
  deriving DecidableEq, Repr

/-- One lane-word write: register, lane, byte mask, value, poison. -/
structure VWr where
  reg : Nat
  lane : Nat
  mask : BitVec 4
  val : W32
  pois : Bool
  deriving DecidableEq, Repr

/-- What retires at the end of a cycle (R307). -/
inductive RAct where
  /-- A sequencer register by its operand code (R302). -/
  | sreg (code : Nat) (v : W64)
  /-- An add to an event counter (evadd). -/
  | evAdd (k : Nat) (v : W32)
  /-- A comparator's settings (cmpset). -/
  | cmp (k : Nat) (sel thr : W32)
  /-- A summary register with its poison (R180, R181). -/
  | sum (k : Nat) (v : W64) (p : Bool)
  /-- Lane words of vector registers. -/
  | vec (ws : List VWr)
  /-- An accumulator entry, as the read port sees it. -/
  | acc (arr idx : Nat) (e : AccE)
  /-- Table RAM bytes with their parity-failing marks. -/
  | tram (off : Nat) (bs : List PByte)
  /-- Entries of the bank that is shadow when they are written (R194, R196): index in the bank, FP32 bits and parity mark, for
  every lane group, with the live bank at the issue of their ptld. -/
  | pt (es : List (Nat × W32 × Bool)) (bank : Bool)
  /-- Arithmetic flags of a unit (R51): 0 arrays, 1 vector engine, 2 special functions. -/
  | flags (f : Flags) (src : Nat)
  /-- Softmax status of retired rows (R221, R222): clipped rows, a zero row. -/
  | sfstat (clipped : Nat) (zero : Bool)
  /-- A failed check recorded at retirement (R138, R198, R232): unit, record without valid, and how many more. -/
  | check (unit : Nat) (rec : W32)
  /-- A drizzle record written: active cleared and done set (R159). -/
  | dzDone
  deriving DecidableEq, Repr

/-- What an operation does in a later cycle: its port A accesses (R310) and its entries into the lanes or arrays. -/
inductive Act where
  | ld (d off len : Nat) (zx : Bool)
  | st (off : Nat) (bs : List Byte)
  | dmaImg (ch off : Nat)
  | mxDesc (arr : Nat) (kind : MxKind) (off : Nat) (ck : List CheckFail)
  | mxScaleA (arr step row : Nat)
  | mxScaleB (arr step col : Nat)
  | mxExp (arr : Nat)
  | mxHeld (arr step i : Nat)
  | mxStream (arr step row u : Nat)
  | mxPos (arr step q : Nat)
  | mxTapRow (arr step tau row u : Nat)
  | mxTap (arr step tau row : Nat)
  | mxPass (arr step pass row : Nat)
  | mxZero (arr q : Nat)
  | mxSpRow (arr win row fg : Nat)
  | mxSpPass (arr win row j : Nat)
  | mxAccRow (arr q i : Nat)
  | mxStatRow (arr q i : Nat)
  | mxEnd (arr : Nat)
  | vChunk (v : VInst) (j : Nat)
  | vRow (v : VInst) (i : Nat)
  | vDesc (v : VInst) (i : Nat)
  | vLoad (v : VInst) (piece i : Nat)
  | vGo (v : VInst) (piece : Nat)
  | vStore (v : VInst) (piece i : Nat)
  | vExpRead (v : VInst) (part : Nat)
  | vExpWrite (v : VInst) (part : Nat)
  | vPtld (v : VInst) (i : Nat)
  | rcRow (v : VInst) (ne q : Nat)
  | rcStore (v : VInst) (i : Nat) (bs : List PByte)
  | vldUnit (l : LInst) (u : Nat)
  | vldScale (l : LInst) (v : Nat)
  | vldGo (l : LInst) (u n : Nat)
  | vstUnit (l : LInst) (u : Nat) (es : List Elem)
  | vstZ (l : LInst) (es : List Elem)
  | dzPut (off : Nat) (bs : List PByte)
  | sfChunk (i : SInst) (j g0 : Nat)
  | sfGrant (i : SInst) (row b : Nat) (els : List Elem) (last : Nat)
  | sfUser (i : SInst) (row b : Nat) (els : List Elem) (last n : Nat)
  | sfDesc (i : SInst) (k : Nat)
  | sfRead (i : SInst) (row u : Nat)
  | sfStat (i : SInst) (row : Nat)
  | sfWrite (i : SInst) (row u : Nat)
  | sfldUnit (src dst : Nat)
  | dzRec
  deriving DecidableEq, Repr

/-- An action due in a cycle: the cycle, the slot of the instruction and the rank of the access in that slot (R310), the
issue number and bundle address of the instruction. -/
structure Task where
  at_ : Nat
  slot : Nat
  rank : Nat
  seq : Nat
  pc : Nat
  act : Act
  deriving DecidableEq, Repr

/-- A write due at the end of a cycle. -/
structure Ret where
  at_ : Nat
  slot : Nat
  seq : Nat
  pc : Nat
  act : RAct
  deriving DecidableEq, Repr

/-- A range of bytes or entries that an instruction of checked mode writes (R315, ORDER). -/
inductive Region where
  | sreg (code : Nat)
  | vreg (reg lo hi : Nat)
  | acc (arr lo hi : Nat)
  | mem (lo hi : Nat)
  | tram (lo hi : Nat)
  deriving DecidableEq, Repr

/-- A write that an issued instruction makes in checked mode: issue number, slot, region and the cycles of its first
and last retirement. -/
structure Expect where
  seq : Nat
  slot : Nat
  reg : Region
  first : Nat
  ret : Nat
  deriving DecidableEq, Repr

/-- Data that an instruction in flight has read: issue number, kind, index, bytes. -/
structure Cap where
  seq : Nat
  tag : Nat
  idx : Nat
  data : List PByte
  deriving DecidableEq, Repr

/-- What a sequencer operation sends out of the tile: a stream event with its value (hsig), a phase-timer stop (R516). -/
inductive TileOut where
  | hsig (ev : BitVec 16) (v : W64)
  | phase (timer : Fin 8) (tag : BitVec 16) (cycles : W64)
  deriving DecidableEq, Repr

/-- One tile. -/
structure Tile where
  power : PowerSt := .night
  /-- The target of a Dawn (R495): Noon from Night clears, Noon from Dusk keeps. -/
  fromNight : Bool := false
  sp : Tab Byte := []
  spPois : Tab Bool := []
  /-- Tile cycles, or checked cycles, that the sequencer has run. -/
  cyc : Nat := 0
  seqNo : Nat := 0
  tasks : List Task := []
  rets : List Ret := []
  caps : List Cap := []
  exps : List Expect := []
  seq : SeqBlk := {}
  mx : MxBlk := {}
  dz : DzBlk := {}
  ve : VeBlk := {}
  sf : SfBlk := {}
  dma : Tab DmaCh := []
  dmaIrq : BitVec 8 := 0
  tph : Tab PhTimer := []
  tphExport : Bool := false
  /-- EVT messages of the tile that have not been acknowledged, each with whether it waits for release (R97, R287, R303). -/
  evOut : List (EvtMsg × Bool) := []
  /-- What the sequencer sent to the hub in this step (R303, R516). -/
  outs : List TileOut := []
  /-- A SEC_TILECLR clear runs on this tile (R454). -/
  clearing : Bool := false
  deriving DecidableEq, Repr

/-- A tile after reset: in Night, everything at the reset values of the register tables. -/
def Tile.reset : Tile := {}

end Sys2Proof.Machine
end

