-- ==== Sys2Proof/Machine/TileOps.lean ====
section
/-! DEFINITION. The named operations over one tile: scratchpad and its poison, port A with its bank arbitration, sequencer
registers, vector lanes, lane generators, tasks and retirements (R84 to R92, R166 to R168, R190, R306 to R316). -/

namespace Sys2Proof.Machine

/-! ### Scratchpad -/

/-- Bytes of the scratchpad (R84). -/
def spSize : Nat := 0x800000

/-- A scratchpad byte with the poison of its 8-byte word (R88). -/
def spGet (t : Tile) (a : Nat) : PByte := (tget 0 t.sp a, tget false t.spPois (a / 8))

/-- The scratchpad bytes at offsets `a` to `a + n - 1`. -/
def spRead (t : Tile) (a : Nat) : Nat → List PByte
  | 0 => []
  | n + 1 => spGet t a :: spRead t (a + 1) n

/-- The poison of the 8-byte words that bytes from offset `a` on reach: a word written whole takes the poison of its new
bytes, a word written in part is poisoned when it was or when a new byte is (log entry 13). -/
def poisonWords (old : Tab Bool) (a : Nat) (bs : List PByte) : List Nat → Tab Bool
  | [] => old
  | w :: ws =>
    let lo := if 8 * w < a then a else 8 * w
    let hi := if 8 * w + 8 < a + bs.length then 8 * w + 8 else a + bs.length
    let newP := ((bs.drop (lo - a)).take (hi - lo)).any (·.2)
    let p := if hi - lo = 8 then newP else tget false old w || newP
    poisonWords (tset false old w p) a bs ws

/-- The numbers `a` to `a + n - 1`. -/
def rangeFrom (a n : Nat) : List Nat := (List.range n).map (a + ·)

/-- The scratchpad with bytes written from offset `a` on. -/
def spWrite (t : Tile) (a : Nat) (bs : List PByte) : Tile :=
  if bs = [] then t
  else
    { t with
      sp := tsetList 0 t.sp a (bs.map (·.1))
      spPois := poisonWords t.spPois a bs (rangeFrom (a / 8) ((a + bs.length - 1) / 8 + 1 - a / 8)) }

/-- The little-endian number of a list of bytes (R10). -/
def leNat : List Byte → Nat
  | [] => 0
  | b :: bs => b.toNat + 256 * leNat bs

/-- The `n` little-endian bytes of a number (R10). -/
def leBytes : Nat → Nat → List Byte
  | 0, _ => []
  | n + 1, v => BitVec.ofNat 8 v :: leBytes n (v / 256)

/-- The number in a list of bytes with poison marks. -/
def leNatP (l : List PByte) : Nat := leNat (l.map (·.1))
/-- Whether a byte of the list is poisoned. -/
def anyPois (l : List PByte) : Bool := l.any (·.2)
/-- Bytes without poison. -/
def clean (l : List Byte) : List PByte := l.map (·, false)

/-! ### Lane generators (R190) -/

/-- One step of a lane generator. -/
def rngStep (x : W64) : W64 :=
  let x := x ^^^ (x >>> 12)
  let x := x ^^^ (x <<< 25)
  x ^^^ (x >>> 27)

/-- `n` steps of a lane generator. -/
def rngIter : Nat → W64 → W64
  | 0, x => x
  | n + 1, x => rngIter n (rngStep x)

/-- The output of lane `i` after `n` steps. -/
def rngOut (v : VeBlk) (i n : Nat) : W64 := rngIter n (tget 0 v.rng i) * 0x2545f4914f6cdd1d#64

/-- mix of R191. -/
def rngMix (z : W64) : W64 :=
  let z := (z ^^^ (z >>> 30)) * 0xbf58476d1ce4e5b9#64
  let z := (z ^^^ (z >>> 27)) * 0x94d049bb133111eb#64
  z ^^^ (z >>> 31)

/-- A state that would be zero is replaced (R191). -/
def rngNonzero (z : W64) : W64 := if z = 0 then 0x9E3779B97F4A7C15#64 else z

/-- The states of the 512 lanes: from the fixed seed, or from draws `d` on of the entropy source (R191). -/
def rngLoad (fixed : Bool) (seed : W64) (d : Nat) : Tab W64 :=
  (List.range 512).map fun i =>
    (i, rngNonzero (if fixed then rngMix (seed + BitVec.ofNat 64 (i + 1) * 0x9E3779B97F4A7C15#64) else Config.entropy (d + i)))

/-! ### Vector registers (R166) -/

/-- Elements of a register format per lane word. -/
def Fmt.perLane (f : Fmt) : Nat :=
  match f with
  | .bf16 | .fp16 | .int16 => 2
  | .int8 | .uint8 | .e4m3 | .e5m2 | .e2m1 | .int4 => 4
  | _ => 1

/-- Elements per register (a register pair for FP64), R166. -/
def Fmt.perReg (f : Fmt) : Nat := 512 * f.perLane

/-- Registers that a group of `n` elements takes. -/
def Fmt.regs (f : Fmt) (n : Nat) : Nat :=
  let r := (n + f.perReg - 1) / f.perReg
  if f = .fp64 then 2 * r else r

/-- Where element k of a group at register r lies: register, lane, bit position in the lane word (R166). -/
def elemLoc (f : Fmt) (r k : Nat) : Nat × Nat × Nat :=
  let p := k % f.perReg
  if f = .fp64 then (r + 2 * (k / 512), p, 0)
  else (r + k / f.perReg, p / f.perLane, (p % f.perLane) * (32 / f.perLane))

/-- A lane word. -/
def vword (v : VeBlk) (reg lane : Nat) : W32 := tget 0 v.vreg (512 * reg + lane)
/-- A lane word's poison bit. -/
def vpois (v : VeBlk) (reg lane : Nat) : Bool := tget false v.vpois (512 * reg + lane)

/-- Element k of the group at register r. -/
def velem (v : VeBlk) (f : Fmt) (r k : Nat) : Elem :=
  let (reg, lane, sh) := elemLoc f r k
  if f = .fp64 then
    ⟨k, (vword v reg lane).toNat + 2 ^ 32 * (vword v (reg + 1) lane).toNat, vpois v reg lane || vpois v (reg + 1) lane⟩
  else ⟨k, (vword v reg lane).toNat / 2 ^ sh % 2 ^ f.bits, vpois v reg lane⟩

/-- Elements `k` to `k + n - 1` of a group. -/
def velems (v : VeBlk) (f : Fmt) (r k n : Nat) : List Elem := (rangeFrom k n).map (velem v f r)

/-- The lane-word writes of one element. -/
def elemWr (f : Fmt) (r : Nat) (e : Elem) : List VWr :=
  let (reg, lane, sh) := elemLoc f r e.k
  if f = .fp64 then
    [⟨reg, lane, 0xF, BitVec.ofNat 32 e.bits, e.pois⟩, ⟨reg + 1, lane, 0xF, BitVec.ofNat 32 (e.bits / 2 ^ 32), e.pois⟩]
  else
    let m : BitVec 4 := match f.perLane with
      | 2 => 0x3#4 <<< (sh / 8)
      | 4 => 0x1#4 <<< (sh / 8)
      | _ => 0xF#4
    [⟨reg, lane, m, BitVec.ofNat 32 (e.bits * 2 ^ sh), e.pois⟩]

/-- Neighbouring writes of one lane word put together. -/
def mergeWr : List VWr → List VWr
  | [] => []
  | w :: ws =>
    match mergeWr ws with
    | [] => [w]
    | x :: xs =>
      if w.reg = x.reg ∧ w.lane = x.lane ∧ (w.mask &&& x.mask) = 0 then
        ⟨w.reg, w.lane, w.mask ||| x.mask, w.val ||| x.val, w.pois || x.pois⟩ :: xs
      else w :: x :: xs

/-- The lane-word writes of a list of elements in order. -/
def elemsWr (f : Fmt) (r : Nat) (es : List Elem) : List VWr := mergeWr (es.map (elemWr f r)).flatten

/-- The 32 bits that a byte mask covers. -/
def byteMask (m : BitVec 4) : W32 :=
  (if m[0] then 0xFF#32 else 0) ||| (if m[1] then 0xFF00#32 else 0) |||
  (if m[2] then 0xFF0000#32 else 0) ||| (if m[3] then 0xFF000000#32 else 0)

/-- The vector registers with one lane word written; a word written in part stays poisoned when it was (R168). -/
def vwrite (v : VeBlk) (w : VWr) : VeBlk :=
  let i := 512 * w.reg + w.lane
  let m := byteMask w.mask
  { v with
    vreg := tset 0 v.vreg i ((tget 0 v.vreg i &&& ~~~m) ||| (w.val &&& m))
    vpois := tset false v.vpois i (w.pois || (w.mask ≠ 0xF && tget false v.vpois i)) }

/-- The 16 random bits that R33 gives the element in step `n` of the generators. -/
def draw16 (v : VeBlk) (f : Fmt) (k n : Nat) : Nat :=
  let (_, lane, _) := elemLoc f 0 k
  let i := k % f.perLane
  ((rngOut v lane n).toNat / 2 ^ (48 - 16 * i)) % 65536

/-! ### Sequencer registers -/

/-- A scalar register. -/
def scalarOf (t : Tile) (i : Nat) : W64 := tget 0 t.seq.scalar i

/-- What a source operand code gives (R302); `none` for the codes that trap. -/
def srcOperand (t : Tile) (code : Nat) (imm : BitVec 24) : Option W64 :=
  if code < 0x10 then some (tget 0 t.seq.scalar code)
  else if code < 0x50 then some (tget 0 t.seq.param (code - 0x10))
  else if code < 0x58 then some (tget 0 t.seq.sum (code - 0x50))
  else if code < 0x5C then some ((tget 0 t.seq.loop (code - 0x58)).zeroExtend 64)
  else if 0x60 ≤ code ∧ code < 0x70 then some ((tget 0 t.seq.ev (code - 0x60)).zeroExtend 64)
  else if code = 0x7F then some (imm.signExtend 64)
  else none

/-- How a destination operand code acts (R302). -/
inductive DstKind where
  | reg
  | loopCounter
  | trap
  deriving DecidableEq, Repr

/-- The kind of a destination code. -/
def dstKind (code : Nat) : DstKind :=
  if code < 0x10 then .reg
  else if 0x58 ≤ code ∧ code < 0x5C then .loopCounter
  else if 0x60 ≤ code ∧ code < 0x70 then .reg
  else .trap

/-- The condition of comparator n (R92). -/
def cond (t : Tile) (n : Nat) : Bool :=
  let sel := tget 0 t.seq.cmpsel n
  let i := (sel &&& 0xF#32).toNat
  let src : W32 := if sel[4] then (tget 0 t.seq.scalar i).truncate 32 else tget 0 t.seq.ev i
  sel[8] && !(src - tget 0 t.seq.cmpthr n).msb

/-- An event counter advanced modulo 2^32 (R91). -/
def evInc (t : Tile) (k : Nat) (v : W32) : Tile :=
  { t with seq := { t.seq with ev := tset 0 t.seq.ev k (tget 0 t.seq.ev k + v) } }

/-! ### Arrays and channels of a tile -/

/-- Array n of a tile. -/
def marr (t : Tile) (n : Nat) : MxArr := tget MxArr.zero t.mx.arr n
/-- The tile with array n replaced. -/
def setMarr (t : Tile) (n : Nat) (a : MxArr) : Tile := { t with mx := { t.mx with arr := tset MxArr.zero t.mx.arr n a } }
/-- DMA channel n of a tile. -/
def tdma (t : Tile) (n : Nat) : DmaCh := tget DmaCh.zero t.dma n
/-- The tile with channel n replaced. -/
def setTdma (t : Tile) (n : Nat) (c : DmaCh) : Tile := { t with dma := tset DmaCh.zero t.dma n c }
/-- Phase timer n of a tile. -/
def tphOf (t : Tile) (n : Nat) : PhTimer := tget PhTimer.zero t.tph n

/-- Whether an array has a running operation; a pending one implies it (R139). -/
def arrBusy (a : MxArr) : Bool := a.run.isSome

/-- TSEQ_CTRL.idle: no operation outstanding in any array, the vector engine, the pipes, the load/store slot or the DMA block
(R306, R389). -/
def tileIdle (t : Tile) : Bool :=
  t.tasks = [] && t.rets = [] && t.mx.arr.all (fun p => !arrBusy p.2) && t.dma.all (fun p => p.2.st = .idle)

/-! ### A cycle in progress -/

/-- A tile in the middle of a cycle: the tile, whether the part has the FX units (R3), its number and TSEQ_ID, the banks
granted in this cycle with their slots, the conflicts found (bank, winner, loser) in order, the checked-mode events found
(kind, slot, bundle), the event-counter increments of this cycle. -/
structure Cyc where
  t : Tile
  fx : Bool
  id : Nat
  idReg : W32
  busy : List (Nat × Nat) := []
  confl : List (Nat × Nat × Nat) := []
  evs : List (Nat × Nat × Nat) := []
  incs : List (Nat × W32) := []
  deriving DecidableEq, Repr

/-- The number of generator steps in force in this cycle: the lanes step once in it (R190). -/
def Cyc.n (c : Cyc) : Nat := c.t.ve.rngN + 1

/-- A free value of this cycle (log entry 5): number `i` below 64. -/
def Cyc.free (c : Cyc) (i : Nat) : W64 := Config.freeValue (2 ^ 40 * (c.id + 1) + 64 * c.t.cyc + i)

/-- The cycle with arithmetic flags raised by a unit (0 arrays, 1 vector engine, 2 special functions). -/
def Cyc.flags (c : Cyc) (f : Flags) (src : Nat) : Cyc :=
  { c with t := { c.t with seq := { c.t.seq with numflags := numflagsRaise c.t.seq.numflags f src } } }

/-- A checked-mode event (R315); outside checked mode nothing. -/
def Cyc.event (c : Cyc) (kind slot pc : Nat) : Cyc :=
  if c.t.seq.chk then { c with evs := c.evs ++ [(kind, slot, pc)] } else c

/-- A task added. -/
def Cyc.task (c : Cyc) (k : Task) (at_ rank : Nat) (a : Act) : Cyc :=
  { c with t := { c.t with tasks := c.t.tasks ++ [⟨at_, k.slot, rank, k.seq, k.pc, a⟩] } }

/-- Several tasks of one rank added. -/
def Cyc.taskList (c : Cyc) (k : Task) (l : List (Nat × Nat × Act)) : Cyc :=
  { c with t := { c.t with tasks := c.t.tasks ++ l.map (fun x => ⟨x.1, k.slot, x.2.1, k.seq, k.pc, x.2.2⟩) } }

/-- A retirement added: it takes effect at the end of cycle `at_`. -/
def Cyc.ret (c : Cyc) (k : Task) (at_ : Nat) (a : RAct) : Cyc :=
  { c with t := { c.t with rets := c.t.rets ++ [⟨at_, k.slot, k.seq, k.pc, a⟩] } }

/-- Flags that rise when the result retires (R51). -/
def Cyc.retFlags (c : Cyc) (k : Task) (at_ : Nat) (f : Flags) (src : Nat) : Cyc :=
  if f = 0 then c else c.ret k at_ (.flags f src)

/-- Data captured for the instruction. -/
def Cyc.cap (c : Cyc) (k : Task) (tag idx : Nat) (d : List PByte) : Cyc :=
  { c with t := { c.t with caps := ⟨k.seq * 8 + k.slot, tag, idx, d⟩ :: c.t.caps } }

/-- Captured data; nothing captured reads as the empty list. -/
def capOf (t : Tile) (seq slot tag idx : Nat) : List PByte :=
  match t.caps.find? (fun x => x.seq = seq * 8 + slot && x.tag = tag && x.idx = idx) with
  | some x => x.data
  | none => []

/-- The captured data of an instruction dropped. -/
def dropCaps (t : Tile) (seq slot : Nat) : Tile := { t with caps := t.caps.filter (fun x => x.seq ≠ seq * 8 + slot) }

/-- Whether two regions share a byte or an entry. -/
def Region.meets : Region → Region → Bool
  | .sreg a, .sreg b => a = b
  | .vreg r a b, .vreg s x y => r = s && a ≤ y && x ≤ b
  | .acc r a b, .acc s x y => r = s && a ≤ y && x ≤ b
  | .mem a b, .mem x y => a ≤ y && x ≤ b
  | .tram a b, .tram x y => a ≤ y && x ≤ b
  | _, _ => false

/-- Program order of instructions: bundles in issue order, slots by number within a bundle (R298). -/
def earlier (seq slot seq' slot' : Nat) : Bool := seq < seq' || (seq = seq' && slot < slot')

/-- In checked mode, a write that the instruction will make (R315). -/
def Cyc.expect (c : Cyc) (k : Task) (r : Region) (first last : Nat) : Cyc :=
  if c.t.seq.chk then { c with t := { c.t with exps := ⟨k.seq, k.slot, r, first, last⟩ :: c.t.exps } } else c

/-- ORDER (R315): a read in this cycle that does not see exactly the writes of the instructions earlier in program order. -/
def Cyc.order (c : Cyc) (k : Task) (r : Region) : Cyc :=
  if c.t.seq.chk && c.t.exps.any (fun e => e.reg.meets r &&
      ((earlier e.seq e.slot k.seq k.slot && c.t.cyc ≤ e.ret) || (earlier k.seq k.slot e.seq e.slot && e.first < c.t.cyc)))
  then c.event 1 k.slot k.pc else c

/-- The bank of a scratchpad byte (R84). -/
def bankOf (a : Nat) : Nat := (a / 64) % 32

/-- The banks that bytes `a` to `a + n - 1` touch, in address order, each once. -/
def banksOf (a n : Nat) : List Nat :=
  if n = 0 then [] else ((rangeFrom (a / 64) ((a + n - 1) / 64 + 1 - a / 64)).map (· % 32)).eraseDups

/-- One access asks for its banks: those granted before in this cycle are lost (R309). Answers the lost banks. -/
def Cyc.grant (c : Cyc) (slot pc : Nat) : List Nat → Cyc × List Nat
  | [] => (c, [])
  | b :: bs =>
    match c.busy.find? (·.1 = b) with
    | some w =>
      let (c, l) := Cyc.grant ({ c with confl := c.confl ++ [(b, w.2, slot)] }.event 3 slot pc) slot pc bs
      (c, b :: l)
    | none => Cyc.grant { c with busy := (b, slot) :: c.busy } slot pc bs

/-- A read through port A: bytes of lost banks read zero with poison clear (R309). -/
def Cyc.read (c : Cyc) (k : Task) (a n : Nat) : Cyc × List PByte :=
  if n = 0 then (c, [])
  else
    let c := c.order k (.mem a (a + n - 1))
    let (c, lost) := c.grant k.slot k.pc (banksOf a n)
    (c, (rangeFrom a n).map (fun x => if lost.contains (bankOf x) then (0, false) else spGet c.t x))

/-- The bytes of a write that fall in granted banks, as runs: offset and bytes. -/
def keptRuns (lost : List Nat) (a : Nat) (bs : List PByte) : List (Nat × List PByte) :=
  if lost = [] then [(a, bs)]
  else ((rangeFrom a bs.length).zip bs).filterMap (fun x => if lost.contains (bankOf x.1) then none else some (x.1, [x.2]))

/-- A write through port A: bytes of lost banks are dropped (R309). -/
def Cyc.write (c : Cyc) (k : Task) (a : Nat) (bs : List PByte) : Cyc :=
  if bs = [] then c
  else
    let (c, lost) := c.grant k.slot k.pc (banksOf a bs.length)
    { c with t := (keptRuns lost a bs).foldl (fun t x => spWrite t x.1 x.2) c.t }

/-! ### Retirement at the end of a cycle -/

/-- The register bytes that a retiring write touches, for R308: a kind and number of a register, and its bytes. -/
def retBytes : RAct → List (Nat × Nat × BitVec 8)
  | .sreg code _ => [(0, code, 0xFF)]
  | .sum k _ _ => [(0, 0x50 + k, 0xFF)]
  | .vec ws => ws.map (fun w => (1, 512 * w.reg + w.lane, w.mask.zeroExtend 8))
  | .acc a i _ => [(2, 4096 * a + i, 0xFF)]
  | _ => []

/-- The shadow bank's base in the table RAM of lane group g (R193): 4 KiB per group, bank 0 then bank 1. -/
def ptBase (g : Nat) (bank : Bool) : Nat := 4096 * g + (if bank then 2048 else 0)

/-- Bytes written to the table RAM with their parity marks; a window write reaches it only while the sequencer is halted (R234). -/
def tramWrite (s : SfBlk) (off : Nat) (bs : List PByte) : SfBlk :=
  { s with tram := tsetList 0 s.tram off (bs.map (·.1)), tpar := tsetList false s.tpar off (bs.map (·.2)) }

/-- Product-table entries written to the bank of every lane group (R194). -/
def ptWrite (s : SfBlk) (bank : Bool) (es : List (Nat × W32 × Bool)) : SfBlk :=
  (List.range 32).foldl (fun s g =>
    es.foldl (fun s e => tramWrite s (ptBase g bank + 4 * e.1) ((leBytes 4 e.2.1.toNat).map (·, e.2.2))) s) s

/-- A first failed check recorded, a further one only counted (R138, R198, R232): the record register and the counter. -/
def recordCheck (reserr : W32) (cnt : BitVec 16) (rec_ : W32) : W32 × BitVec 16 :=
  (if reserr[31] then reserr ||| 0x40000000#32 else rec_ ||| 0x80000000#32, if cnt = 0xFFFF then cnt else cnt + 1)

/-- One retirement applied to the tile. -/
def applyRet (t : Tile) : RAct → Tile
  | .sreg code v =>
    if code < 0x10 then { t with seq := { t.seq with scalar := tset 0 t.seq.scalar code v } }
    else if 0x60 ≤ code ∧ code < 0x70 then
      { t with seq := { t.seq with ev := tset 0 t.seq.ev (code - 0x60) (v.truncate 32) } }
    else t
  | .evAdd k v => evInc t k v
  | .cmp k sel thr =>
    { t with seq := { t.seq with cmpsel := tset 0 t.seq.cmpsel k sel, cmpthr := tset 0 t.seq.cmpthr k thr } }
  | .sum k v p =>
    let bit : BitVec 8 := 1#8 <<< k
    { t with
      seq := { t.seq with sum := tset 0 t.seq.sum k v }
      ve := { t.ve with sumpois := if p then t.ve.sumpois ||| bit else t.ve.sumpois &&& ~~~bit } }
  | .vec ws => { t with ve := ws.foldl vwrite t.ve }
  | .acc a i e => setMarr t a { marr t a with acc := tset AccE.zero (marr t a).acc i e }
  | .tram off bs => { t with sf := tramWrite t.sf off bs }
  | .pt es bank =>
    { t with
      sf := ptWrite t.sf (!t.ve.ptbank) es
      ve := if t.ve.ptbank = bank then t.ve else { t.ve with stat := t.ve.stat ||| 0x10#5 } }
  | .flags f src => { t with seq := { t.seq with numflags := numflagsRaise t.seq.numflags f src } }
  | .sfstat clipped zero =>
    let s := t.sf
    { t with sf := { s with
        stat := s.stat ||| (if clipped = 0 then 0 else 0x08#6) ||| (if zero then 0x10#6 else 0)
        smsat := BitVec.ofNat 16 (min 0xFFFF (s.smsat.toNat + clipped)) } }
  | .check u r =>
    match u with
    | 0 => let (x, y) := recordCheck t.mx.reserr t.mx.errcnt r; { t with mx := { t.mx with reserr := x, errcnt := y } }
    | 1 => let (x, y) := recordCheck t.ve.reserr t.ve.errcnt r; { t with ve := { t.ve with reserr := x, errcnt := y } }
    | _ => let (x, y) := recordCheck t.sf.reserr t.sf.errcnt r; { t with sf := { t.sf with reserr := x, errcnt := y } }
  | .dzDone => { t with dz := { t.dz with active := false, stat := t.dz.stat ||| 1#4 } }

/-- Retirements in the order of slots, and within a slot of issue (R308): insertion by slot and issue number. -/
def insRet (r : Ret) : List Ret → List Ret
  | [] => [r]
  | x :: xs => if r.slot < x.slot || (r.slot = x.slot && r.seq < x.seq) then r :: x :: xs else x :: insRet r xs

/-- Tasks in the order of slots, ranks and issue (R309, R310). -/
def insTask (r : Task) : List Task → List Task
  | [] => [r]
  | x :: xs =>
    if r.slot < x.slot || (r.slot = x.slot && (r.rank < x.rank || (r.rank = x.rank && r.seq < x.seq)))
    then r :: x :: xs else x :: insTask r xs

/-- Whether two retiring writes touch a byte of one register (R308). -/
def wwClash (a b : List (Nat × Nat × BitVec 8)) : Bool :=
  a.any (fun x => b.any (fun y => x.1 = y.1 && x.2.1 = y.2.1 && (x.2.2 &&& y.2.2) ≠ 0))

/-- TSEQ_HAZ bits set. -/
def hazSet (t : Tile) (b : W32) : Tile := { t with seq := { t.seq with haz := t.seq.haz ||| b } }

/-- The retirements due, applied in order; a write that meets an earlier-ranked one of this cycle sets ww, and in checked mode
the losing write is an event (R308, R315). -/
def Cyc.retire (c : Cyc) : List Ret → List Ret → Cyc
  | _, [] => c
  | done, r :: rs =>
    let c := match done.find? (fun d => wwClash (retBytes d.act) (retBytes r.act)) with
      | some d => { c with t := hazSet c.t 0x8#32 }.event 2 d.slot d.pc
      | none => c
    Cyc.retire { c with t := applyRet c.t r.act } (r :: done) rs

/-- The conflict that TSEQ_HAZ records when valid is 0: that of the lowest bank, the first found for it (R309). -/
def firstConfl : List (Nat × Nat × Nat) → Option (Nat × Nat × Nat)
  | [] => none
  | x :: xs => match firstConfl xs with
    | none => some x
    | some y => if y.1 < x.1 then some y else some x

/-- Bank conflicts recorded in TSEQ_HAZ (R309). -/
def recordConfl (t : Tile) (l : List (Nat × Nat × Nat)) : Tile :=
  match firstConfl l with
  | none => t
  | some (b, w, x) =>
    let t := hazSet t 0x2#32
    if t.seq.haz[31] then t
    else hazSet t (0x80000000#32 ||| BitVec.ofNat 32 (w * 2 ^ 28) ||| BitVec.ofNat 32 (x * 2 ^ 25) ||| BitVec.ofNat 32 (b * 2 ^ 20))

/-- The tile's live loops end when the sequencer halts; their counters keep their values (R312). -/
def haltSeq (t : Tile) : Tile :=
  { t with seq := { t.seq with st := .halted, loops := [], wait := none } }

/-- A halt by an event: the pc is that of the bundle after the last one issued, and a loop-back of that bundle does not count
(R305, R313). -/
def lateHalt (t : Tile) : Tile :=
  if t.seq.st = .halted then t
  else match t.seq.undo with
    | some u => haltSeq { t with seq := { t.seq with pc := BitVec.ofNat 11 u.1, loop := u.2 } }
    | none => haltSeq t

/-- Checked-mode events recorded: the first in TSEQ_CHKFLT, further ones set over; the sequencer halts with trap 0xFFFF_0003
(R316). -/
def recordEvents (t : Tile) : List (Nat × Nat × Nat) → Tile
  | [] => t
  | (kind, slot, pc) :: l =>
    let f := t.seq.chkflt
    let f := if f[31] then f ||| 0x40000000#32
      else 0x80000000#32 ||| BitVec.ofNat 32 (kind * 2 ^ 27 + slot * 2 ^ 24 + pc)
    let t := lateHalt t
    recordEvents { t with seq := { t.seq with
      chkflt := f, trap := 0xFFFF0003#32, faultHalt := true, trapHalt := true } } l

/-- The phase timers counted over one cycle: one tile cycle, two for a checked cycle (R514). -/
def tickTimers (t : Tile) : Tile :=
  { t with tph := t.tph.map (fun p => (p.1, if p.2.run then { p.2 with cnt := p.2.cnt + (if t.seq.chk then 2 else 1) } else p.2)) }

/-- The clock at the end of a cycle: the cycle count, the lane generators and the phase timers advance (R190, R514); with no work in
flight nothing that was noted for it is kept. -/
def clockTile (t : Tile) : Tile :=
  let t := tickTimers t
  let t : Tile := { t with cyc := t.cyc + 1, ve := { t.ve with rngN := t.ve.rngN + 1 } }
  if t.tasks = [] ∧ t.rets = [] then { t with exps := [], caps := [] } else t

/-- The end of a cycle: the due retirements, the increments of the cycle, conflicts and checked-mode events recorded, then the
clock. -/
def Cyc.finish (c : Cyc) : Tile :=
  let due := (c.t.rets.filter (·.at_ ≤ c.t.cyc)).foldl (fun l r => insRet r l) []
  let c := { c with t := { c.t with rets := c.t.rets.filter (fun r => !(r.at_ ≤ c.t.cyc)) } }
  let c := c.retire [] due
  let t := c.incs.foldl (fun t x => evInc t x.1 x.2) c.t
  clockTile (recordEvents (recordConfl t c.confl) c.evs)

end Sys2Proof.Machine
end

