-- ==== Sys2Proof/Machine/DmaChan.lean ====
section
/-! DEFINITION. One DMA channel (13): the start checks, the bursts of a copy, and the channel's reaction to requests, responses,
abort and disable. Tile channels and system channels share all of it (R378). -/

namespace Sys2Proof.Machine

/-- A response to a request (R102): the request, its status, and the data of a read. -/
structure Resp where
  req : Req
  status : Nat
  data : List PByte
  deriving DecidableEq, Repr

/-- Copy kind, bits 7:6 of the control word (R378). -/
def DmaCh.kind (c : DmaCh) : Nat := (c.ctrl.toNat / 64) % 4
/-- esz, bits 5:3. -/
def DmaCh.esz (c : DmaCh) : Nat := (c.ctrl.toNat / 8) % 8
/-- The element size e = 2^esz (R381). -/
def DmaCh.e (c : DmaCh) : Nat := 2 ^ c.esz
/-- Retry limit, bits 43:40. -/
def DmaCh.retry (c : DmaCh) : Nat := (c.ctrl.toNat / 2 ^ 40) % 16
/-- ie, bit 8. -/
def DmaCh.ie (c : DmaCh) : Bool := c.ctrl[8]
/-- ev, bits 47:44. -/
def DmaCh.ev (c : DmaCh) : Nat := (c.ctrl.toNat / 2 ^ 44) % 16
/-- inc, bits 63:48. -/
def DmaCh.inc (c : DmaCh) : Nat := c.ctrl.toNat / 2 ^ 48
/-- evoff, bit 9 of a system channel (R393). -/
def DmaCh.evoff (c : DmaCh) : Bool := c.ctrl[9]
/-- evtile, bits 39:32 of a system channel (R393). -/
def DmaCh.evtile (c : DmaCh) : Nat := (c.ctrl.toNat / 2 ^ 32) % 256
/-- src, 48 bits. -/
def DmaCh.srcA (c : DmaCh) : Nat := c.src.toNat % 2 ^ 48
/-- dst, 48 bits. -/
def DmaCh.dstA (c : DmaCh) : Nat := c.dst.toNat % 2 ^ 48
/-- count of a linear copy, 40 bits. -/
def DmaCh.count (c : DmaCh) : Nat := c.cnt.toNat % 2 ^ 40
/-- Length of dimension i of a kind 1 or 2 copy. -/
def DmaCh.dim (c : DmaCh) (i : Nat) : Nat := (c.cnt.toNat / 2 ^ (16 * i)) % 2 ^ 16
/-- A signed 32-bit half of a word. -/
def half (w : W64) (hi : Bool) : Int := if hi then (w.extractLsb' 32 32).toInt else (w.extractLsb' 0 32).toInt
/-- Source strides of dimensions 1 to 3. -/
def DmaCh.ss (c : DmaCh) : Nat → Int
  | 1 => half c.sstr false
  | 2 => half c.sstr true
  | 3 => half c.sstr2 false
  | _ => c.e
/-- Destination strides of dimensions 0 to 3. -/
def DmaCh.ds (c : DmaCh) : Nat → Int
  | 0 => half c.dstr false
  | 1 => half c.dstr true
  | 2 => half c.dstr2 false
  | _ => half c.dstr2 true

/-- The bytes of the copy (R387). -/
def DmaCh.total (c : DmaCh) : Nat :=
  if c.kind = 0 then c.count else c.dim 0 * c.dim 1 * c.dim 2 * c.dim 3 * c.e

/-- Lowest and highest byte of a footprint (R382): base, strides by dimension, element size. -/
def footprint (base : Nat) (n : Nat → Nat) (s : Nat → Int) (e : Nat) : Int × Int :=
  let ext (i : Nat) : Int := ((n i : Int) - 1) * s i
  let lo := [0, 1, 2, 3].foldl (fun a i => a + min 0 (ext i)) (base : Int)
  let hi := [0, 1, 2, 3].foldl (fun a i => a + max 0 (ext i)) (base : Int)
  (lo, hi + e - 1)

/-- The region of R319 that a byte lies in: 0 stack memory, 1 tile windows, 2 hub registers, 3 host window; none: reserved. -/
def regionOf (a : Int) : Option Nat :=
  if a < 0 then none
  else if a ≤ 0x017FFFFFFFFF then some 0
  else if 0x100000000000 ≤ a ∧ a ≤ 0x1000FFFFFFFF then some 1
  else if 0x200000000000 ≤ a ∧ a ≤ 0x20000FFFFFFF then some 2
  else if 0x300000000000 ≤ a ∧ a ≤ 0x3FFFFFFFFFFF then some 3
  else none

/-- Whether a footprint lies in one region that the channel may address; tile channels do not reach the host window. -/
def footprintOk (sys : Bool) (f : Int × Int) : Bool :=
  match regionOf f.1, regionOf f.2 with
  | some x, some y => x = y && (sys || x ≠ 3)
  | _, _ => false

/-- Source and destination footprints. -/
def DmaCh.foot (c : DmaCh) : (Int × Int) × (Int × Int) :=
  if c.kind = 0 then
    (((c.srcA : Int), (c.srcA : Int) + c.count - 1), ((c.dstA : Int), (c.dstA : Int) + c.count - 1))
  else (footprint c.srcA c.dim c.ss c.e, footprint c.dstA c.dim c.ds c.e)

/-- Non-zero reserved bits of words 0 to 7 (R378, R382): those outside the named fields for the copy's kind. -/
def DmaCh.reservedSet (c : DmaCh) (sys : Bool) : Bool :=
  (c.src >>> 48) ≠ 0 || (c.dst >>> 48) ≠ 0 || (c.kind = 0 && (c.cnt >>> 40) ≠ 0) || (c.sstr2 >>> 32) ≠ 0 ||
  (c.ctrl &&& (if sys then 0x000000000FFFFFC00#64 else 0xFFFFFFFE00#64)) ≠ 0

/-- The copy moves no byte: count 0 or a zero length (R382). -/
def DmaCh.isZero (c : DmaCh) : Bool :=
  if c.kind = 0 then c.count = 0 else c.dim 0 = 0 || c.dim 1 = 0 || c.dim 2 = 0 || c.dim 3 = 0

/-- The start checks of R382 in order: 0 passes, otherwise the code BAD (6) or OVERLAP (5). -/
def DmaCh.check (c : DmaCh) (sys : Bool) : Nat :=
  let al (x : Int) : Bool := x % (c.e : Int) = 0
  if c.kind = 3 || 4 < c.esz || c.reservedSet sys then 6
  else if c.kind ≠ 0 && !(al c.srcA && al c.dstA && al (c.ss 1) && al (c.ss 2) && al (c.ss 3) &&
      al (c.ds 0) && al (c.ds 1) && al (c.ds 2) && al (c.ds 3)) then 6
  else if c.kind = 1 && !(c.dim 2 = 1 && c.dim 3 = 1 && c.ds 1 = c.e) then 6
  else if c.isZero then 0
  else if !(footprintOk sys c.foot.1 && footprintOk sys c.foot.2) then 6
  else if c.kind ≠ 0 && c.foot.1.1 ≤ c.foot.2.2 && c.foot.2.1 ≤ c.foot.1.2 then 5
  else 0

/-- A linear copy whose ranges overlap with dst above src runs downward (R380). -/
def DmaCh.descending (c : DmaCh) : Bool :=
  c.kind = 0 && c.srcA < c.dstA && c.dstA < c.srcA + c.count

/-- Reads of up to 256 B per source row of a kind 1 or 2 copy (R383). -/
def DmaCh.perRow (c : DmaCh) : Nat := (c.dim 0 * c.e + 255) / 256

/-- The number of bursts of the copy (R383). -/
def DmaCh.bursts (c : DmaCh) : Nat :=
  if c.isZero then 0
  else if c.kind = 0 then (c.dstA + c.count - 1) / 256 + 1 - c.dstA / 256
  else c.perRow * c.dim 1 * c.dim 2 * c.dim 3

/-- The place of linear burst n: offset in the copy and length. -/
def DmaCh.linBurst (c : DmaCh) (n : Nat) : Nat × Nat :=
  let m := if c.descending then c.bursts - 1 - n else n
  let lo := max c.dstA ((c.dstA / 256 + m) * 256)
  let hi := min (c.dstA + c.count) ((c.dstA / 256 + m + 1) * 256)
  (lo - c.dstA, hi - lo)

/-- Burst n of the copy (R383): its read request and its writes. -/
def DmaCh.burst (c : DmaCh) (n : Nat) : DmaBurst :=
  if c.kind = 0 then
    let (o, len) := c.linBurst n
    ⟨n, c.srcA + o, len, 1, 0, [], [⟨c.dstA + o, 0, len, 0, 0⟩]⟩
  else
    let row := n / c.perRow
    let per := 256 / c.e
    let k0 := (n % c.perRow) * per
    let len := min per (c.dim 0 - k0)
    let i1 := row % c.dim 1
    let i2 := row / c.dim 1 % c.dim 2
    let i3 := row / c.dim 1 / c.dim 2
    let s : Int := (c.srcA : Int) + k0 * c.e + i1 * c.ss 1 + i2 * c.ss 2 + i3 * c.ss 3
    let d : Int := (c.dstA : Int) + k0 * c.ds 0 + i1 * c.ds 1 + i2 * c.ds 2 + i3 * c.ds 3
    let wrs : List DmaWr :=
      if c.ds 0 = c.e then [⟨d.toNat, 0, len * c.e, 0, 0⟩]
      else (List.range len).map (fun (j : Nat) => ⟨(d + (j : Int) * c.ds 0).toNat, j * c.e, c.e, 0, 0⟩)
    ⟨n, s.toNat, len * c.e, 1, 0, [], wrs⟩

/-- Bytes of the copy that burst n comes after, in the channel's order (R387). -/
def DmaCh.before (c : DmaCh) (n : Nat) : Nat :=
  if c.bursts ≤ n then c.total
  else if c.kind = 0 then
    let (o, len) := c.linBurst n
    if c.descending then c.count - o - len else o
  else (n / c.perRow) * c.dim 0 * c.e + (n % c.perRow) * (256 / c.e) * c.e

/-- The acknowledged bytes at the head of a list of writes. -/
def ackedRun : List DmaWr → Nat
  | [] => 0
  | w :: ws => if w.st = 2 then w.len + ackedRun ws else 0

/-- The residue (R387). -/
def DmaCh.residue (c : DmaCh) : Nat :=
  match c.infl with
  | [] => c.total - c.before c.next
  | b :: _ => c.total - (c.before b.idx + ackedRun b.wrs)

/-- Whether every write of a burst is acknowledged. -/
def DmaBurst.done (b : DmaBurst) : Bool := b.wrs.all (·.st = 2)

/-- The requests of a burst that await a response. -/
def DmaBurst.outstanding (b : DmaBurst) : Bool := b.rst = 1 || b.wrs.any (·.st = 1)

/-- The finished bursts at the head of the list dropped. -/
def dropDone : List DmaBurst → List DmaBurst
  | [] => []
  | b :: bs => if b.done then dropDone bs else b :: bs

/-- What a channel tells its block at an ending (R389): the channel, whether its TDMA_IRQ bit is set, and whether the DONE
increment is added. -/
structure DmaEnd where
  c : DmaCh
  irq : Bool := false
  inc : Bool := false
  deriving DecidableEq, Repr

/-- The end of a copy with a code (R389): DONE 2, ABORTED 3, BUS_ERR 4, OVERLAP 5, BAD 6. -/
def DmaCh.finish (c : DmaCh) (code : Nat) : DmaEnd :=
  { c := { c with st := .idle, code := BitVec.ofNat 4 code, res := BitVec.ofNat 40 c.residue, infl := [] }
    irq := if code = 2 then c.ie else true
    inc := code = 2 && c.inc ≠ 0 }

/-- A start (R379, R382, R391). -/
def DmaCh.start (c : DmaCh) (sys : Bool) : DmaEnd :=
  if c.st ≠ .idle then { c := { c with again := true } }
  else
    let c := { c with next := 0, infl := [] }
    let k := c.check sys
    if k ≠ 0 then c.finish k
    else if c.isZero then c.finish 2
    else { c := { c with st := .running, code := 1 } }

/-- A Halting channel ends once nothing is outstanding; a Running one once every write is acknowledged; a Draining one goes
idle (R389 to R391). `free` is the undefined residue after a disable. -/
def DmaCh.settle (c : DmaCh) (free : BitVec 40) : DmaEnd :=
  match c.st with
  | .running =>
    let c := { c with infl := dropDone c.infl }
    if c.infl = [] && c.next = c.bursts then c.finish 2 else { c := c }
  | .halting => if c.infl.any (·.outstanding) then { c := c } else c.finish c.exit.toNat
  | .draining =>
    if c.infl.any (·.outstanding) then { c := c }
    else { c := { c with st := .idle, code := 7, res := free, infl := [] } }
  | .idle => { c := c }

/-- Abort (R390): no new request, waiting retries end, the channel ends once the outstanding responses have arrived. -/
def DmaCh.abort (c : DmaCh) : DmaEnd :=
  if c.st = .running then { c with st := .halting, exit := 3 }.settle 0 else { c := c }

/-- Disable (R391): the code is DISABLED at once; busy stays until every response has arrived. -/
def DmaCh.disable (c : DmaCh) (free : BitVec 40) : DmaEnd :=
  if c.st = .running ∨ c.st = .halting then { c with st := .draining, code := 7 }.settle free else { c := c }

/-- Bursts in flight: those with a read or a write not yet acknowledged (R385). -/
def DmaCh.inFlight (c : DmaCh) : Nat := (c.infl.filter (fun b => !b.done)).length

/-- The first write of the list that is not issued, marked outstanding. -/
def issueWr : List DmaWr → Option (DmaWr × List DmaWr)
  | [] => none
  | w :: ws =>
    if w.st = 0 then some (w, { w with st := 1 } :: ws)
    else match issueWr ws with
      | some (x, l) => some (x, w :: l)
      | none => none

/-- The next write in burst order: the first burst with an unissued write, once its data has arrived (R385). -/
def issueWrite : List DmaBurst → Option (DmaBurst × DmaWr × List DmaBurst)
  | [] => none
  | b :: bs =>
    match issueWr b.wrs with
    | some (w, l) => if b.rst = 2 then some (b, w, { b with wrs := l } :: bs) else none
    | none => match issueWrite bs with
      | some (x, w, l) => some (x, w, b :: l)
      | none => none

/-- The bytes of a write request. -/
def wrData (b : DmaBurst) (w : DmaWr) : List PByte := (b.data.drop w.off).take w.len

/-- A channel with room issues one request (R385): the next write in burst order, or else the read of its next burst. `lim` is
4 for a tile channel and 8 for a system channel. -/
def DmaCh.issue (c : DmaCh) (src : Agent) (n lim : Nat) : DmaCh × Option Req :=
  if c.st ≠ .running then (c, none)
  else match issueWrite c.infl with
    | some (b, w, l) => ({ c with infl := l }, some ⟨src, n, b.idx, w.addr, .write (wrData b w)⟩)
    | none =>
      if c.inFlight < lim && c.next < c.bursts then
        let b := c.burst c.next
        ({ c with next := c.next + 1, infl := c.infl ++ [b] }, some ⟨src, n, b.idx, b.raddr, .read b.rlen⟩)
      else (c, none)

/-- A failing request after its last retry: the channel halts with BUS_ERR (R388). -/
def DmaCh.busErr (c : DmaCh) (status tries : Nat) : DmaCh :=
  if c.st = .running then
    { c with st := .halting, exit := 4, resp := BitVec.ofNat 4 status, tries := BitVec.ofNat 4 tries }
  else c

/-- The first outstanding write at an address, with a new state and retry count. -/
def markWr (addr : Nat) (f : DmaWr → DmaWr) : List DmaWr → List DmaWr
  | [] => []
  | w :: ws => if w.st = 1 ∧ w.addr = addr then f w :: ws else w :: markWr addr f ws

/-- A response arrives (R386, R388): data, an acknowledgement, a retry to come, or the end of the retries. -/
def DmaCh.response (c : DmaCh) (r : Resp) (free : BitVec 40) : DmaEnd :=
  match c.infl.find? (·.idx = r.req.burst) with
  | none => { c := c }
  | some b =>
    let put (b' : DmaBurst) (c : DmaCh) : DmaCh := { c with infl := c.infl.map (fun x => if x.idx = b'.idx then b' else x) }
    let last := c.st ≠ .running
    match r.req.op with
    | .read _ =>
      if r.status = 0 ∨ r.status = 5 then
        (put { b with rst := 2, data := r.data } { c with pois := c.pois || (r.status = 5 && c.st ≠ .draining) }).settle free
      else if last then (put { b with rst := 2 } c).settle free
      else if b.rtries < c.retry then (put { b with rst := 3 } c).settle free
      else ((put { b with rst := 2 } c).busErr r.status b.rtries).settle free
    | .write _ =>
      let tries := match b.wrs.find? (fun w => w.st = 1 && w.addr = r.req.addr) with | some w => w.tries | none => 0
      if r.status = 0 then (put { b with wrs := markWr r.req.addr (fun w => { w with st := 2 }) b.wrs } c).settle free
      else if last then (put { b with wrs := markWr r.req.addr (fun w => { w with st := 0 }) b.wrs } c).settle free
      else if tries < c.retry then (put { b with wrs := markWr r.req.addr (fun w => { w with st := 3 }) b.wrs } c).settle free
      else ((put { b with wrs := markWr r.req.addr (fun w => { w with st := 0 }) b.wrs } c).busErr r.status tries).settle free

/-- The first write waiting for a retry, reissued. -/
def retryWr : List DmaWr → Option (DmaWr × List DmaWr)
  | [] => none
  | w :: ws =>
    if w.st = 3 then some (w, { w with st := 1, tries := w.tries + 1 } :: ws)
    else match retryWr ws with
      | some (x, l) => some (x, w :: l)
      | none => none

/-- The retry delay of a burst's failing request expires: the request is issued again (R388). -/
def DmaCh.reissue (c : DmaCh) (src : Agent) (n burst : Nat) : DmaCh × Option Req :=
  if c.st ≠ .running then (c, none)
  else match c.infl.find? (·.idx = burst) with
    | none => (c, none)
    | some b =>
      let put (b' : DmaBurst) : DmaCh := { c with infl := c.infl.map (fun x => if x.idx = b'.idx then b' else x) }
      if b.rst = 3 then (put { b with rst := 1, rtries := b.rtries + 1 }, some ⟨src, n, b.idx, b.raddr, .read b.rlen⟩)
      else match retryWr b.wrs with
        | some (w, l) => (put { b with wrs := l }, some ⟨src, n, b.idx, w.addr, .write (wrData b w)⟩)
        | none => (c, none)

/-- Words 0 to 7 loaded from an image; bits 2:0 of word 7 are ignored (R378). -/
def DmaCh.load (c : DmaCh) (w : List W64) : DmaCh :=
  let g (i : Nat) : W64 := w.getD i 0
  { c with
    src := g 0, dst := g 1, cnt := g 2, sstr := g 3, sstr2 := g 4, dstr := g 5, dstr2 := g 6
    ctrl := g 7 &&& ~~~(7#64) }

/-- TDMA_STATn (R391). -/
def DmaCh.statReg (c : DmaCh) : W32 :=
  (if c.st = .idle then 0 else 0x80000000#32) ||| (if c.again then 0x40000000#32 else 0) |||
  (if c.pois then 0x20000000#32 else 0) ||| (c.resp.zeroExtend 32 <<< 20) ||| (c.tries.zeroExtend 32 <<< 16) |||
  c.code.zeroExtend 32

/-- W1C bits of TDMA_STATn written (R391). -/
def DmaCh.statWrite (c : DmaCh) (v : W32) : DmaCh :=
  { c with again := c.again && !v[30], pois := c.pois && !v[29] }

end Sys2Proof.Machine
end

