-- ==== Sys2Proof/Machine/HubState.lean ====
section
/-! DEFINITION. The state of the blocks outside the tiles as plain data: stacks and stratus units (11, 12), system DMA (13),
fabric ports and convoy engine (14), host attachment and streams (15), security and the Lookout (16), interrupt controller
(17), clocks and power (18), claims, trace and hub timers (19), reset and errors (20), pins (21), translator and stash (08,
09). Every default is the reset value of the register table that the field's rule cites. -/

namespace Sys2Proof.Machine

/-- The tag that a request carries (R100, R452): the firmware tag, or a partition and a context. -/
structure Tag where
  fw : Bool
  part : Nat
  ctx : Nat
  deriving DecidableEq, Repr

/-! ### Stacks (R320 to R350) -/

/-- A fault record without its stack number (R337). -/
structure FltRec where
  typ : Byte
  flags : Byte
  aux : Byte
  rowid : W32
  addr : W64
  time : W64
  pages : List W32
  deriving DecidableEq, Repr

/-- A request waiting in a stack controller under its regulator class (R340). -/
structure StkReq where
  req : Req
  cls : Nat
  /-- How often it has been passed by a younger request (R510). -/
  passed : Nat := 0
  deriving DecidableEq, Repr

/-- A stack controller (R350). The memory itself is `State.mem`. -/
structure StkBlk where
  scrubEn : Bool := true
  ready : Bool := false
  halted : Bool := false
  level : BitVec 2 := 0
  thr : W32 := 0x0369645F
  temp : BitVec 8 := 0
  /-- STK_TMAX: the highest sample since the last read; none reads 0. -/
  tmax : Option (BitVec 8) := none
  reg : Tab W32 := []
  ceil : BitVec 11 := 0
  scrub : W32 := 0x00015180
  scrubPos : BitVec 37 := 0
  cecnt : W32 := 0
  uecnt : W32 := 0
  cethr : BitVec 4 := 4
  /-- Remap entries in the STK_RMAPe layout. -/
  rmap : Tab W64 := []
  flt : List FltRec := []
  lostRet : BitVec 16 := 0
  lostOther : BitVec 16 := 0
  /-- Retired pages in the order of their entries. -/
  ret : List (BitVec 25) := []
  retFull : Bool := false
  retBad : Bool := false
  /-- The tracking table of R330: row id and corrected errors, most recently used first. -/
  ce : List (Nat × Nat) := []
  /-- Rows that logged CE_REPEAT in this scrub period (R332), and rows without a spare (R333). -/
  ceRep : List Nat := []
  noSpare : List Nat := []
  /-- The regulator buckets in quarter bytes (R340, R342). -/
  bucket : Tab Int := []
  queue : List StkReq := []
  /-- The row that a bank last served (R510), by bank number. -/
  openRow : Tab Nat := []
  /-- Postponed refreshes by bank (R348). -/
  postponed : Tab Nat := []
  selfRefresh : Bool := false
  deriving DecidableEq, Repr

/-- A stack controller after reset. -/
def StkBlk.zero : StkBlk := {}

/-- What waits in a stratus unit's queue (R368): an UPDATE pass of a job, or a fused chunk with its operation (0 ADD, 1 FINAL_ADD,
2 FINAL_SET). -/
inductive StratJob where
  | pass (id : Nat) (part ctx : Nat) (group : Nat) (step : W64)
  | chunk (op : Nat) (c : StratChunk)
  deriving DecidableEq, Repr

/-- The pass that runs: job, context, group, expected step, the 128 descriptor bytes read at its start, the schedule and layer
tables (R354), the result flags and whether the step's residue check failed. -/
structure StratRun where
  id : Nat
  ctx : Nat
  group : Nat
  step : W64
  desc : List Byte
  sched : List Byte
  layers : List Byte
  ck : List CheckFail
  deriving DecidableEq, Repr

/-- A fused pass set up on a unit (R373, R374): context, group, step, the descriptor's tables, the units of 32 elements that FINAL
chunks have covered, the layers whose phase 2 has run, and the flags so far. -/
structure FusedRun where
  ctx : Nat
  group : Nat
  step : W64
  desc : List Byte
  sched : List Byte
  layers : List Byte
  covered : List Nat
  done2 : List Nat
  accepted : Bool
  flags : W32
  deriving DecidableEq, Repr

/-- A stratus unit (R376). -/
structure StratBlk where
  reseedBusy : Bool := false
  fixed : Bool := false
  seed : W64 := 0
  rng : W64 := 0
  prog : BitVec 63 := 0
  phase2 : Bool := false
  last : W32 := 0
  errcnt : BitVec 16 := 0
  ctx : BitVec 4 := 0
  group : BitVec 12 := 0
  gtBase : Tab W64 := []
  gtCnt : Tab W32 := []
  queue : List StratJob := []
  run : Option StratRun := none
  fused : List FusedRun := []
  deriving DecidableEq, Repr

/-- A stratus unit after reset. -/
def StratBlk.zero : StratBlk := {}

/-- An UPDATE in progress on the twelve units (R370, R371): who asked, and the result of each unit that has finished. -/
structure UpdJob where
  id : Nat
  part : Nat
  ctx : Nat
  reply : ReplyTo
  results : List (Nat × W32)
  anyValid : Bool
  deriving DecidableEq, Repr

/-! ### Fabric (R394 to R421) -/

/-- Port states (R398). -/
inductive PortSt where
  | down | train | up | lost
  deriving DecidableEq, Repr

/-- A fabric port (R395 to R398, R420). -/
structure PortBlk where
  st : PortSt := .down
  en : Bool := false
  trainFail : Bool := false
  missed : BitVec 4 := 0
  /-- A valid KEEPALIVE has arrived in the current window (R397). -/
  heard : Bool := false
  peerPort : BitVec 4 := 0
  peerId : BitVec 16 := 0
  replays : BitVec 16 := 0
  crcErr : BitVec 16 := 0
  txSeq : BitVec 12 := 0
  /-- The sequence number of the last cell received in order. -/
  rxSeq : BitVec 12 := 0xFFF
  unacked : List Cell := []
  /-- Payloads that wait for room in the replay buffer. -/
  txq : List CellPay := []
  /-- Data cells received whose chunk messages the convoy engine has not yet taken. -/
  parts : List (ConvoyMsg × ChunkInfo) := []
  /-- Control messages received and not yet taken by the convoy engine. -/
  inbox : List CtrlPay := []
  deriving DecidableEq, Repr

/-- A port after reset. -/
def PortBlk.zero : PortBlk := {}

/-- A member of the role map (R401): device id and port mask. -/
structure Role where
  dev : BitVec 16
  mask : BitVec 12
  deriving DecidableEq, Repr

/-- A collective, queued or running (R402 to R416). -/
structure Coll where
  id : Nat
  part : Nat
  ctx : Nat
  req : CollReq
  reply : ReplyTo
  /-- Latched at start (R402). -/
  fgid : W32 := 0
  epoch : Byte := 0
  alg : BitVec 2 := 0
  p : Nat := 0
  rank : Nat := 0
  a : Nat := 0
  b : Nat := 0
  roles : List Role := []
  seq : BitVec 16 := 0
  /-- The bytes of the collective: ranges of stack memory, joined in order (R405, R419). -/
  ranges : List (Nat × Nat) := []
  /-- Final bytes that are sent on and do not stand in memory: the sums of kind 3 (R407), the CRCs of a reconcile. -/
  sums : List (Nat × List PByte) := []
  /-- Ranks whose READY has arrived and agreed. -/
  readyIn : List Nat := []
  /-- Accepted chunks: index, phase, origin rank (R412). -/
  got : List (Nat × Bool × Nat) := []
  /-- Chunks whose final bytes this member holds. -/
  final : List Nat := []
  /-- Chunks sent: index, phase, target rank; and those that wait for a READY. -/
  sent : List (Nat × Bool × Nat) := []
  /-- Reconcile (R419): the segments that differ here, and those of the union. -/
  differ : List Nat := []
  union : List Nat := []
  pois : Bool := false
  slowSeen : Bool := false
  retried : Bool := false
  retryUsed : Bool := false
  /-- Units that accepted a chunk of kind 3, and the result flags of the fused pass (R371, R409). -/
  accepted : BitVec 12 := 0
  deriving DecidableEq, Repr

/-- The convoy engine (R401 to R420). -/
structure CvyBlk where
  timeout : BitVec 14 := 0
  devid : BitVec 16 := 0
  stale : BitVec 8 := 0
  slow : BitVec 8 := 0
  gtBase : Tab W64 := []
  gtCnt : Tab W32 := []
  queue : List Coll := []
  run : List Coll := []
  /-- The next sequence number of group g of context c, by 1,024 × c + g (R405). -/
  seqs : Tab (BitVec 16) := []
  /-- READY messages held per group and neighbour (R406). -/
  held : List (ConvoyMsg × ReadyInfo) := []
  /-- Failed ranks: fabric group, epoch, rank (R414). -/
  failed : List (W32 × Byte × BitVec 16) := []
  /-- Identifiers of the last 256 control messages (R410). -/
  seen : List W32 := []
  nextIdent : W32 := 0
  deriving DecidableEq, Repr

/-! ### Host attachment and streams (R422 to R439) -/

/-- Stream states (R429). -/
inductive StreamSt where
  | closed | idle | active | waiting | faulted
  deriving DecidableEq, Repr

/-- What a started command of a stream is doing. -/
inductive RunCmd where
  /-- A launch: kernel handle, tiles, parameter snapshot, whether the tiles have been started, the checked flag. -/
  | launch (handle : W32) (tiles : List Nat) (image : Tab W64) (started : Bool)
  | copy (ch : Nat)
  /-- A SEAL or UNSEAL: key slot, generation and session, chunks done. -/
  | crypt (slot : Nat) (gen : W32) (session : Nat) (done : Nat)
  | wait (ev : Nat) (thr : W64)
  | barrier
  | update (id : Nat)
  | coll (id : Nat)
  deriving DecidableEq, Repr

/-- A stream table entry (R429) with what the engine holds beside it: the running command and a pending close or resume. -/
structure StreamEnt where
  flags : Byte := 0
  st : StreamSt := .closed
  owner : Byte := 0
  lsize : Byte := 0
  msix : BitVec 16 := 0
  ring : W64 := 0
  cplad : W64 := 0
  head : W32 := 0
  tail : W32 := 0
  fault : W32 := 0
  fidx : W32 := 0
  nlaunch : W64 := 0
  run : Option (StreamCmd × RunCmd) := none
  closing : Bool := false
  resuming : Bool := false
  deriving DecidableEq, Repr

/-- What waits in the pending bitmap for a hamper entry (R432). -/
inductive StreamReq where
  | open_ | close | resume | doorbell (v : W32) | select
  deriving DecidableEq, Repr

/-- The stream engine (R430 to R438). The hamper is listed most recently used first. -/
structure StreamBlk where
  tbase : W64 := 0
  sel : BitVec 13 := 0
  bad : Bool := false
  dbClosed : BitVec 16 := 0
  evbase : Tab W64 := []
  hamper : List (Nat × StreamEnt) := []
  pending : List (Nat × StreamReq) := []
  /-- The stream that was served last (R433: round robin). -/
  lastServed : Nat := 0
  deriving DecidableEq, Repr

/-- The PCIe endpoint (R422 to R428, R438, R439). -/
structure PciBlk where
  b2base : W64 := 0
  b2part : BitVec 2 := 0
  cto : W32 := 50
  lostTmo : W32 := 10
  up : Bool := false
  lost : Bool := false
  width : BitVec 4 := 0
  rate : BitVec 4 := 0
  bar2err : BitVec 16 := 0
  bar0err : BitVec 16 := 0
  msix : Tab W32 := []
  msixPend : Tab Bool := []
  /-- The endpoint is released by the boot ROM (R524). -/
  released : Bool := false
  /-- Requests to the host window that await their completion: identifier and request (R428). -/
  hostReqs : List (Nat × Req) := []
  nextReq : Nat := 0
  deriving DecidableEq, Repr

/-! ### Security and the Lookout (R440 to R471) -/

/-- The state of a key generation slot (R463). -/
inductive KeySt where
  | empty | live | retired
  deriving DecidableEq, Repr

/-- A key generation slot (R463, R464): state, generation, commands in flight, the direction-1 counter, and the highest counter
accepted by window. -/
structure KeySlot where
  st : KeySt := .empty
  gen : W32 := 0
  inflight : Nat := 0
  ctr : W64 := 0
  high : Tab (Option W64) := []
  deriving DecidableEq, Repr

/-- A slot after reset. -/
def KeySlot.zero : KeySlot := {}

/-- The SPDM session (R448, R463). -/
inductive SessSt where
  | none | handshake | open_
  deriving DecidableEq, Repr

/-- The security block (R441 to R466, R471). -/
structure SecBlk where
  bootDone : Bool := false
  bootSlot : Bool := false
  failA : Byte := 0
  failB : Byte := 0
  isvn : Byte := 0
  /-- Fuse commits since manufacture: svn raised to, bits of erev and lrev set (R441). -/
  svnUp : Nat := 0
  erevSet : BitVec 4 := 0
  lrevSet : BitVec 4 := 0
  dbgNonce : W64 := 0
  debugOpen : Bool := false
  conf : Bool := false
  /-- The always-on copy of conf (R460). -/
  confAo : Bool := false
  key0 : KeySlot := {}
  key1 : KeySlot := {}
  lastGen : Option W32 := none
  entFail : Bool := false
  /-- A health test has failed since PORST_N: keys and signatures stay refused when the fail bit is cleared (R466). -/
  entBad : Bool := false
  entRun : Bool := false
  clrBusy : Bool := false
  clrRefused : Bool := false
  clrTile : Byte := 0
  meas : Tab (BitVec 384) := []
  mextData : BitVec 384 := 0
  /-- SEC_BWINw words by 4 × w + word, SEC_CRANGEe words by 2 × e + word. -/
  bwin : Tab W64 := []
  crange : Tab W64 := []
  session : SessSt := .none
  sessionNo : Nat := 0
  reportSeq : W32 := 0
  deriving DecidableEq, Repr

/-- The Lookout (R467 to R471, R523) with its non-volatile store. -/
structure LkoBlk where
  up : Bool := false
  mbox : W64 := 0
  held : List W64 := []
  tls : Nat := 0
  bootFail : Bool := false
  /-- Debug token accepted, for the next PORST_N (R450). -/
  token : Bool := false
  /-- Store: trust anchors, images by 2 × kind + slot, images staged for the next PORST_N (R469), persisted remap entries and retired pages by stack, fault log,
  configuration (R334, R442, R468, R527). -/
  anchors : Tab (List Byte) := []
  images : Tab (List Byte) := []
  staged : Tab (List Byte) := []
  remaps : List (Nat × W64) := []
  pages : List (Nat × BitVec 25) := []
  faultlog : List (Nat × FltRec) := []
  /-- FAULTLOG entries that are not stack records: their kind and an index (R526; 21, Power rails and sequencing). -/
  notes : List (Nat × Nat) := []
  cfgDevid : BitVec 16 := 0
  cfgPorts : BitVec 12 := 0
  deriving DecidableEq, Repr

/-! ### Interrupt controller (R472 to R483) -/

/-- The interrupt controller. -/
structure IcuBlk where
  prio : Tab (BitVec 4) := []
  active : Tab Bool := []
  owner : Tab (BitVec 4) := []
  tmask : Tab (BitVec 10) := []
  swp : Tab Bool := []
  thr : Tab (BitVec 4) := []
  evlatch : BitVec 18 := 0
  hfwdEn : Bool := false
  hfwdVec : BitVec 11 := 0
  badcomp : BitVec 16 := 0
  /-- The notification line of target 8 as the endpoint last saw it (R479). -/
  line8 : Bool := false
  deriving DecidableEq, Repr

/-! ### Clocks and power (R484 to R504) -/

/-- A measure that the power manager has taken (R503): its kind (0 operating point, 1 ceilings halved, 2 swallow) and what stood
before it. -/
structure Measure where
  kind : Nat
  op : Nat
  ceils : List Nat
  swallow : Nat
  deriving DecidableEq, Repr

/-- The clock and power blocks. -/
structure PwrBlk where
  pgRun : BitVec 16 := 0
  /-- Groups whose PLL is locking to start, and groups held in the reset of R491. -/
  pgLock : BitVec 16 := 0
  pgHeld : BitVec 16 := 0
  huben : BitVec 4 := 0
  /-- Enables that have been written 0 and take effect once their block is idle (R489). -/
  hubOff : BitVec 4 := 0
  wdogValid : Bool := false
  wdogOver : Bool := false
  wdogDomain : Byte := 0
  wdogCount : BitVec 16 := 0
  opBusy : Bool := false
  opCur : BitVec 2 := 3
  opTarget : BitVec 2 := 3
  /-- The groups whose idle PLL has locked for the change, whether PWR_VSETTLE has elapsed, and whether the switch is done. -/
  opLocked : BitVec 16 := 0
  opSettled : Bool := false
  opSwitched : Bool := false
  swallow : BitVec 4 := 0
  limit : W32 := 0x0E100C80
  vsettle : BitVec 16 := 0x04E2
  evt : BitVec 6 := 0
  power : BitVec 12 := 0
  reqRefused : Bool := false
  reqState : BitVec 2 := 0
  reqTile : Byte := 0
  idle : BitVec 16 := 100
  scdusk : BitVec 8 := 0
  devRefused : Bool := false
  dev : PowerSt := .noon
  nightok : BitVec 256 := 0
  /-- The excursion timer runs (R501); the last 25 samples, newest first (R500). -/
  excRun : Bool := false
  samples : List Nat := []
  measures : List Measure := []
  below : Nat := 0
  /-- Evaluations since the last undo, and evaluations for which the lower setting is held (R503). -/
  sinceUndo : Nat := 100000
  hold : Nat := 0
  deriving DecidableEq, Repr

/-- A service core (R444, R499, R529, R530). -/
inductive ScSt where
  | reset | run | dusk | held
  deriving DecidableEq, Repr

/-! ### Translator and stash (R258 to R293) -/

/-- A kernel of a loaded module (R272, R286, R291): its rectangle, wait limit, table RAM use, code, scratchpad offset of the code,
parameter image, and the parameters that are shape (1) or address (2) parameters. -/
structure Kernel where
  x0 : Nat
  y0 : Nat
  w : Nat
  h : Nat
  waitlim : W32
  use : Nat
  code : List (BitVec 256)
  place : Nat
  image : Tab W64
  cls : List (Nat × Nat)
  deriving DecidableEq, Repr

/-- A loaded module (R266, R269, R291). -/
structure Module where
  serial : Nat
  part : Nat
  ctx : Nat
  checked : Bool
  kernels : List Kernel
  deriving DecidableEq, Repr

/-- A request of the translator in progress (R265): where the record goes and its 64 bytes. -/
structure NpcDone where
  recAddr : Option Nat
  record : List Byte
  status : Byte
  deriving DecidableEq, Repr

/-- The translator's registers of one partition (R265). -/
structure NpcBlk where
  req : W64 := 0
  overrun : Bool := false
  last : Byte := 0
  busy : Option NpcDone := none
  deriving DecidableEq, Repr

/-- A partition's registers after reset. -/
def NpcBlk.zero : NpcBlk := {}

/-- A stash slot (R258, R260). -/
structure StashSlot where
  st : BitVec 2 := 0
  part : BitVec 2 := 0
  ctx : BitVec 4 := 0
  tag : BitVec 20 := 0
  base : W64 := 0
  size : W64 := 0
  nrec : W32 := 0
  deriving DecidableEq, Repr

/-- A free slot. -/
def StashSlot.zero : StashSlot := {}

/-! ### Claims, trace, errors, pins (R506 to R519, R524 to R543) -/

/-- The hub's claims, trace buffer and phase timers. -/
structure TrcBlk where
  clmEvt : W32 := 0
  clmTrc : W32 := 0
  frozen : Bool := false
  wrap : Bool := false
  xctx : BitVec 16 := 0
  full : BitVec 16 := 0
  /-- Records held, the next position, records written since the claim (R516, R517). -/
  held : Nat := 0
  next : Nat := 0
  seq : W32 := 0
  buf : Tab (BitVec 128) := []
  tph : Tab PhTimer := []
  deriving DecidableEq, Repr

/-- Start-up, machine checks and service cores (R524, R529, R530). -/
structure HubBlk where
  ready : Bool := false
  stkOk : BitVec 12 := 0
  cause : BitVec 4 := 0
  phase : BitVec 4 := 0
  mcValid : Bool := false
  mcOver : Bool := false
  mcCore : BitVec 3 := 0
  mcCode : Byte := 0
  mcFlags : BitVec 6 := 0
  mcAddr : W64 := 0
  /-- HUB_SCWDn: en (bit 30) and timeout. -/
  scwd : Tab W32 := []
  sc : Tab ScSt := []
  deriving DecidableEq, Repr

/-- The pins and what the always-on domain latches of them (R520, R537 to R543); true is a high level. -/
structure PinBlk where
  porst : Bool := false
  perst : Bool := true
  lkoRst : Bool := true
  evtIo : Bool := true
  /-- AO_CLK has been lost (R522). -/
  aoLost : Bool := false
  thermtrip : Bool := false
  strap : BitVec 4 := 0
  /-- The PWREN outputs are high; PGOOD is awaited after a POWER on (21, Power rails and sequencing). -/
  pwren : Bool := true
  waitPgood : Bool := false
  junction : Int := 0
  /-- JTAG was connected at the last PORST_N (R449): a free value of the board. -/
  jtag : Bool := false
  /-- What the start-up of PORST_N_DEASSERT found: fuses good, stacks that train. -/
  fuseOk : Bool := true
  stackOk : BitVec 12 := 0
  deriving DecidableEq, Repr

/-- What leaves the device for its partners (R427, R448, R469, R395, R540). -/
inductive OutMsg where
  | cell (n : PortIx) (c : Cell)
  | msix (vec : Nat) (addr : W64) (data : W32)
  | tlpWrite (addr : Nat) (d : List PByte)
  | tlpRead (id addr n : Nat)
  | barData (d : List PByte)
  | spdm (code : Nat) (d : List Byte)
  | spdmError (code : Nat)
  | vendor (status : Nat) (v : W64)
  | mgmt (p : MgmtPath) (ok : Bool) (d : List Byte)
  | heartbeat (p : MgmtPath) (session : Nat)
  | voltage (op : Nat)
  | regValue (status : Nat) (v : W64)
  deriving DecidableEq, Repr

end Sys2Proof.Machine
end

