-- ==== Sys2Proof/Machine/State.lean ====
section
/-! DEFINITION. The state of the block: the queue of waiting commands, the tiles, the blocks outside the tiles, what travels
between them, and what leaves the device; and the reasons for which a command stops. -/

namespace Sys2Proof.Machine

/-- Why the model stops at a command that cannot exist on the device. SAFE: the device has no such event. -/
inductive Fault where
  /-- Raised by a command whose message no path of the device carries: a mesh, memory or BAR access of no byte or of more bytes
  than the path moves in one message (R96, R422), a request that arrives at a unit that its address does not name (R319), or a
  bank, sector or symbol number that a stack does not have (R323, R325).
  Safe: the device never sees such an event. -/
  | noSuchEvent
  deriving DecidableEq, Repr

/-- Why the model refuses a command. -/
inductive Refusal where
  /-- Raised by the arm of a command that has no meaning yet, with its mnemonic. Safe. -/
  | notModelled (mnemonic : String)
  deriving DecidableEq, Repr

/-- The block. -/
structure State where
  /-- Commands that are waiting, first in, first out. -/
  pending : List Instr := []
  /-- The ordering code: true for GC-4812-FX, false for GC-4812-SX (R3; log entry 2). -/
  fx : Bool := true
  /-- The partition layout in force: 0 none, 1 two-way, 2 four-way (R83). -/
  partMode : Nat := 0
  tiles : Tab Tile := []
  /-- The context of the kernel that last ran on a tile, with the handle of the kernel whose code its bundle store holds, and the
  stream whose launch runs on it (R433, R452). -/
  tileCtx : Tab Nat := []
  tileCode : Tab W32 := []
  /-- Stack memory by device address, and the poisoned 32-byte sectors by device address / 32 (R319, R327). -/
  mem : Tab Byte := []
  memPois : Tab Bool := []
  stk : Tab StkBlk := []
  strat : Tab StratBlk := []
  upds : List UpdJob := []
  nextId : Nat := 1
  sdma : Tab DmaCh := []
  sdmaIrq : W64 := 0
  port : Tab PortBlk := []
  cvy : CvyBlk := {}
  stream : StreamBlk := {}
  pci : PciBlk := {}
  sec : SecBlk := {}
  lko : LkoBlk := {}
  icu : IcuBlk := {}
  pwr : PwrBlk := {}
  stash : Tab StashSlot := []
  npc : Tab NpcBlk := []
  modules : List Module := []
  /-- The image cache of R293: digest, capability word, layout, checked flag. -/
  cache : List (BitVec 384 × W64 × Nat × Bool) := []
  nextSerial : Nat := 1
  trc : TrcBlk := {}
  hub : HubBlk := {}
  pin : PinBlk := {}
  /-- Requests that a DMA channel has issued and that have not been served, and responses that have not arrived. -/
  transit : List Req := []
  resps : List Resp := []
  /-- What the device has sent to its partners, newest first. -/
  outbox : List OutMsg := []
  /-- The model's own counters: free values drawn and entropy drawn (log entries 5 and 6). -/
  draws : Nat := 0
  drawsEnt : Nat := 0
  deriving DecidableEq, Repr

/-- The block right after PORST_N is asserted: every register at its reset value, the pin low, nothing waiting. -/
def State.reset : State := {}

end Sys2Proof.Machine
end

