-- ==== Sys2Proof/Machine/Reals.lean ====
section
/-! DEFINITION. The exact values of the functions of R208 and of R222, enclosed between two numbers of 256 bits, and the encodings that the
bounds of R209, R210 and R222 leave to a result. Everything here is computed; which of the encodings left open a pipe returns is a free
value (log entry 8). -/

namespace Sys2Proof.Machine

/-- An enclosure of a real number other than 0: its sign, and its magnitude between lo × 2^e and hi × 2^e. -/
structure Encl where
  s : Bool
  lo : Nat
  hi : Nat
  e : Int
  deriving DecidableEq, Repr

/-- The unit of the fixed-point bounds: a number k stands for k / 2^256. -/
def fixU : Nat := 2 ^ 256

/-- A lower and an upper bound in fixed point. -/
abbrev Bounds := Nat × Nat

/-- The product of two bounded numbers. -/
def Bounds.mul (a b : Bounds) : Bounds := (a.1 * b.1 / fixU, a.2 * b.2 / fixU + 1)

/-- A sum of bounded terms: `next n t` is term n + 1 from term n, `count` terms after the first; the last term bounds what is left out. -/
def seriesGo (next : Nat → Bounds → Bounds) (part : Nat → Bounds → Bounds) : Nat → Nat → Bounds → Bounds → Bounds
  | 0, _, t, acc => (acc.1, acc.2 + t.2 + 1)
  | k + 1, n, t, acc =>
    let p := part n t
    seriesGo next part k (n + 1) (next n t) (acc.1 + p.1, acc.2 + p.2)

/-- Two sums, of the terms of even and of odd number: an alternating series is their difference. -/
def alternateGo (next : Nat → Bounds → Bounds) : Nat → Nat → Bounds → Bounds → Bounds → Bounds × Bounds
  | 0, _, t, ev, od => ((ev.1, ev.2 + t.2 + 1), (od.1, od.2 + t.2 + 1))
  | k + 1, n, t, ev, od =>
    if n % 2 = 0 then alternateGo next k (n + 1) (next n t) (ev.1 + t.1, ev.2 + t.2) od
    else alternateGo next k (n + 1) (next n t) ev (od.1 + t.1, od.2 + t.2)

/-- The difference of two bounded numbers, the first not below the second. -/
def Bounds.minus (a b : Bounds) : Bounds := (a.1 - b.2, a.2 - b.1)

/-! ### Constants -/

/-- ln 2, as the sum of 1 / (k 2^k). -/
def ln2 : Bounds :=
  let s := (List.range 270).foldl (fun a k => a + fixU / ((k + 1) * 2 ^ (k + 1))) 0
  (s, s + 272)

/-- atan(1/q) in units of 2^-p, from `n` terms. -/
def atanInv (p q n : Nat) : Bounds :=
  let t (k : Nat) := 2 ^ p / ((2 * k + 1) * q ^ (2 * k + 1))
  let sum (odd : Nat) := (List.range n).foldl (fun a k => if k % 2 = odd then a + t k else a) 0
  (sum 0 - sum 1 - (n + 1), sum 0 - sum 1 + (n + 1))

/-- π in units of 2^-p: 16 atan(1/5) − 4 atan(1/239). -/
def piAt (p : Nat) : Bounds :=
  let a := atanInv p 5 (p / 4)
  let b := atanInv p 239 (p / 8)
  (16 * a.1 - 4 * b.2, 16 * a.2 - 4 * b.1)

/-- The square root of num / (den × π). -/
def rootOverPi (num den : Nat) : Bounds :=
  let p := piAt 256
  (isqrt (num * fixU ^ 3 / (den * p.2)), isqrt (num * fixU ^ 3 / (den * p.1)) + 1)

/-! ### Exponential and logarithm -/

/-- e^r for r from 0 to below 2. -/
def expFrac (r : Bounds) : Bounds :=
  seriesGo (fun n t => (t.1 * r.1 / (fixU * (n + 1)), t.2 * r.2 / (fixU * (n + 1)) + 1)) (fun _ t => t) 110 0 (fixU, fixU) (0, 0)

/-- A magnitude too small, and one too large, for every format: what lies beyond 2^±2900. -/
def enclTiny (s : Bool) : Encl := ⟨s, 0, 1, -2900⟩
/-- A magnitude too large for every format. -/
def enclHuge (s : Bool) : Encl := ⟨s, 1, 1, 2900⟩

/-- e^x for x = ±m × 2^e. -/
def expE (s : Bool) (m : Nat) (e : Int) : Encl :=
  let h := e + bitLen m
  if 12 ≤ h then (if s then enclTiny false else enclHuge false)
  else if h ≤ -200 then (if s then ⟨false, 2 ^ 200 - 2, 2 ^ 200, -200⟩ else ⟨false, 2 ^ 200, 2 ^ 200 + 2, -200⟩)
  else
    let d := e + 256
    let xl := if 0 ≤ d then shl m d else m / 2 ^ (-d).toNat
    let xh := if 0 ≤ d then shl m d else m / 2 ^ (-d).toNat + 1
    let l := ln2
    if s then
      let n := xh / l.1 + 1
      let r := expFrac (n * l.1 - xh, n * l.2 - xl)
      ⟨false, r.1, r.2, -(n : Int) - 256⟩
    else
      let n := xl / l.2
      let r := expFrac (xl - n * l.2, xh - n * l.1)
      ⟨false, r.1, r.2, (n : Int) - 256⟩

/-- 2^x for x = ±m × 2^e that is no integer. -/
def exp2E (s : Bool) (m : Nat) (e : Int) : Encl :=
  if 12 ≤ e + bitLen m then (if s then enclTiny false else enclHuge false)
  else
    let d := (-e).toNat
    let n := m / 2 ^ d
    let f := m % 2 ^ d
    let l := ln2
    let up (g : Nat) : Bounds := expFrac (g * l.1 / 2 ^ d, g * l.2 / 2 ^ d + 1)
    if s then let r := up (2 ^ d - f); ⟨false, r.1, r.2, -(n : Int) - 1 - 256⟩
    else let r := up f; ⟨false, r.1, r.2, (n : Int) - 256⟩

/-- Twice atanh of z = a / b, at most 1/5. -/
def atanh2 (a b : Nat) : Bounds :=
  let z : Bounds := (a * fixU / b, a * fixU / b + 1)
  let z2 := z.mul z
  let r := seriesGo (fun _ t => t.mul z2) (fun n t => (t.1 / (2 * n + 1), t.2 / (2 * n + 1) + 1)) 70 0 z (0, 0)
  (2 * r.1, 2 * r.2)

/-- ln x for x = m × 2^e, as two signed bounds. -/
def logI (m : Nat) (e : Int) : Int × Int :=
  let L := bitLen m
  let high := 3 * 2 ^ (L - 1) ≤ 2 * m
  let D := if high then 2 ^ L else 2 ^ (L - 1)
  let k : Int := e + L - (if high then 0 else 1)
  let b : Int × Int :=
    if m < D then let r := atanh2 (D - m) (D + m); (-(r.2 : Int), -(r.1 : Int))
    else let r := atanh2 (m - D) (D + m); ((r.1 : Int), (r.2 : Int))
  let l := ln2
  if 0 ≤ k then (k * l.1 + b.1, k * l.2 + b.2) else (k * l.2 + b.1, k * l.1 + b.2)

/-- The enclosure of a number with signed bounds. -/
def enclOf (b : Int × Int) : Encl :=
  if 0 ≤ b.1 then ⟨false, b.1.toNat, b.2.toNat, -256⟩ else ⟨true, (-b.2).toNat, (-b.1).toNat, -256⟩

/-- log₂ from ln. -/
def overLn2 (y : Encl) : Encl :=
  let l := ln2
  ⟨y.s, y.lo * fixU / l.2, y.hi * fixU / l.1 + 1, y.e⟩

/-! ### The other functions of R208 -/

/-- Whether m × 2^e is at least k. -/
def atLeast (m : Nat) (e : Int) (k : Nat) : Bool := !ltScaled m e k 0

/-- tanh x. -/
def tanhE (s : Bool) (m : Nat) (e : Int) : Encl :=
  let h := e + bitLen m
  if h ≤ -30 then ⟨s, m * (2 ^ 60 - 1), m * 2 ^ 60, e - 60⟩
  else if 7 ≤ h then ⟨s, 2 ^ 100 - 1, 2 ^ 100, -100⟩
  else
    let t := expE false m (e + 1)
    let n := (t.e + 256).toNat
    let f (k : Nat) := (k - fixU) * fixU / (k + fixU)
    ⟨s, f (t.lo * 2 ^ n), f (t.hi * 2 ^ n) + 1, -256⟩

/-- 1 / (1 + e^-x). -/
def sigmoidE (s : Bool) (m : Nat) (e : Int) : Encl :=
  let h := e + bitLen m
  if 7 ≤ h && !s then ⟨false, 2 ^ 80 - 1, 2 ^ 80, -80⟩
  else if 12 ≤ h then enclTiny false
  else
    let t := expE false m e
    let n := (t.e + 256).toNat
    let tl := t.lo * 2 ^ n
    let th := t.hi * 2 ^ n
    if s then
      let w := 2 ^ (256 + 2 * n)
      ⟨false, fixU * w / (th + fixU), fixU * w / (tl + fixU) + 1, -(256 + 2 * (n : Int))⟩
    else ⟨false, tl * fixU / (tl + fixU), th * fixU / (th + fixU) + 1, -256⟩

/-- The sum of x × w^n / (1 × 3 × … × (2n + 1)) over n. -/
def oddSeries (x w : Bounds) (count : Nat) : Bounds :=
  seriesGo (fun n t => let p := t.mul w; (p.1 / (2 * n + 3), p.2 / (2 * n + 3) + 1)) (fun _ t => t) count 0 x (0, 0)

/-- m × 2^e in fixed point. -/
def fixOf (m : Nat) (e : Int) : Bounds :=
  let d := e + 256
  if 0 ≤ d then (shl m d, shl m d) else (m / 2 ^ (-d).toNat, m / 2 ^ (-d).toNat + 1)

/-- erf x = 2/√π × e^(−x²) × Σ 2^n x^(2n + 1) / (2n + 1)!!. -/
def erfE (s : Bool) (m : Nat) (e : Int) : Encl :=
  let c := rootOverPi 4 1
  if e + bitLen m ≤ -40 then ⟨s, m * c.1 * (2 ^ 78 - 1), m * c.2 * 2 ^ 78, e - 256 - 78⟩
  else if atLeast m e 7 then ⟨s, 2 ^ 70 - 1, 2 ^ 70, -70⟩
  else
    let g := expE true (m * m) (2 * e)
    let a := oddSeries (fixOf m e) (fixOf (2 * m * m) (2 * e)) 320
    ⟨s, c.1 * g.lo * a.1, c.2 * g.hi * a.2, g.e - 512⟩

/-- x × (1 + erf(x / √2)) / 2. -/
def geluE (s : Bool) (m : Nat) (e : Int) : Encl :=
  if !s && atLeast m e 10 then ⟨false, m * (2 ^ 70 - 1), m * 2 ^ 70, e - 70⟩
  else if s && atLeast m e 15 then ⟨true, 0, 1, -155⟩
  else
    let c := rootOverPi 1 2
    let g := expE true (m * m) (2 * e - 1)
    let a := oddSeries (fixOf m e) (fixOf (m * m) (2 * e)) 520
    let d := 2 ^ (256 - g.e).toNat
    let f : Bounds := (c.1 * g.lo * a.1 / d, c.2 * g.hi * a.2 / d + 1)
    let p : Bounds := if s then (fixU / 2 - f.2, fixU / 2 - f.1) else (fixU / 2 + f.1, fixU / 2 + f.2)
    ⟨s, m * p.1, m * p.2, e - 256⟩

/-- ln(1 + e^x). -/
def softplusE (s : Bool) (m : Nat) (e : Int) : Encl :=
  if atLeast m e 80 then
    if s then let t := expE true m e; ⟨false, t.lo * (2 ^ 100 - 1), t.hi * 2 ^ 100, t.e - 100⟩
    else
      let q := min e (-100)
      let x := shl m (e - q)
      ⟨false, x, x + 2 ^ (-100 - q).toNat, q⟩
  else
    let t := expE s m e
    let one := 2 ^ (-t.e).toNat
    ⟨false, (logI (one + t.lo) t.e).1.toNat, (logI (one + t.hi) t.e).2.toNat, -256⟩

/-- The quarter turn that |x| lies in, the rest of it measured from the nearer end of that turn, and whether that is the upper end. -/
def quarter (m : Nat) (e : Int) : Nat × Bounds × Bool :=
  let p := piAt 400
  let x := fixOf m e
  let k := x.1 * 2 ^ 145 / p.2
  let r : Bounds := (2 * x.1 * 2 ^ 144 - k * p.2, 2 * x.2 * 2 ^ 144 - k * p.1)
  let down (b : Bounds) : Bounds := (b.1 / 2 ^ 145, b.2 / 2 ^ 145 + 1)
  if p.1 < 2 * r.1 then (k % 4, down (p.1 - r.2, p.2 - r.1), true) else (k % 4, down r, false)

/-- sin r for r from 0 to 1. -/
def sinFrac (r : Bounds) : Bounds :=
  let r2 := r.mul r
  let x := alternateGo (fun n t => let p := t.mul r2; let q := (2 * n + 2) * (2 * n + 3); (p.1 / q, p.2 / q + 1)) 44 0 r (0, 0) (0, 0)
  x.1.minus x.2

/-- cos r for r from 0 to 1. -/
def cosFrac (r : Bounds) : Bounds :=
  let r2 := r.mul r
  let x := alternateGo (fun n t => let p := t.mul r2; let q := (2 * n + 1) * (2 * n + 2); (p.1 / q, p.2 / q + 1)) 44 0 (fixU, fixU) (0, 0) (0, 0)
  x.1.minus x.2

/-- sin x. -/
def sinE (s : Bool) (m : Nat) (e : Int) : Encl :=
  if e + bitLen m ≤ -60 then ⟨s, m * (2 ^ 100 - 1), m * 2 ^ 100, e - 100⟩
  else
    let (k, r, up) := quarter m e
    let b := if (k % 2 = 1) != up then cosFrac r else sinFrac r
    ⟨s != (k = 2 || k = 3), b.1, b.2, -256⟩

/-- cos x. -/
def cosE (m : Nat) (e : Int) : Encl :=
  if e + bitLen m ≤ -60 then ⟨false, 2 ^ 100 - 1, 2 ^ 100, -100⟩
  else
    let (k, r, up) := quarter m e
    let b := if (k % 2 = 1) != up then sinFrac r else cosFrac r
    ⟨k = 1 || k = 2, b.1, b.2, -256⟩

/-- The exact value of a function of R208 at ±m × 2^e, m > 0, where R210 and R211 give no exact result. -/
def fnEncl (fn : Nat) (s : Bool) (m : Nat) (e : Int) : Encl :=
  match fn with
  | 0 => expE s m e
  | 1 => exp2E s m e
  | 2 => enclOf (logI m e)
  | 3 => overLn2 (enclOf (logI m e))
  | 7 => tanhE s m e
  | 8 => sigmoidE s m e
  | 9 => erfE s m e
  | 10 => geluE s m e
  | 11 => softplusE s m e
  | 12 => sinE s m e
  | _ => cosE m e

/-! ### Powers (R357) -/

/-- A magnitude cut to about 256 bits. -/
def Encl.cut (x : Encl) : Encl :=
  let n := bitLen x.hi
  if n ≤ 320 then x else let d := n - 256; ⟨x.s, x.lo / 2 ^ d, x.hi / 2 ^ d + 1, x.e + d⟩

/-- A product. -/
def Encl.mul (a b : Encl) : Encl := Encl.cut ⟨a.s != b.s, a.lo * b.lo, a.hi * b.hi, a.e + b.e⟩

/-- acc × b^t, `fuel` bits of t. -/
def powGo : Nat → Encl → Nat → Encl → Encl
  | 0, _, _, acc => acc
  | fuel + 1, b, t, acc => if t = 0 then acc else powGo fuel (b.mul b) (t / 2) (if t % 2 = 1 then acc.mul b else acc)

/-- b^t for b = ±m × 2^e, m > 0, t below 2^64. -/
def powE (s : Bool) (m : Nat) (e : Int) (t : Nat) : Encl :=
  let y := powGo 64 ⟨s, m, m, e⟩ t ⟨false, 1, 1, 0⟩
  if y.e + bitLen y.hi < -2900 then enclTiny y.s else if 2900 < y.e + bitLen y.lo then enclHuge y.s else y

/-! ### Sums of exponentials (R221) -/

/-- e^x of a value; a zero gives 1. -/
def expV (x : FVal) : Encl :=
  match x with
  | .fin s m e => if m = 0 then ⟨false, 1, 1, 0⟩ else expE s m e
  | _ => ⟨false, 1, 1, 0⟩

/-- e^x over the sum of the e^x′ of a list, x in it, every one within ±1,400. -/
def softE (x : FVal) (l : List FVal) : Encl :=
  let ys := l.map expV
  let q := ys.foldl (fun q y => min q y.e) 0
  let lo := ys.foldl (fun a y => a + shl y.lo (y.e - q)) 0
  let hi := ys.foldl (fun a y => a + shl y.hi (y.e - q)) 0
  let n := expV x
  ⟨false, n.lo * 2 ^ 5000 / hi, n.hi * 2 ^ 5000 / lo + 1, n.e - q - 5000⟩

/-! ### The encodings that a bound leaves open -/

/-- The exponent of the power of two above the largest finite value. -/
def FSpec.topE (f : FSpec) : Int := 2 ^ f.ebits - 1 - (f.bias : Int)

/-- The encodings of a positive number that the bound of R209 and R210 leaves open, the first and the last; the encoding after the largest
finite one stands for an overflow. -/
def leftOpen (fmt : Fmt) (lo hi : Nat) (e : Int) : Nat × Nat :=
  let f := fmt.spec
  let big (k : Nat) : Bool := !ltScaled k e 1 f.topE
  let i := if big lo then f.maxBits + 1 else (encF fmt 1 false 0 (.fin false lo e)).1
  let j := if big hi then f.maxBits + 1 else (encF fmt 3 false 0 (.fin false hi e)).1
  let k : Int := (i / 2 ^ f.frac : Nat) - (f.bias : Int)
  let near := i ≤ f.maxBits && i % 2 ^ f.frac = 0 && 2 ≤ i / 2 ^ f.frac && ltScaled lo e (2 ^ (f.frac + 1) + 1) (k - f.frac - 1)
  (if near then i - 1 else i, j)

/-- The encoding and flags of a result that the bound left open: its number, the sign, whether it is the exact value, the flags of the exact
value under RNE (R28 to R30, R39, R545). -/
def openBits (fmt : Fmt) (s sat exact : Bool) (j : Nat) (fl : Flags) : Nat × Flags :=
  let f := fmt.spec
  let sg := if s then 2 ^ f.sbit else 0
  if f.maxBits < j then
    if sat then (maxBits fmt s, fOvf ||| fInx ||| fSat) else (infBits fmt s, fOvf ||| fInx)
  else
    let tiny := j < 2 ^ f.frac || (j = 2 ^ f.frac && fl &&& fUnf ≠ 0)
    (sg + j, if exact then 0 else fInx ||| fWhen tiny fUnf)

/-- The order of the sources: a larger value has a larger key. -/
def orderKey (x : FVal) : Int :=
  let b := (encF .fp64 0 false 0 x).1
  if b < 2 ^ 63 then b else -((b - 2 ^ 63 : Nat) : Int)

end Sys2Proof.Machine
end

