-- ==== Sys2Proof/Machine/MxEngine.lean ====
section
/-! DEFINITION. The matrix arrays at work (04, 05, 02): descriptor, checks, the cycles of the feeder's reads and of the passes,
and what each pass adds to the accumulator file. -/

namespace Sys2Proof.Machine

/-- Bits lo to lo + n - 1 of a word. -/
def bitsOf (w : W64) (lo n : Nat) : Nat := w.toNat / 2 ^ lo % 2 ^ n

/-! ### The issue descriptor (R135) -/

/-- Word i of the descriptor. -/
def MxOp.word (o : MxOp) (i : Nat) : W64 := o.w.getD i 0
/-- The fields of the descriptor, by their names in R135. -/
def MxOp.pm (o : MxOp) : Nat := bitsOf (o.word 0) 0 3
def MxOp.opn (o : MxOp) : Bool := (o.word 0)[3]
def MxOp.faC (o : MxOp) : Nat := bitsOf (o.word 0) 4 4
def MxOp.fbC (o : MxOp) : Nat := bitsOf (o.word 0) 8 4
def MxOp.amode (o : MxOp) : Nat := bitsOf (o.word 0) 12 2
def MxOp.sw (o : MxOp) : Bool := (o.word 0)[14]
def MxOp.sat (o : MxOp) : Bool := (o.word 0)[15]
def MxOp.ab (o : MxOp) : Nat := bitsOf (o.word 0) 16 7
def MxOp.m (o : MxOp) : Nat := bitsOf (o.word 0) 24 7 + 1
def MxOp.n (o : MxOp) : Nat := bitsOf (o.word 0) 32 5 + 1
def MxOp.sca (o : MxOp) : Bool := (o.word 0)[37]
def MxOp.scb (o : MxOp) : Bool := (o.word 0)[38]
def MxOp.sp (o : MxOp) : Bool := (o.word 0)[39]
def MxOp.sh (o : MxOp) : Bool := (o.word 0)[40]
def MxOp.st (o : MxOp) : Bool := (o.word 0)[41]
def MxOp.taps (o : MxOp) : Nat := bitsOf (o.word 0) 48 10 + 1
def MxOp.K (o : MxOp) : Nat := bitsOf (o.word 1) 0 24
def MxOp.aBase (o : MxOp) : Nat := bitsOf (o.word 2) 0 23
def MxOp.aStr (o : MxOp) : Nat := bitsOf (o.word 2) 32 24
def MxOp.bBase (o : MxOp) : Nat := bitsOf (o.word 3) 0 23
def MxOp.bStr (o : MxOp) : Nat := bitsOf (o.word 3) 32 24
def MxOp.asBase (o : MxOp) : Nat := bitsOf (o.word 4) 0 23
def MxOp.asStr (o : MxOp) : Nat := bitsOf (o.word 4) 32 24
def MxOp.bsBase (o : MxOp) : Nat := bitsOf (o.word 5) 0 23
def MxOp.bsStr (o : MxOp) : Nat := bitsOf (o.word 5) 32 24
def MxOp.dBase (o : MxOp) : Nat := bitsOf (o.word 6) 0 23
def MxOp.atStr (o : MxOp) : Nat := bitsOf (o.word 6) 32 24
def MxOp.auxBase (o : MxOp) : Nat := bitsOf (o.word 7) 0 23

/-- The format of A; a reserved code is refused before it is used. -/
def MxOp.fa (o : MxOp) : Fmt := (Fmt.ofCode o.faC).getD .bf16
/-- The format of B. -/
def MxOp.fb (o : MxOp) : Fmt := (Fmt.ofCode o.fbC).getD .bf16
/-- Whether the mode is s7 or s8. -/
def MxOp.slice (o : MxOp) : Bool := o.pm = 3 || o.pm = 4
/-- Whether the mode is x3f or x3e. -/
def MxOp.split (o : MxOp) : Bool := o.pm = 1 || o.pm = 2
/-- The slice count n, which is also n_e, the entries per output element (R53, R120). -/
def MxOp.ne (o : MxOp) : Nat := match o.pm with | 3 => 7 | 4 => 8 | _ => 1
/-- Rows of the accumulator file that the operation covers (R118, R120). -/
def MxOp.rows (o : MxOp) : Nat := o.m * o.ne
/-- Partial products P (R53). -/
def MxOp.P (o : MxOp) : Nat := match o.pm with | 1 => 6 | 2 => 9 | 3 => 28 | 4 => 36 | _ => 1
/-- The K step length (R107). -/
def MxOp.kappa (o : MxOp) : Nat :=
  if o.split then 64 else if o.slice then 128
  else match max o.fa.bits o.fb.bits with | 8 => 128 | 4 => 256 | _ => 64
/-- K steps. -/
def MxOp.steps (o : MxOp) : Nat := (o.K + o.kappa - 1) / o.kappa
/-- Bytes of a row of A in one K step. -/
def MxOp.segA (o : MxOp) : Nat := o.kappa * o.fa.bits / 8
/-- Bytes of a column of B in one K step. -/
def MxOp.segB (o : MxOp) : Nat := o.kappa * o.fb.bits / 8
/-- w of R112. -/
def MxOp.wU (o : MxOp) : Nat := (o.kappa * o.fa.bits + 1023) / 1024
/-- H of R112. -/
def MxOp.H (o : MxOp) : Nat := (o.n * o.kappa * o.fb.bits + 1023) / 1024
/-- Bytes of n elements of a format. -/
def fmtBytes (f : Fmt) (n : Nat) : Nat := (n * f.bits + 7) / 8

/-! ### The checks of R136, R148 and R548 -/

/-- Reserved fields of R135 that are not zero. -/
def MxOp.reserved (o : MxOp) : Bool :=
  (o.word 0 &&& 0xFC00FC0080800000#64) ≠ 0 || (o.word 1 >>> 24) ≠ 0 ||
  [2, 3, 4, 5, 6].any (fun i => (o.word i &&& 0xFF000000FF800000#64) ≠ 0) || (o.word 7 >>> 23) ≠ 0

/-- Whether rows of `bytes` bytes from `base` at a stride stay in the scratchpad. -/
def fits (base stride rows bytes : Nat) : Bool := bytes = 0 || rows = 0 || base + (rows - 1) * stride + bytes ≤ spSize

/-- An accepted dense pair (R109): 0 none, 1 for the floating-point accumulator modes, 2 for integers. -/
def densePair (a b : Fmt) : Nat :=
  let is16 (f : Fmt) : Bool := f = .bf16 || f = .fp16
  let is8f (f : Fmt) : Bool := f = .e5m2 || f = .e4m3
  let is8i (f : Fmt) : Bool := f = .int8 || f = .uint8
  let low (f : Fmt) : Bool := is8f f || f = .e2m1 || is8i f || f = .int4
  let one (a b : Fmt) : Nat :=
    if is16 a && (a = b || low b) then 1
    else if is8f a && (is8f b || b = .e2m1) then 1
    else if a = .e2m1 && b = .e2m1 then 1
    else if is8i a && (is8i b || b = .int4) then 2
    else if a = .int4 && b = .int4 then 2
    else 0
  if one a b ≠ 0 then one a b else one b a

/-- Operand formats that may carry block scales (R110). -/
def scalable (f : Fmt) : Bool := f = .e5m2 || f = .e4m3 || f = .e2m1 || f = .int8 || f = .int4

/-- Formats and accumulator mode permitted (R53, R56, R109, R110). -/
def MxOp.modeOk (o : MxOp) : Bool :=
  if o.split then
    let ok (f : Fmt) : Bool := f = .fp32 || f = .bf16 || f = .fp16
    ok o.fa && ok o.fb && o.amode = 0 && !o.sca && !o.scb
  else if o.slice then
    let ok (f : Fmt) : Bool := f = .fp64 || f = .fp32
    ok o.fa && ok o.fb && o.amode = 2 && !o.sca && !o.scb
  else
    let scaled := o.sca || o.scb
    (!o.sca || scalable o.fa) && (!o.scb || scalable o.fb) &&
    match densePair o.fa o.fb with
    | 1 => o.amode = 0 || o.amode = 1
    | 2 => if scaled then o.amode = 0 || o.amode = 1 else o.amode = 2
    | _ => false

/-- The conditions of R136 (R55, R148, R505) that name bad, on the fields that the operation uses (R548). -/
def MxOp.bad (o : MxOp) (fx : Bool) : Bool :=
  let al (x : Nat) : Bool := x % 64 = 0
  let lim := match o.pm with | 3 => 18 | 4 => 16 | _ => 128
  o.reserved || 5 ≤ o.pm || (o.slice && !fx) || lim < o.m || 128 < o.ab + o.rows ||
  match o.kind with
  | .mma =>
    9 < o.faC || 9 < o.fbC || o.amode = 3 || !o.modeOk ||
    !(al o.aBase && al o.aStr && al o.bBase && al o.bStr) ||
    (o.sca && !(al o.asBase && al o.asStr)) || (o.scb && !(al o.bsBase && al o.bsStr)) ||
    (o.sp && (o.pm ≠ 0 || o.sh || !fx || o.sca || !al o.dBase || o.fa.bits < o.fb.bits ||
      !(o.fa = .bf16 || o.fa = .fp16 || o.fa = .e5m2 || o.fa = .e4m3 || o.fa = .int8 || o.fa = .uint8))) ||
    (o.sh && (o.pm ≠ 0 || !al o.atStr)) ||
    (if o.sp then !fits o.dBase o.aStr o.m (4 * ((o.K + 63) / 64))
     else if o.sh then !fits (o.aBase + (o.taps - 1) * o.atStr) o.aStr o.m (fmtBytes o.fa o.K)
     else !fits o.aBase o.aStr o.m (fmtBytes o.fa o.K)) ||
    !fits o.bBase o.bStr (if o.sh then o.n + o.taps - 1 else o.n) (fmtBytes o.fb o.K) ||
    (o.sca && !fits o.asBase o.asStr o.m ((o.K + 31) / 32)) ||
    (o.scb && !fits o.bsBase o.bsStr (if o.sh then o.n + o.taps - 1 else o.n) ((o.K + 31) / 32)) ||
    (o.slice && o.opn && !(fits o.asBase 0 1 (2 * o.m) && fits o.bsBase 0 1 (2 * o.n)))
  | .accld =>
    o.amode = 3 || !(al o.aBase && al o.aStr) || !fits o.aBase o.aStr o.rows (16 * o.n) ||
    (o.st && !fits o.auxBase o.n o.rows o.n) ||
    (o.slice && o.opn && !(fits o.asBase 0 1 (2 * o.m) && fits o.bsBase 0 1 (2 * o.n)))
  | .accst =>
    !(al o.aBase && al o.aStr) || !fits o.aBase o.aStr o.rows (16 * o.n) || (o.st && !fits o.auxBase o.n o.rows o.n)

/-- The mode mismatch of R123; ACCST never clashes. -/
def MxOp.clash (o : MxOp) (a : MxArr) : Bool :=
  o.kind ≠ .accst && !o.opn &&
  (o.amode ≠ a.amode.toNat || (o.slice && a.sliceN.toNat ≠ o.ne))

/-! ### Placing the reads and passes in cycles (R112, R116, R118, R130, R133, R153) -/

/-- Rank of an access within slot 1 (R310): arrays in turn, then the paths in the listed order; passes and ends come after. -/
def mxRank (arr path : Nat) : Nat := 10 * arr + path

/-- The K steps of R116: step, first held-path cycle, first broadcast; and hr, b, the step count and the broadcasts after. -/
def mxSteps (h pm : Nat) : Nat → Nat → Nat → Nat → Nat → List Nat → List (Nat × Nat × Nat) × Nat × Nat × Nat × List Nat
  | 0, _, hr, b, g, sts => ([], hr, b, g, sts)
  | k + 1, i, hr, b, g, sts =>
    let hr := if 4 ≤ g then max hr (sts.getD 2 0) else hr
    let st := max b (hr + h + 3)
    let (l, r) := mxSteps h pm k (i + 1) (hr + h) (st + pm) (g + 1) (st :: sts.take 3)
    ((i, hr, st) :: l, r)

/-- The held-path cycle, counted from the step's first, that first loads column j's segment. -/
def MxOp.colCycle (o : MxOp) (j : Nat) : Nat := j * o.segB / 128

/-- The held-path reads of a K step that start in cycle `hs`, with the scale bytes of B (R111, R310). -/
def MxOp.heldTasks (o : MxOp) (arr step hs : Nat) : List (Nat × Nat × Act) :=
  (List.range o.H).map (fun i => (hs + i, mxRank arr 8, Act.mxHeld arr step i)) ++
  (if o.scb then (List.range o.n).map (fun j => (hs + o.colCycle j, mxRank arr 2, Act.mxScaleB arr step j)) else [])

/-- The reads and passes of a K step whose first broadcast is in cycle `st` (R310). -/
def MxOp.stepTasks (o : MxOp) (arr step st : Nat) : List (Nat × Nat × Act) :=
  ((List.range o.m).map (fun i =>
    (List.range o.wU).map (fun u => (st + i - 1 - o.wU + u, mxRank arr 6, Act.mxStream arr step i u)) ++
    (if o.sca then [(st + i - 2, mxRank arr 1, Act.mxScaleA arr step i)] else []))).flatten ++
  ((List.range o.P).map (fun p =>
    (List.range o.m).map (fun i => (st + p * o.m + i, 100 + arr, Act.mxPass arr step p i)))).flatten

/-- The reads and passes of one shift-hold K step whose fill starts in cycle `f` (R132, R133; log entry 20). -/
def MxOp.shiftTasks (o : MxOp) (arr step f : Nat) : List (Nat × Nat × Act) :=
  let T := o.taps
  let x0 := f + o.n + 3
  (List.range o.n).map (fun i => (f + i, mxRank arr 8, Act.mxPos arr step (o.n + T - 2 - i))) ++
  ((List.range T).map (fun d =>
    let tau := T - 1 - d
    let x := x0 + d * o.m
    (if d = 0 then [] else [(x - 4, mxRank arr 8, Act.mxPos arr step tau)]) ++
    ((List.range o.m).map (fun i =>
      (List.range o.wU).map (fun u => (x + i - 1 - o.wU + u, mxRank arr 6, Act.mxTapRow arr step tau i u)) ++
      (if o.sca then [(x + i - 2, mxRank arr 1, Act.mxScaleA arr step i)] else []) ++
      [(x + i, 100 + arr, Act.mxTap arr step tau i)])).flatten)).flatten

/-- The expected writes of an operation's block set to known cycles (checked mode). -/
def Cyc.reexpect (c : Cyc) (k : Task) (r : Region) (first last : Nat) : Cyc :=
  let c := { c with t := { c.t with exps := c.t.exps.filter (fun e => !(e.seq = k.seq && e.slot = k.slot && e.reg = r)) } }
  c.expect k r first last

/-- The accumulator entries of an operation's block, as a region. -/
def MxOp.region (o : MxOp) (arr : Nat) : Region := .acc arr (32 * o.ab) (32 * (o.ab + o.rows) - 1)

/-- The schedule of an operation that takes `c0` as the c of R116. -/
def Cyc.schedule (c : Cyc) (k : Task) (arr : Nat) (o : MxOp) (c0 : Nat) : Cyc :=
  let a := marr c.t arr
  match o.kind with
  | .mma =>
    let hr := max a.hr (c0 + 3)
    let b0 := max a.b (c0 + 6)
    let exp := if o.slice && o.opn then [(b0 - 2, mxRank arr 3, Act.mxExp arr)] else []
    if o.K = 0 then
      let r := if o.opn then o.rows else 0
      let b := b0 + r
      let c := { c with t := setMarr c.t arr { a with b := b, lastVis := max a.lastVis (b + 10) } }
      let c := c.reexpect k (o.region arr) (b0 + 10) (b + 9)
      c.taskList k (exp ++ (List.range r).map (fun q => (b0 + q, 100 + arr, Act.mxZero arr q)) ++ [(b - 1, 200 + arr, Act.mxEnd arr)])
    else if o.sp then
      let s0 := min 4 o.steps
      let f := c0 + 3
      let fills := (List.range s0).map (fun i => o.heldTasks arr i (f + i * o.H))
      let fg := f + s0 * o.H + 3
      c.taskList k (fills.flatten ++ [(fg - 2, mxRank arr 4, Act.mxSpRow arr 0 0 fg)])
    else if o.sh then
      let f0 := max hr (b0 + (o.wU - 1) * o.m - (o.n + 3))
      let per := o.n + o.taps * o.m
      let b := f0 + o.n + 3 + (o.steps - 1) * per + o.taps * o.m
      let c := { c with t := setMarr c.t arr { a with b := b, hr := b, lastVis := max a.lastVis (b + 10) } }
      let c := c.reexpect k (o.region arr) (f0 + o.n + 3 + 10) (b + 9)
      c.taskList k (((List.range o.steps).map (fun s => o.shiftTasks arr s (f0 + s * per))).flatten ++
        [(b - 1, 200 + arr, Act.mxEnd arr)])
    else
      let (l, hr', b', g', sts') := mxSteps o.H (o.P * o.m) o.steps 0 hr (b0 + (o.wU - 1) * o.m) a.gidx a.sts
      let c := { c with t := setMarr c.t arr { a with hr := hr', b := b', gidx := g', sts := sts', lastVis := max a.lastVis (b' + 10) } }
      let first := match l with | x :: _ => x.2.2 + 10 | [] => b' + 10
      let c := c.reexpect k (o.region arr) first (b' + 9)
      c.taskList k (exp ++ (l.map (fun x => o.heldTasks arr x.1 x.2.1 ++ o.stepTasks arr x.1 x.2.2)).flatten ++
        [(b' - 1, 200 + arr, Act.mxEnd arr)])
  | _ =>
    let c8 := (o.n + 7) / 8
    let e := c0 + 10 + o.rows * c8
    let cells := ((List.range o.rows).map (fun q => (List.range c8).map (fun i => (q, i)))).flatten
    let at_ (x : Nat × Nat) := c0 + 10 + x.1 * c8 + x.2
    let c := if o.kind = .accld then c.reexpect k (o.region arr) (c0 + 10) (e - 1)
      else (List.range o.rows).foldl (fun c q =>
        c.expect k (.mem (o.aBase + q * o.aStr) (o.aBase + q * o.aStr + 16 * o.n - 1)) (at_ (q, 0)) (at_ (q, c8 - 1))) c
    c.taskList k ((if o.kind = .accld && o.slice && o.opn then [(c0 + 4, mxRank arr 3, Act.mxExp arr)] else []) ++
      cells.map (fun x => (at_ x, mxRank arr 7, Act.mxAccRow arr x.1 x.2)) ++
      (if o.st then cells.map (fun x => (at_ x, mxRank arr 5, Act.mxStatRow arr x.1 x.2)) else []) ++
      [(e - 1, 200 + arr, Act.mxEnd arr)])

/-- An operation becomes the running one: an opening MMA or ACCLD sets the file mode and slice count (R121, R122, R125). -/
def MxOp.startOn (o : MxOp) (a : MxArr) : MxArr :=
  let a := { a with run := some o }
  if o.opn && o.kind ≠ .accst then
    { a with amode := BitVec.ofNat 2 o.amode, sliceN := if o.slice then BitVec.ofNat 4 o.ne else 0 }
  else a

/-- Whether an MMA pending behind a running MMA is placed in cycles at its issue (R116). -/
def earlyPair (run o : MxOp) : Bool := run.kind = .mma && !run.sp && o.kind = .mma && !o.sp

/-- The flag bits of TMX_STATn: off 16, clash 8, bad 4, drop 2 (R139). -/
def Cyc.mxFlag (c : Cyc) (arr : Nat) (f : BitVec 5) (slot pc : Nat) : Cyc :=
  let a := marr c.t arr
  let c := { c with t := setMarr c.t arr { a with stat := a.stat ||| f } }
  (c.flags fInv 0).event (if f = 2 then 4 else 7) slot pc

/-- The descriptor is read and checked; an accepted operation starts or becomes pending (R115, R134, R136). -/
def Cyc.mxDesc (c : Cyc) (k : Task) (arr : Nat) (kind : MxKind) (off : Nat) (ck : List CheckFail) : Cyc :=
  let (c, d) := c.read k off 64
  let ws := (List.range 8).map (fun i => BitVec.ofNat 64 (leNatP ((d.drop (8 * i)).take 8)))
  let o : MxOp := ⟨k.seq, k.pc, kind, ws, ck⟩
  let a := marr c.t arr
  if o.bad c.fx then c.mxFlag arr 4 k.slot k.pc
  else if o.clash a then c.mxFlag arr 8 k.slot k.pc
  else
    let c := if kind = .accst then c else c.expect k (o.region arr) (2 ^ 62) (2 ^ 62)
    match a.run with
    | none =>
      let c0 := if kind = .mma then c.t.cyc else max c.t.cyc a.lastVis
      ({ c with t := setMarr c.t arr (o.startOn a) }).schedule k arr o c0
    | some r =>
      let c := { c with t := setMarr c.t arr { a with pend := some o } }
      if earlyPair r o then c.schedule k arr o c.t.cyc else c

/-- The running operation ends; a pending one starts (R115, R116). -/
def Cyc.mxEnd (c : Cyc) (k : Task) (arr : Nat) : Cyc :=
  let a := marr c.t arr
  match a.run with
  | none => c
  | some r =>
    let c := { c with t := dropCaps c.t k.seq 1 }
    match a.pend with
    | none => { c with t := setMarr c.t arr { a with run := none } }
    | some p =>
      let c := { c with t := setMarr c.t arr (p.startOn { a with pend := none }) }
      let k' : Task := { k with seq := p.seq, pc := p.pc }
      if earlyPair r p then c
      else if p.kind = .mma then c.schedule k' arr p (if p.sp then c.t.cyc + 1 - 3 else c.t.cyc + 1)
      else c.schedule k' arr p (if r.kind = .mma then max (c.t.cyc + 1) a.lastVis else c.t.cyc + 1)

/-- The operation of an array that a task belongs to. -/
def opOfTask (a : MxArr) (seq : Nat) : Option MxOp :=
  match a.run with
  | some r => if r.seq = seq then some r else match a.pend with | some p => if p.seq = seq then some p else none | none => none
  | none => none

/-! ### Operand reads -/

/-- The bytes of one operand row that are read: none of a 64-byte unit wholly past the last element (R128). Offsets are counted
from the row's start; the answer is the number of bytes to read, and the rest is taken as zero. -/
def readable (f : Fmt) (K lo len : Nat) : Nat :=
  let lim := (fmtBytes f K + 63) / 64 * 64
  min len (lim - lo)

/-- A read of up to `len` bytes at a row's place `lo`, padded with zeros past the last unit of the row. -/
def Cyc.readPad (c : Cyc) (k : Task) (f : Fmt) (K base lo len : Nat) : Cyc × List PByte :=
  let n := readable f K lo len
  let (c, d) := c.read k (base + lo) (min n (spSize - (base + lo)))
  (c, d ++ List.replicate (len - d.length) (0, false))

/-- Stream path: unit u of row i in a K step. -/
def Cyc.mxStream (c : Cyc) (k : Task) (o : MxOp) (base step row u : Nat) (tag idx : Nat) : Cyc :=
  let lo := step * o.segA + 128 * u
  let (c, d) := c.readPad k o.fa o.K (base + row * o.aStr) lo (min 128 (o.segA - 128 * u))
  c.cap k tag (idx * 16 + u) d

/-- The parts of columns that held-path cycle i of a step loads: column, place in its segment, bytes. -/
def MxOp.heldParts (o : MxOp) (i : Nat) : List (Nat × Nat × Nat) :=
  (List.range o.n).filterMap (fun j =>
    let lo := max (128 * i) (j * o.segB)
    let hi := min (128 * i + 128) ((j + 1) * o.segB)
    if lo < hi then some (j, lo - j * o.segB, hi - lo) else none)

/-- Held path: cycle i of a K step. -/
def Cyc.mxHeld (c : Cyc) (k : Task) (o : MxOp) (step i : Nat) : Cyc :=
  let (c, d) := (o.heldParts i).foldl (fun (x : Cyc × List PByte) p =>
    let (c, d) := x.1.readPad k o.fb o.K (o.bBase + p.1 * o.bStr) (step * o.segB + p.2.1) p.2.2
    (c, x.2 ++ d)) (c, [])
  c.cap k 1 (step * 4096 + i) d

/-- Scale bytes of a row or column for one K step: κ/32 of them, no more than the row has. -/
def Cyc.mxScale (c : Cyc) (k : Task) (o : MxOp) (base str i step tag : Nat) : Cyc :=
  let per := o.kappa / 32
  let cnt := min per ((o.K + 31) / 32 - step * per)
  let (c, d) := c.read k (base + i * str + step * per) cnt
  c.cap k tag (step * 4096 + i) d

/-- Exponent vectors E and F latched (R67, R68, R122): values clamped to −1,074 to 1,023, with the poison of their words. -/
def expVals : Nat → List PByte → List (Int × Bool)
  | 0, _ => []
  | n + 1, l =>
    let v := (BitVec.ofNat 16 (leNatP (l.take 2))).toInt
    (max (-1074) (min 1023 v), anyPois (l.take 2)) :: expVals n (l.drop 2)

/-- The exponent vectors are read, E then F, in one cycle (R122). -/
def Cyc.mxExp (c : Cyc) (k : Task) (arr : Nat) (o : MxOp) : Cyc :=
  let (c, e) := c.read k o.asBase (2 * o.m)
  let (c, f) := c.read k o.bsBase (2 * o.n)
  { c with t := setMarr c.t arr { marr c.t arr with eVec := expVals o.m e, fVec := expVals o.n f } }

/-! ### Products and sums -/

/-- Element i of packed elements. -/
def packedElem (f : Fmt) (d : List PByte) (i : Nat) : Nat × Bool :=
  let n := f.bits
  if n = 4 then
    let b := d.getD (i / 2) (0, false)
    (b.1.toNat / 2 ^ (4 * (i % 2)) % 16, b.2)
  else
    let l := (d.drop (i * (n / 8))).take (n / 8)
    (leNatP l, anyPois l)

/-- The elements of a row of A in a K step, the masked ones left out (R128): their value with block scale, their poison, and
the flags of decoding the scale. -/
def MxOp.elems (o : MxOp) (f : Fmt) (d sc : List PByte) (scaled : Bool) (step : Nat) : List (FVal × Bool × Flags) :=
  (List.range (min o.kappa (o.K - step * o.kappa))).map (fun i =>
    let (w, p) := packedElem f d i
    let v := decAny f w
    if scaled then
      let s := sc.getD (i / 32) (0, false)
      let (x, fl) := scaleVal v s.1.toNat
      (x, p || s.2, fl)
    else (v, p, 0))

/-- The exact sum S of one DPU cycle by R41, from operand pairs. -/
def dpuSum (l : List (FVal × FVal)) : FVal × Flags :=
  let ps := l.map (fun x => fmul x.1 x.2)
  if l.any (fun x => x.1 = .nan || x.2 = .nan) then (.nan, fNanIn)
  else if ps.any (fun p => p.1 = .nan) then (.nan, fInv)
  else fsum false (ps.map (·.1))

/-- A + S with one rounding into an entry by the file mode (R20, R40, R121). -/
def accAdd (amode : Nat) (sat : Bool) (a : BitVec 80) (s : FVal) : BitVec 80 × Flags :=
  let av := if amode = 1 then decF .fp32 (a.toNat % 2 ^ 32) else decW80 a.toNat
  let (x, f1) := fadd false av s
  let (w, f2) := if amode = 1 then encF .fp32 0 sat 0 x else encW80 x
  (BitVec.ofNat 80 w, f1 ||| f2)

/-- The piece numbers of A and B in each pass of x3f and x3e: 0 hi, 1 mid, 2 lo (R60). -/
def splitPass (pm p : Nat) : Nat × Nat :=
  let f3 := [(0, 2), (2, 0), (1, 1), (0, 1), (1, 0), (0, 0)]
  let e3 := [(2, 2), (1, 2), (2, 1), (0, 2), (2, 0), (1, 1), (0, 1), (1, 0), (0, 0)]
  if pm = 1 then f3.getD p (0, 0) else e3.getD p (0, 0)

/-- A piece of an operand. -/
def pieceOf (v : FVal) (i : Nat) : FVal :=
  let (h, m, l, _) := splitPieces v
  match i with | 0 => h | 1 => m | _ => l

/-- The operand pair that a piece product multiplies (R62): non-finite operands act in the (hi, hi) pass only, and there with
their own values. -/
def splitPair (pa pb : Nat) (a b : FVal) : FVal × FVal :=
  let finite (v : FVal) : Bool := match v with | .fin _ _ _ => true | _ => false
  if finite a && finite b then (pieceOf a pa, pieceOf b pb)
  else if pa = 0 && pb = 0 then (a, b)
  else (.fin false 0 0, .fin false 0 0)

/-- The slice pairs (t, u) in pass order: u outer, t inner, t + u ≤ n − 1 (R73). -/
def slicePass (n p : Nat) : Nat × Nat :=
  (((List.range n).map (fun u => (List.range (n - u)).map (fun t => (t, u)))).flatten).getD p (0, 0)

/-- The class tag after one element pair (R75): codes 0 none, 1 +∞, 2 −∞, 3 NaN. -/
def tagStep (tag : BitVec 2) (a b : FVal) : BitVec 2 × Flags :=
  let finite (v : FVal) : Bool := match v with | .fin _ _ _ => true | _ => false
  if finite a && finite b then (tag, 0)
  else if a = .nan || b = .nan then (3, fNanIn)
  else if a.isZero || b.isZero then (3, fInv)
  else
    let c : BitVec 2 := if a.neg? != b.neg? then 2 else 1
    if tag = 0 || tag = c then (c, 0) else if tag = 3 then (3, 0) else (3, fInv)

/-- The class tag over all element pairs of a K step. -/
def tagFold (tag : BitVec 2) : List (FVal × FVal) → BitVec 2 × Flags
  | [] => (tag, 0)
  | x :: xs =>
    let (t, f) := tagStep tag x.1 x.2
    let (t', f') := tagFold t xs
    (t', f ||| f')

/-- Failed checks of an operation at an accumulator row (R138): whether column j is poisoned. -/
def ckPois (ck : List CheckFail) (row j : Nat) : Bool :=
  ck.any (fun x => x.unit = 0 && x.row.val = row && (x.stage.val < 2 || x.lane.val % 32 = j))

/-- The TMX_RESERR record of a failed check. -/
def mxCkRec (x : CheckFail) : W32 :=
  BitVec.ofNat 32 (x.arr.val * 2 ^ 28 + x.stage.val * 2 ^ 25 + (x.lane.val % 32) * 2 ^ 20 + x.row.val * 2 ^ 13)

/-- The records of the failed checks of an accumulator row, when its first pass runs. -/
def Cyc.mxChecks (c : Cyc) (k : Task) (o : MxOp) (row at_ : Nat) : Cyc :=
  o.ck.foldl (fun c x => if x.unit = 0 && x.row.val = row then c.ret k at_ (.check 0 (mxCkRec x)) else c) c

/-- The row address of output row i, diagonal d (R120). -/
def MxOp.entry (o : MxOp) (i d j : Nat) : Nat := (o.ab + i * o.ne + d) * 32 + j

/-- One entry's new contents put into the accumulate stage's view at once and into the read port's view at the end of cycle
x + 10 (R113, R114). -/
def Cyc.accPut (c : Cyc) (k : Task) (arr idx : Nat) (e : AccE) (fl : Flags) : Cyc :=
  let a := marr c.t arr
  let c := { c with t := setMarr c.t arr { a with fwd := tset AccE.zero a.fwd idx e } }
  (c.ret k (c.t.cyc + 10) (.acc arr idx e)).retFlags k (c.t.cyc + 10) fl 0

/-- The segment of column j in a K step, from the held path's captures. -/
def MxOp.colBytes (o : MxOp) (t : Tile) (k : Task) (step j : Nat) : List PByte :=
  let lo := j * o.segB
  let i0 := lo / 128
  let i1 := (lo + o.segB - 1) / 128
  let l := ((rangeFrom i0 (i1 + 1 - i0)).map (fun i => capOf t k.seq 1 1 (step * 4096 + i))).flatten
  (l.drop (lo - 128 * i0)).take o.segB

/-- The segment of a row of A from the stream path's captures. -/
def MxOp.rowBytes (o : MxOp) (t : Tile) (k : Task) (tag idx : Nat) : List PByte :=
  ((List.range o.wU).map (fun u => capOf t k.seq 1 tag (idx * 16 + u))).flatten

/-- One DPU cycle of a dense issue: entry, operand pairs with their poison. -/
def Cyc.dpuAdd (c : Cyc) (k : Task) (arr : Nat) (o : MxOp) (fresh : Bool) (row j : Nat)
    (ps : List ((FVal × Bool × Flags) × (FVal × Bool × Flags))) (extraPois : Bool) : Cyc :=
  let idx := o.entry row 0 j
  let a0 := if fresh then AccE.zero else tget AccE.zero (marr c.t arr).fwd idx
  let pois := a0.pois || extraPois || ps.any (fun x => x.1.2.1 || x.2.2.1)
  let scf := fUnion (ps.map (fun x => x.1.2.2 ||| x.2.2.2))
  if o.amode = 2 then
    let s : Int := ps.foldl (fun s x => s + x.1.1.scaled 0 * x.2.1.scaled 0) 0
    let (w, f) := encW80I o.sw (decW80I a0.val.toNat + s)
    c.accPut k arr idx { a0 with val := BitVec.ofNat 80 w, pois := pois } f
  else
    let (s, f1) := dpuSum (ps.map (fun x => (x.1.1, x.2.1)))
    let (w, f2) := accAdd o.amode o.sat a0.val s
    c.accPut k arr idx { a0 with val := w, pois := pois } (f1 ||| f2 ||| scf)

/-- A pass of a K step over one row of the block (R40, R60, R73, R106). -/
def Cyc.mxPass (c : Cyc) (k : Task) (arr : Nat) (o : MxOp) (step pass row : Nat) : Cyc :=
  let ra := o.elems o.fa (o.rowBytes c.t k 0 (step * 128 + row)) (capOf c.t k.seq 1 2 (step * 4096 + row)) o.sca step
  let first := step = 0 && pass = 0
  let c := if first then c.mxChecks k o (o.ab + row * o.ne) (c.t.cyc + 8) else c
  (List.range o.n).foldl (fun c j =>
    let cb := o.elems o.fb (o.colBytes c.t k step j) (capOf c.t k.seq 1 3 (step * 4096 + j)) o.scb step
    let ps := ra.zip cb
    let ckp := first && ckPois o.ck (o.ab + row * o.ne) j
    let pois := ps.any (fun x => x.1.2.1 || x.2.2.1)
    if o.split then
      let (pa, pb) := splitPass o.pm pass
      let idx := o.entry row 0 j
      let a0 := if o.opn && first then AccE.zero else tget AccE.zero (marr c.t arr).fwd idx
      let (s, f1) := dpuSum (ps.map (fun x => splitPair pa pb x.1.1 x.2.1))
      let (w, f2) := accAdd 0 false a0.val s
      let f3 := if pass = 0 then fUnion (ps.map (fun x => (splitPieces x.1.1).2.2.2 ||| (splitPieces x.2.1).2.2.2)) else 0
      c.accPut k arr idx { a0 with val := w, pois := a0.pois || pois || ckp } (f1 ||| f2 ||| f3)
    else if o.slice then
      let n := o.ne
      let (t, u) := slicePass n pass
      let a := marr c.t arr
      let (E, ep) := a.eVec.getD row (-1074, false)
      let (F, fp) := a.fVec.getD j (-1074, false)
      let idx := o.entry row (t + u) j
      let fresh := o.opn && step = 0 && u = 0
      let a0 := if fresh then AccE.zero else tget AccE.zero a.fwd idx
      let ms := ps.map (fun x => (sliceInt n E x.1.1, sliceInt n F x.2.1))
      let s : Int := ms.foldl (fun s x => s + sliceAt n x.1.1 t * sliceAt n x.2.1 u) 0
      let (w, f) := encW80I o.sw (decW80I a0.val.toNat + s)
      let (tag, f2) := if pass = 0 then tagFold a0.tag (ps.map (fun x => (x.1.1, x.2.1))) else (a0.tag, 0)
      let f3 := if pass = 0 then fUnion (ms.map (fun x => x.1.2 ||| x.2.2)) else 0
      c.accPut k arr idx { val := BitVec.ofNat 80 w, tag := tag, pois := a0.pois || pois || ckp || (fresh && (ep || fp)) } (f ||| f2 ||| f3)
    else c.dpuAdd k arr o (o.opn && first) row j ps ckp) c

/-- A row of an opening issue with K = 0 is written with +0 (R130). -/
def Cyc.mxZero (c : Cyc) (k : Task) (arr : Nat) (o : MxOp) (q : Nat) : Cyc :=
  let a := marr c.t arr
  (List.range o.n).foldl (fun c j =>
    let p := o.slice && ((a.eVec.getD (q / o.ne) (0, false)).2 || (a.fVec.getD j (0, false)).2)
    c.accPut k arr ((o.ab + q) * 32 + j) { pois := p } 0) c

/-! ### Shift-hold (R132) -/

/-- The held path loads one position for a K step of channels. -/
def Cyc.mxPos (c : Cyc) (k : Task) (o : MxOp) (step q : Nat) : Cyc :=
  let (c, d) := c.readPad k o.fb o.K (o.bBase + q * o.bStr) (step * o.segB) o.segB
  let c := if o.scb then c.mxScale k o o.bsBase o.bsStr q step 3 else c
  c.cap k 4 (step * 2048 + q) d

/-- Row i of tap τ meets position p0 + j + τ in every DPU j. -/
def Cyc.mxTap (c : Cyc) (k : Task) (arr : Nat) (o : MxOp) (step tau row : Nat) : Cyc :=
  let ra := o.elems o.fa (o.rowBytes c.t k 0 ((step * 1024 + tau) * 128 + row)) (capOf c.t k.seq 1 2 (step * 4096 + row)) o.sca step
  let first := step = 0 && tau + 1 = o.taps
  let c := if first then c.mxChecks k o (o.ab + row) (c.t.cyc + 8) else c
  (List.range o.n).foldl (fun c j =>
    let cb := o.elems o.fb (capOf c.t k.seq 1 4 (step * 2048 + (j + tau))) (capOf c.t k.seq 1 3 (step * 4096 + (j + tau))) o.scb step
    c.dpuAdd k arr o (o.opn && first) row j (ra.zip cb) (first && ckPois o.ck (o.ab + row) j)) c

/-! ### Sparse issues (R149 to R155) -/

/-- The number of set bits among the low n of a bitmap. -/
def popc : Nat → Nat → Nat
  | 0, _ => 0
  | n + 1, b => b % 2 + popc n (b / 2)

/-- The elements of a drizzle block from its bytes: presence, bits and poison of each of its 64 places (R142, R143). -/
def drizzleElems (f : Fmt) (dense : Bool) (bytes : List PByte) : List (Bool × Nat × Bool) :=
  let zeroPat (w : Nat) : Bool := if f.isFloat then w % 2 ^ (f.bits - 1) = 0 else w = 0
  if dense then (List.range 64).map (fun i => let (w, p) := packedElem f bytes i; (!zeroPat w, w, p))
  else
    let bm := leNatP (bytes.take 8)
    let vals := bytes.drop 8
    (List.range 64).map (fun i =>
      if bm / 2 ^ i % 2 = 1 then let (w, p) := packedElem f vals (popc i bm); (true, w, p) else (false, 0, false))

/-- A drizzle block read through port A: its entry, then its bitmap, then its values; `none` when it cannot be read (R155,
R162): a byte past the scratchpad, or a poisoned directory or bitmap word. -/
def Cyc.readBlock (c : Cyc) (k : Task) (f : Fmt) (base : Nat) (ent : Nat) : Cyc × Option (List (Bool × Nat × Bool)) :=
  let start := base + 8 * (ent % 2 ^ 31)
  if 2 ^ 31 ≤ ent then
    let len := 8 * f.bits
    if spSize < start + len then (c, none)
    else
      let (c, d) := c.read k start len
      (c, some (drizzleElems f true d))
  else if spSize < start + 8 then (c, none)
  else
    let bm := leNatP (spRead c.t start 8)
    let len := 8 + 8 * ((popc 64 bm * f.bits + 63) / 64)
    if spSize < start + len then (c, none)
    else
      let (c, d) := c.read k start len
      if anyPois (d.take 8) then (c, none) else (c, some (drizzleElems f false d))

/-- The present elements of a window in segment q (R149). -/
def segCount (kappa q : Nat) (es : List (Bool × Nat × Bool)) : Nat :=
  (((es.drop (q * (kappa / 2))).take (kappa / 2)).filter (·.1)).length

/-- g of R150. -/
def gatherCount (kappa : Nat) (es : List (Bool × Nat × Bool)) : Nat :=
  (List.range 8).foldl (fun g q => max g ((segCount kappa q es + kappa / 8 - 1) / (kappa / 8))) 1

/-- The rank of each present element within its segment: place, rank. -/
def ranked (kappa : Nat) (es : List (Bool × Nat × Bool)) : List (Nat × Nat) :=
  ((List.range 8).map (fun q =>
    let ps := (List.range (kappa / 2)).filter (fun i => (es.getD (q * (kappa / 2) + i) (false, 0, false)).1)
    (List.range ps.length).map (fun r => (q * (kappa / 2) + ps.getD r 0, r)))).flatten

/-- The elements of a window as captured bytes: for each place a presence byte and eight value bytes, poison on them. -/
def winCap (es : List (Bool × Nat × Bool)) : List PByte :=
  (es.map (fun e => ((if e.1 then (1 : Byte) else 0), e.2.2) :: (leBytes 8 e.2.1).map (·, e.2.2))).flatten

/-- Place i of captured window elements. -/
def winElem (d : List PByte) (i : Nat) : Nat × Bool :=
  let l := (d.drop (9 * i)).take 9
  (leNatP (l.drop 1), anyPois l)

/-- The directory entries and blocks of a row in a window are read (R145 to R147, R156); the row's gather cycles and the next row or window follow
(R150, R153, R155). -/
def Cyc.mxSpRow (c : Cyc) (k : Task) (arr : Nat) (o : MxOp) (win row fg : Nat) : Cyc :=
  let kap := o.kappa
  let e0 := 4 * kap * win
  let nEl := min (4 * kap) (o.K - e0)
  let nb := (nEl + 63) / 64
  let (c, dir) := c.read k (o.dBase + row * o.aStr + 4 * (e0 / 64)) (4 * nb)
  let dirBad := anyPois dir
  let (c, blocks, bad) := (List.range nb).foldl (fun (x : Cyc × List (Bool × Nat × Bool) × Bool) b =>
    let (c, r) := x.1.readBlock k o.fa o.aBase (leNatP ((dir.drop (4 * b)).take 4))
    match r with
    | some l => (c, x.2.1 ++ l, x.2.2)
    | none => (c, x.2.1 ++ List.replicate 64 (false, 0, false), true)) (c, [], dirBad)
  let es := (blocks.take nEl).map (fun e => if bad then (false, 0, false) else e)
  let g := if bad then 1 else gatherCount kap es
  let c := if bad then c.flags fInv 0 else c
  let c := c.cap k 5 (win * 128 + row) (winCap es)
  let c := c.cap k 7 (win * 128 + row) [(if bad || es.any (·.2.2) then 1 else 0, false)]
  let c := c.taskList k ((List.range g).map (fun j => (fg + j, 100 + arr, Act.mxSpPass arr win row j)))
  let nx := fg + g
  if row + 1 < o.m then c.task k (nx - 2) (mxRank arr 4) (.mxSpRow arr win (row + 1) nx)
  else if 4 * (win + 1) < o.steps then
    let s := min 4 (o.steps - 4 * (win + 1))
    let fills := (List.range s).map (fun i => o.heldTasks arr (4 * (win + 1) + i) (nx + i * o.H))
    let fg' := nx + s * o.H + 3
    c.taskList k (fills.flatten ++ [(fg' - 2, mxRank arr 4, Act.mxSpRow arr (win + 1) 0 fg')])
  else
    let a := marr c.t arr
    let c := { c with t := setMarr c.t arr { a with b := nx, hr := nx, lastVis := max a.lastVis (nx + 10) } }
    (c.reexpect k (o.region arr) (nx + 9) (nx + 9)).task k (nx - 1) (200 + arr) (.mxEnd arr)

/-- One gather cycle (R151): the present elements of rank j κ/8 to (j + 1) κ/8 − 1 in each segment. -/
def Cyc.mxSpPass (c : Cyc) (k : Task) (arr : Nat) (o : MxOp) (win row j : Nat) : Cyc :=
  let kap := o.kappa
  let d := capOf c.t k.seq 1 5 (win * 128 + row)
  let bad := (capOf c.t k.seq 1 7 (win * 128 + row)).any (fun x => x.1 = 1)
  let n := d.length / 9
  let es : List (Bool × Nat × Bool) := (List.range n).map (fun i => (decide (((d.drop (9 * i)).headD (0, false)).1 = 1), 0, false))
  let sel := (ranked kap es).filter (fun x => j * (kap / 8) ≤ x.2 && x.2 < (j + 1) * (kap / 8))
  let first := win = 0 && j = 0
  let c := if first then c.mxChecks k o (o.ab + row) (c.t.cyc + 8) else c
  (List.range o.n).foldl (fun c col =>
    let ps := sel.map (fun x =>
      let (w, p) := winElem d x.1
      let kk := 4 * kap * win + x.1
      let cb := o.elems o.fb (o.colBytes c.t k (kk / kap) col) (capOf c.t k.seq 1 3 (kk / kap * 4096 + col)) o.scb (kk / kap)
      ((decAny o.fa w, p, (0 : Flags)), cb.getD (kk % kap) (.fin false 0 0, false, 0)))
    c.dpuAdd k arr o (o.opn && first) row col ps (bad || (first && ckPois o.ck (o.ab + row) col))) c

/-! ### ACCLD and ACCST (R118, R125) -/

/-- An entry from its 16-byte image in a file mode, the encodings of R18 normalised. -/
def entryOfImage (amode : Nat) (d : List PByte) : BitVec 80 :=
  let w := leNatP (d.take 10)
  match amode with
  | 1 => BitVec.ofNat 80 (w % 2 ^ 32)
  | 2 => BitVec.ofNat 80 (w % 2 ^ 64)
  | _ => BitVec.ofNat 80 (encW80 (decW80 w)).1

/-- Columns of cycle i of an image row. -/
def MxOp.cols (o : MxOp) (i : Nat) : Nat := min 8 (o.n - 8 * i)

/-- The status bytes of cycle i of row q move on the scale path. -/
def Cyc.mxStatRow (c : Cyc) (k : Task) (arr : Nat) (o : MxOp) (q i : Nat) : Cyc :=
  let off := o.auxBase + q * o.n + 8 * i
  if o.kind = .accst then
    let a := marr c.t arr
    c.write k off ((List.range (o.cols i)).map (fun x =>
      let e := tget AccE.zero a.acc ((o.ab + q) * 32 + 8 * i + x)
      (BitVec.ofNat 8 (e.tag.toNat + (if e.pois then 4 else 0)), false)))
  else
    let (c, d) := c.read k off (o.cols i)
    c.cap k 9 (q * 4 + i) d

/-- The images of cycle i of row q move on the stream path. -/
def Cyc.mxAccRow (c : Cyc) (k : Task) (arr : Nat) (o : MxOp) (q i : Nat) : Cyc :=
  let off := o.aBase + q * o.aStr + 128 * i
  let base := (o.ab + q) * 32 + 8 * i
  if o.kind = .accst then
    let a := marr c.t arr
    let c := c.order k (.acc arr base (base + o.cols i - 1))
    c.write k off (((List.range (o.cols i)).map (fun x =>
      let e := tget AccE.zero a.acc (base + x)
      (leBytes 16 e.val.toNat).map (·, e.pois))).flatten)
  else
    let st := capOf c.t k.seq 1 9 (q * 4 + i)
    let (c, d) := c.read k off (16 * o.cols i)
    let mode := (marr c.t arr).amode.toNat
    (List.range (o.cols i)).foldl (fun c x =>
      let im := (d.drop (16 * x)).take 16
      let s := st.getD x (0, false)
      let tag : BitVec 2 := if o.st && !s.2 then s.1.truncate 2 else 0
      let p := anyPois im || (o.st && (s.2 || s.1[2]))
      let e : AccE := ⟨entryOfImage mode im, tag, p⟩
      let a := marr c.t arr
      let c := { c with t := setMarr c.t arr { a with fwd := tset AccE.zero a.fwd (base + x) e } }
      c.ret k (c.t.cyc + ((o.n + 7) / 8 - 1 - i)) (.acc arr (base + x) e)) c

/-! ### The matrix slot -/

/-- A matrix-slot operation at issue (R115, R134, R136). -/
def Cyc.mxIssue (c : Cyc) (seq pc : Nat) (kind : MxKind) (f : MxF) (ck : List CheckFail) : Cyc :=
  let arr := f.arr.val
  let a := marr c.t arr
  let off := (scalarOf c.t f.sr.toNat).toNat % 2 ^ 23
  let k : Task := ⟨c.t.cyc, 1, 0, seq, pc, .mxEnd arr⟩
  let c := c.order k (.sreg f.sr.toNat)
  if a.pend.isSome then c.mxFlag arr 2 1 pc
  else if !c.t.mx.clken.getLsbD arr then c.mxFlag arr 16 1 pc
  else if off % 64 ≠ 0 then c.mxFlag arr 4 1 pc
  else c.task k c.t.cyc (mxRank arr 0) (.mxDesc arr kind off ck)

/-- What a task of the arrays does in its cycle. -/
def Cyc.mxAct (c : Cyc) (k : Task) : Act → Cyc
  | .mxDesc arr kind off ck => c.mxDesc k arr kind off ck
  | .mxEnd arr => c.mxEnd k arr
  | .mxScaleA arr s r => match opOfTask (marr c.t arr) k.seq with
    | some o => c.mxScale k o o.asBase o.asStr r s 2 | none => c
  | .mxScaleB arr s j => match opOfTask (marr c.t arr) k.seq with
    | some o => c.mxScale k o o.bsBase o.bsStr j s 3 | none => c
  | .mxExp arr => match opOfTask (marr c.t arr) k.seq with | some o => c.mxExp k arr o | none => c
  | .mxHeld arr s i => match opOfTask (marr c.t arr) k.seq with | some o => c.mxHeld k o s i | none => c
  | .mxStream arr s r u => match opOfTask (marr c.t arr) k.seq with
    | some o => c.mxStream k o o.aBase s r u 0 (s * 128 + r) | none => c
  | .mxTapRow arr s tau r u => match opOfTask (marr c.t arr) k.seq with
    | some o => c.mxStream k o (o.aBase + tau * o.atStr) s r u 0 ((s * 1024 + tau) * 128 + r) | none => c
  | .mxPos arr s q => match opOfTask (marr c.t arr) k.seq with | some o => c.mxPos k o s q | none => c
  | .mxTap arr s tau r => match opOfTask (marr c.t arr) k.seq with | some o => c.mxTap k arr o s tau r | none => c
  | .mxPass arr s p r => match opOfTask (marr c.t arr) k.seq with | some o => c.mxPass k arr o s p r | none => c
  | .mxZero arr q => match opOfTask (marr c.t arr) k.seq with | some o => c.mxZero k arr o q | none => c
  | .mxSpRow arr w r fg => match opOfTask (marr c.t arr) k.seq with | some o => c.mxSpRow k arr o w r fg | none => c
  | .mxSpPass arr w r j => match opOfTask (marr c.t arr) k.seq with | some o => c.mxSpPass k arr o w r j | none => c
  | .mxAccRow arr q i => match opOfTask (marr c.t arr) k.seq with | some o => c.mxAccRow k arr o q i | none => c
  | .mxStatRow arr q i => match opOfTask (marr c.t arr) k.seq with | some o => c.mxStatRow k arr o q i | none => c
  | _ => c

end Sys2Proof.Machine
end

