-- ==== Sys2Proof/Machine/Operands.lean ====
section
/-! DEFINITION. Operand forms of the vector and load/store slots: which formats an operation takes, where its operands lie, and
what it computes on one element (R166 to R192, R549). -/

namespace Sys2Proof.Machine

/-- The vector operations in the order in which `Config.vecOpIndex` counts them (log entry 7); a larger index names none. -/
def vopOfIndex (i : Nat) : Option VOp :=
  [VOp.add, .sub, .mul, .fma, .fms, .neg, .abs, .and, .or, .xor, .shl, .shr, .mac, .max, .min, .cmp, .sel, .mov, .bcast, .cvt,
   .perm, .segSum, .segMax, .segMin, .summary, .rng, .drop, .ptld, .ptmac, .ptswap, .rcmb, .expand, .sumClear][i]?

/-- The floating-point operation formats (R42). -/
def arithFloat (f : Fmt) : Bool := f = .fp32 || f = .bf16 || f = .fp16 || f = .fp64
/-- The integer operation formats (R176). -/
def arithInt (f : Fmt) : Bool := f = .int8 || f = .uint8 || f = .int16 || f = .int32
/-- The register formats of R166: every format but the memory formats E2M1 and INT4. -/
def regFmt (f : Fmt) : Bool := f ≠ .e2m1 && f ≠ .int4

/-- Formats that an operation takes as vfmt (R167, R176, R178, R179, R549). -/
def vfmtOk (op : VOp) (f : Fmt) (sub : Nat) : Bool :=
  match op with
  | .add | .sub | .mul => arithFloat f || arithInt f
  | .fma | .fms | .neg | .abs => arithFloat f
  | .and | .or | .xor | .shl | .shr => arithInt f
  | .mac => f = .int8 || f = .uint8
  | .max | .min => arithFloat f || arithInt f
  | .cmp => (arithFloat f || arithInt f) && sub ≤ 5
  | .sel | .mov | .bcast => regFmt f
  | .cvt => regFmt f && f ≠ .raw
  | .perm => f = .raw
  | .segSum | .segMax | .segMin => (f = .fp32 || f = .bf16 || f = .fp16 || f = .int32) && 1 ≤ sub && sub ≤ 9
  | .summary => regFmt f && sub ≤ 8 && (f ≠ .raw || sub ≤ 2 || sub = 8)
  | .rng | .drop => f = .fp32 || f = .int32
  | _ => true

/-- Whether an operation reads va. -/
def usesA (op : VOp) : Bool := match op with | .bcast | .rng => false | _ => true
/-- Whether an operation reads vb as elements. -/
def usesB (op : VOp) : Bool :=
  match op with
  | .add | .sub | .mul | .fma | .fms | .and | .or | .xor | .shl | .shr | .mac | .max | .min | .cmp | .sel | .perm => true
  | _ => false
/-- Whether an operation reads vc. -/
def usesC (op : VOp) : Bool := match op with | .fma | .fms | .sel => true | _ => false
/-- Operations that act on lane words: their n counts lane words (R176, R195; log entry 21). -/
def laneOp (op : VOp) : Bool := match op with | .mac | .perm | .ptmac => true | _ => false

/-- The format of an operation's result (R176, R177, R549). -/
def resFmt (op : VOp) (f d : Fmt) : Fmt :=
  match op with
  | .cvt => d
  | .mac => .int32
  | .ptmac => .fp32
  | _ => f

/-- C of R169: the smallest E among the formats read and written. -/
def chunkC (op : VOp) (f d : Fmt) : Nat := if laneOp op then 512 else min f.perReg (resFmt op f d).perReg

/-- Issue-to-result latency L (R200), k of a segmented reduction in `sub`. -/
def vLat (op : VOp) (f : Fmt) (sub : Nat) : Nat :=
  match op with
  | .add | .sub | .mul | .fma | .fms =>
    if f = .fp64 then 8 else if f.isFloat then 4 else if op = .mul then 3 else 2
  | .mac | .cvt => 3
  | .perm => 4
  | .segSum | .segMax | .segMin => 4 + sub
  | .ptmac => 5
  | _ => 2

/-- q of R170: 4 for FP64 arithmetic, else 1. -/
def vq (op : VOp) (f : Fmt) : Nat :=
  match op with
  | .add | .sub | .mul | .fma | .fms => if f = .fp64 then 4 else 1
  | _ => 1

/-- A mask of the format's width (R177). -/
def maskOf (f : Fmt) (b : Bool) : Nat := if b then 2 ^ f.bits - 1 else 0

/-- An integer shift (R549): value, unsigned count. -/
def shiftI (left : Bool) (f : Fmt) (a cnt : Nat) : Nat :=
  let w := f.bits
  if left then (if w ≤ cnt then 0 else a * 2 ^ cnt % 2 ^ w)
  else
    let i := decI f a
    let s : Int := if w ≤ cnt then (if i < 0 then -1 else 0) else i / (2 ^ cnt : Int)
    (s % (2 ^ w : Int)).toNat

/-- A two-operand integer operation on exact values (R35). -/
def intOp (op : VOp) (a b : Int) : Int :=
  match op with
  | .add => a + b
  | .sub => a - b
  | .mul => a * b
  | .max => max a b
  | _ => min a b

/-- A floating-point operation on exact values before its one rounding (R27, R42 to R44). -/
def floatOp (op : VOp) (rdn : Bool) (a b c : FVal) : FVal × Flags :=
  match op with
  | .add => fadd rdn a b
  | .sub => fadd rdn a b.negate
  | .mul => fmul a b
  | .fma => ffma rdn a b c
  | .fms => ffma rdn a b c.negate
  | .neg => (a.negate, nanFlag a)
  | .abs => (a.abs, nanFlag a)
  | .max => fmaxmin true a b
  | _ => fmaxmin false a b

/-- One element of an elementwise operation: formats, fields, 16 random bits, the three operands' bits, the shift count
(R27, R29, R35, R44, R45, R177, R549). -/
def vElemOp (op : VOp) (f d : Fmt) (sub rm : Nat) (sat sw : Bool) (r a b c cnt : Nat) : Nat × Flags :=
  match op with
  | .mov | .bcast => (a, 0)
  | .sel => (if c = 0 then b else a, 0)
  | .cvt => cvt f d rm sat sw r a
  | .and => (a &&& b, 0)
  | .or => (a ||| b, 0)
  | .xor => (a ^^^ b, 0)
  | .shl => (shiftI true f a cnt, 0)
  | .shr => (shiftI false f a cnt, 0)
  | .cmp =>
    if f.isFloat then
      let x := decF f a
      let y := decF f b
      (maskOf f (fcmp sub x y), nanFlag x ||| nanFlag y)
    else (maskOf f (icmp sub (decI f a) (decI f b)), 0)
  | _ =>
    if f.isFloat then
      let (v, f1) := floatOp op (rm = 2) (decF f a) (decF f b) (decF f c)
      let (w, f2) := encF f rm sat r v
      (w, f1 ||| f2 ||| rmFlags rm)
    else encI f sw (intOp op (decI f a) (decI f b))

/-- An accumulator entry converted to an operation format (R174): file mode, entry. -/
def accConv (amode : Nat) (f : Fmt) (rm : Nat) (sat sw : Bool) (r : Nat) (e : AccE) : Nat × Flags :=
  if amode = 2 then
    let i := decW80I e.val.toNat
    if f.isFloat then (encF f rm sat r (.ofInt i)).map id (· ||| rmFlags rm) else encI f sw i
  else
    let v := if amode = 1 then decF .fp32 (e.val.toNat % 2 ^ 32) else decW80 e.val.toNat
    (encAny f rm sat sw r v).map id (· ||| nanFlag v ||| rmFlags rm)

/-- A segment's or summary's maximum or minimum over values (R44, R178, R179). -/
def foldMaxMin (mx : Bool) : List FVal → FVal × Flags
  | [] => (.nan, 0)
  | [v] => (v, nanFlag v)
  | v :: vs =>
    let (x, f1) := foldMaxMin mx vs
    let (y, f2) := fmaxmin mx v x
    (y, f1 ||| f2)

/-- The largest or smallest of a list of integers; 0 for none. -/
def foldMaxMinI (mx : Bool) : List Int → Int
  | [] => 0
  | [v] => v
  | v :: vs => if mx then max v (foldMaxMinI mx vs) else min v (foldMaxMinI mx vs)

/-- The value of one segment (R178): sum, maximum or minimum, rounded once. -/
def segValue (op : VOp) (f : Fmt) (rm : Nat) (sat sw : Bool) (r : Nat) (l : List Nat) : Nat × Flags :=
  if f.isFloat then
    let vs := l.map (decF f)
    let (v, f1) := match op with
      | .segSum => fsum (rm = 2) vs
      | .segMax => foldMaxMin true vs
      | _ => foldMaxMin false vs
    let (w, f2) := encF f rm sat r v
    (w, f1 ||| f2 ||| rmFlags rm)
  else
    let is := l.map (decI f)
    encI f sw (match op with
      | .segSum => is.foldl (· + ·) 0
      | .segMax => foldMaxMinI true is
      | _ => foldMaxMinI false is)

/-- The first index of a true element (R179). -/
def firstTrue : Nat → List Nat → Option Nat
  | _, [] => none
  | i, b :: bs => if b = 0 then firstTrue (i + 1) bs else some i

/-- A summary of elements (R179). -/
def summaryValue (f : Fmt) (sub : Nat) (l : List Nat) : Nat × Flags :=
  let m64 (i : Int) : Nat := (i % (2 ^ 64 : Int)).toNat
  let fl (p : FVal × Flags) : Nat × Flags := let (w, g) := encF .fp64 0 false 0 p.1; (w, p.2 ||| g)
  match sub with
  | 0 => (if l.any (· ≠ 0) then 1 else 0, 0)
  | 1 => (if l.all (· ≠ 0) then 1 else 0, 0)
  | 2 => ((l.filter (· ≠ 0)).length, 0)
  | 8 => ((firstTrue 0 l).getD 0xFFFFFFFFFFFFFFFF, 0)
  | _ =>
    if f.isFloat then
      let vs := l.map (decF f)
      match sub with
      | 3 => fl (foldMaxMin false vs)
      | 4 => fl (foldMaxMin true vs)
      | 5 => fl (foldMaxMin true (vs.map FVal.abs))
      | 6 => fl (foldMaxMin false (vs.map FVal.abs))
      | _ => fl (fsum false vs)
    else
      let is := l.map (decI f)
      let ab : List Int := is.map (fun i => (i.natAbs : Int))
      match sub with
      | 3 => (m64 (foldMaxMinI false is), 0)
      | 4 => (m64 (foldMaxMinI true is), 0)
      | 5 => (m64 (foldMaxMinI true ab), 0)
      | 6 => (m64 (foldMaxMinI false ab), 0)
      | _ => (m64 (is.foldl (· + ·) 0), 0)

/-- Whether a register group of `n` elements of a format from register `r` breaks R169. -/
def groupBad (f : Fmt) (r n : Nat) : Bool := 32 < r + f.regs n || (f = .fp64 && r % 2 = 1)

/-- A packed element written into bytes at offset 0 of a row: bytes of a list of elements (R10). -/
def packElems (f : Fmt) (es : List Elem) : List PByte :=
  match f.bits with
  | 4 =>
    (List.range ((es.length + 1) / 2)).map (fun i =>
      let a := es.getD (2 * i) ⟨0, 0, false⟩
      let b := es.getD (2 * i + 1) ⟨0, 0, false⟩
      (BitVec.ofNat 8 (a.bits % 16 + 16 * (b.bits % 16)), a.pois || b.pois))
  | n => (es.map (fun e => (leBytes (n / 8) e.bits).map (·, e.pois))).flatten

/-- A value moved between a memory format and a register format by a load, store or descriptor operand: no conversion when the
formats are one (R186, R546). -/
def moveFmt (src dst : Fmt) (rm : Nat) (sat sw : Bool) (r w : Nat) : Nat × Flags :=
  if src = dst then (w % 2 ^ dst.bits, 0) else cvt src dst rm sat sw r w

/-- A load or store's format pair: RAW goes with RAW only (R167, R186). -/
def moveOk (mem reg : Fmt) : Bool := regFmt reg && ((mem = .raw) == (reg = .raw))

end Sys2Proof.Machine
end

