-- ==== Sys2Proof/Machine/DzEngine.lean ====
section
/-! DEFINITION. The drizzle compressor at work (R157 to R162): blocks, directory entries, statistics, the record. -/

namespace Sys2Proof.Machine

/-- Formats that have a drizzle form (R141). -/
def dzFmtOk (f : Fmt) : Bool :=
  f = .bf16 || f = .fp16 || f = .e5m2 || f = .e4m3 || f = .int8 || f = .uint8

/-- The format of the open tensor. -/
def DzBlk.fm (d : DzBlk) : Fmt := (Fmt.ofCode d.fmt.toNat).getD .bf16
/-- Blocks per row. -/
def DzBlk.blocks (d : DzBlk) : Nat := (d.rowlen.toNat + 63) / 64

/-- Whether an element's bit pattern is present (R141, R157). -/
def dzPresent (f : Fmt) (w : Nat) : Bool := if f.isFloat then w % 2 ^ (f.bits - 1) ≠ 0 else w ≠ 0

/-- A block's bytes and form (R142 to R144): elements past the row's end are absent. -/
def dzBlock (f : Fmt) (es : List Elem) : Bool × List PByte :=
  let pres := es.filter (fun e => dzPresent f e.bits)
  let z := pres.length
  let comp := 8 + 8 * ((z * f.bits + 63) / 64)
  if 8 * f.bits < comp then
    (true, packElems f es ++ List.replicate ((64 - es.length) * f.bits / 8) (0, false))
  else
    let bm := es.foldl (fun b e => if dzPresent f e.bits then b + 2 ^ (e.k % 64) else b) 0
    let vals := packElems f pres
    (false, clean (leBytes 8 bm) ++ vals ++ List.replicate (comp - 8 - vals.length) (0, false))

/-- κ of a sparse issue on the format (R149). -/
def dzKappa (f : Fmt) : Nat := if f.bits = 16 then 64 else 128
/-- g of R150 from the segment counts of a window. -/
def dzG (f : Fmt) (seg : List Nat) : Nat :=
  seg.foldl (fun g z => max g ((z + dzKappa f / 8 - 1) / (dzKappa f / 8))) 1

/-- The eight segment counts with a block's present elements added: block `b` of the window. -/
def dzSegAdd (f : Fmt) (b : Nat) (es : List Elem) (seg : List Nat) : List Nat :=
  let half := dzKappa f / 2
  (List.range 8).map (fun q =>
    seg.getD q 0 + (es.filter (fun e => dzPresent f e.bits && (64 * b + e.k % 64) / half = q)).length)

/-- The compressor takes the next block (R145, R146, R157, R160, R162); its bytes, directory entry and padding are to be written at the
offsets answered. -/
def DzBlk.accept (d : DzBlk) (es64 : List Elem) : DzBlk × List (Nat × List PByte) :=
  if !d.active || d.rows.toNat ≤ d.row then ({ d with stat := d.stat ||| 4#4, dropSeen := true }, [])
  else
    let f := d.fm
    let nb := d.blocks
    let len := if d.blk + 1 = nb then d.rowlen.toNat - 64 * (nb - 1) else 64
    let es := es64.take len
    let (dense, bytes) := dzBlock f es
    let start := d.data.toNat % 2 ^ 23 + 8 * d.pos.toNat
    let full := d.fullSeen || (d.data.toNat % 2 ^ 23 + d.lim.toNat < start + bytes.length) || spSize < start + bytes.length
    let ent : Nat := if full then 0x7FFFFFFF else d.pos.toNat + (if dense then 2 ^ 31 else 0)
    let dirRow := d.dir.toNat % 2 ^ 23 + d.row * d.dstr.toNat
    let rowEnd := d.blk + 1 = nb
    let pad := if rowEnd then [(dirRow + 4 * nb, List.replicate (d.dstr.toNat - 4 * nb) ((0 : Byte), false))] else []
    let perWin := 4 * dzKappa f / 64
    let b := d.blk % perWin
    let old := if b = 0 then [] else d.seg
    let seg := dzSegAdd f b es old
    let gOld := if b = 0 then 0 else dzG f old
    let nz := (es.filter (fun e => dzPresent f e.bits)).length
    let d' := { d with
      stat := if full then d.stat ||| 2#4 else d.stat
      fullSeen := full
      pos := if full then d.pos else d.pos + BitVec.ofNat 32 (bytes.length / 8)
      nnz := d.nnz + BitVec.ofNat 64 nz
      elem := d.elem + BitVec.ofNat 64 len
      occ := BitVec.ofNat 32 (seg.foldl max d.occ.toNat)
      pass := d.pass + BitVec.ofNat 64 (dzG f seg - gOld)
      seg := seg
      row := if rowEnd then d.row + 1 else d.row
      blk := if rowEnd then 0 else d.blk + 1 }
    (d', (if full then [] else [(start, bytes)]) ++ [(dirRow + 4 * d.blk, clean (leBytes 4 ent))] ++ pad)

/-- The statistics record (R161). -/
def DzBlk.record (d : DzBlk) : List Byte :=
  let complete := d.rows.toNat ≤ d.row && !d.fullSeen && !d.dropSeen
  leBytes 8 d.nnz.toNat ++ leBytes 8 d.elem.toNat ++ leBytes 8 d.pass.toNat ++ leBytes 4 d.occ.toNat ++
  [BitVec.ofNat 8 d.fmt.toNat,
   BitVec.ofNat 8 ((if complete then 1 else 0) + (if d.fullSeen then 2 else 0) + (if d.dropSeen then 4 else 0)), 0, 0]

/-- The open of R158: refused with badcfg, or the statistics cleared and active set. -/
def DzBlk.openCmd (d : DzBlk) : DzBlk :=
  let nb := d.blocks
  let bad := d.rowlen = 0 || d.rows = 0 || !((Fmt.ofCode d.fmt.toNat).any dzFmtOk) ||
    d.data.toNat % 64 ≠ 0 || d.dir.toNat % 64 ≠ 0 || d.dstr.toNat % 64 ≠ 0 || d.dstr.toNat < 4 * nb
  if bad then { d with stat := d.stat ||| 8#4, active := false }
  else { d with
    active := true, pos := 0, nnz := 0, elem := 0, occ := 0, pass := 0
    row := 0, blk := 0, seg := [], fullSeen := false, dropSeen := false }

end Sys2Proof.Machine
end

