-- ==== Sys2Proof/Machine/VeEngine.lean ====
section
/-! DEFINITION. The vector engine and the load/store slot at work (06): issue checks, chunks, accumulator rows, descriptor-form
pieces, expansion, recombination, product tables, loads and stores. -/

namespace Sys2Proof
open Machine

/-- Element count of a count-form instruction. -/
def VecF.cnt (f : VecF) : Nat := f.n.toNat + 1
/-- The operation format, when its code names one. -/
def VecF.fmt? (f : VecF) : Option Fmt := Fmt.ofCode f.vfmt.toNat
/-- The operation format. -/
def VecF.fm (f : VecF) : Fmt := f.fmt?.getD .fp32
/-- The destination format. -/
def VecF.df (f : VecF) : Fmt := (Fmt.ofCode f.dfmt.toNat).getD .fp32
/-- Element count of a transfer. -/
def LsF.cnt (f : LsF) : Nat := f.n.toNat + 1
/-- The format that vfmt names: the register format of a compressed store. -/
def LsF.fmt? (f : LsF) : Option Fmt := Fmt.ofCode f.vfmt.toNat
/-- Memory format of a load, register format of a store. -/
def LsF.fm (f : LsF) : Fmt := f.fmt?.getD .fp32
/-- Register format of a load, memory format of a store. -/
def LsF.df (f : LsF) : Fmt := (Fmt.ofCode f.dfmt.toNat).getD .fp32

end Sys2Proof

namespace Sys2Proof.Machine

/-! ### Fields -/

/-- The chunk length C. -/
def VInst.C (v : VInst) : Nat := chunkC v.op v.f.fm v.f.df
/-- The result format. -/
def VInst.rf (v : VInst) : Fmt := resFmt v.op v.f.fm v.f.df
/-- Issue-to-result latency, accumulator operands included (R175, R200). -/
def VInst.L (v : VInst) : Nat := vLat v.op v.f.fm v.f.sub.toNat + (if v.f.asrc = 0 then 0 else 2)
/-- The chunk count c. -/
def VInst.chunks (v : VInst) : Nat := (v.f.cnt + v.C - 1) / v.C
/-- Accumulator rows per array of an instruction with an accumulator operand (R173). -/
def VInst.accRows (v : VInst) : Nat := if v.f.asrc = 1 then (v.f.cnt + 31) / 32 else (v.f.cnt + 127) / 128
/-- Elements that enter per accumulator row. -/
def VInst.perRow (v : VInst) : Nat := if v.f.asrc = 1 then 32 else 128

/-- A refused vector instruction: no effect but inv, src_ve and a bit of TVE_STAT (R172). -/
def Cyc.veFlag (c : Cyc) (b : BitVec 5) (kind slot pc : Nat) : Cyc :=
  let c := { c with t := { c.t with ve := { c.t.ve with stat := c.t.ve.stat ||| b } } }
  (c.flags fInv 1).event kind slot pc

/-- Refusals of a count-form instruction under R167, R169, R173 and the operation table. -/
def VInst.countBad (v : VInst) : Bool :=
  let f := v.f
  let n := f.cnt
  match f.fmt? with
  | none => true
  | some fm =>
    !vfmtOk v.op fm f.sub.toNat || f.asrc = 3 || f.bsrc = 3 ||
    (v.op = .cvt && !((Fmt.ofCode f.dfmt.toNat).any (fun d => regFmt d && d ≠ .raw))) ||
    (v.op = .bcast && f.bsrc = 0) ||
    (f.asrc ≠ 0 && (laneOp v.op || !usesA v.op || fm = .raw)) ||
    (f.asrc ≠ 0 && 128 < f.arow.toNat + v.accRows) ||
    (let src : Fmt := if laneOp v.op then .raw else fm
     let rf : Fmt := if laneOp v.op then .raw else v.rf
     (usesA v.op && f.asrc = 0 && groupBad src f.va.toNat n) ||
     (usesB v.op && f.bsrc = 0 && groupBad src f.vb.toNat n) ||
     (usesC v.op && groupBad src f.vc.toNat n) ||
     (v.op ≠ .summary && groupBad rf f.vd.toNat n))

/-! ### Operands and results of a set of elements -/

/-- Regions of the lane words that elements k0 to k1 of a group occupy, for the ORDER check. -/
def elemRegions (f : Fmt) (r k0 k1 : Nat) : List Region :=
  let (g0, l0, _) := elemLoc f r k0
  let (g1, l1, _) := elemLoc f r k1
  if g0 = g1 then [.vreg g0 l0 l1] ++ (if f = .fp64 then [.vreg (g0 + 1) l0 l1] else [])
  else (rangeFrom g0 (g1 + 1 - g0)).map (fun g => .vreg g 0 511)

/-- Reads noted for the ORDER check. -/
def Cyc.orders (c : Cyc) (k : Task) (l : List Region) : Cyc := l.foldl (fun c r => c.order k r) c
/-- Writes noted for the ORDER check. -/
def Cyc.expects (c : Cyc) (k : Task) (l : List Region) (at_ : Nat) : Cyc := l.foldl (fun c r => c.expect k r at_ at_) c

/-- The broadcast value of vb (R168): a scalar read at issue, or a summary register with its poison. -/
def VInst.bval (v : VInst) (t : Tile) : W64 × Bool :=
  if v.f.bsrc = 2 then
    let i := v.f.vb.toNat % 8
    (tget 0 t.seq.sum i, t.ve.sumpois.getLsbD i)
  else (v.svb, false)

/-- Failed checks of a vector instruction (R198): the lanes they poison. -/
def ckLane (ck : List CheckFail) (u lane : Nat) : Bool := ck.any (fun x => x.unit.val = u && x.lane.val = lane)

/-- A list of lane-word writes with the failed checks applied. -/
def ckWrites (ck : List CheckFail) (u : Nat) (ws : List VWr) : List VWr :=
  ws.map (fun w => { w with pois := w.pois || ckLane ck u w.lane })

/-- The records of an instruction's failed checks (R198). -/
def Cyc.veChecks (c : Cyc) (k : Task) (v : VInst) (at_ : Nat) : Cyc :=
  v.ck.foldl (fun c x =>
    if x.unit = 1 then
      c.ret k at_ (.check 1 (BitVec.ofNat 32 (x.stage.val * 2 ^ 27 + x.lane.val * 2 ^ 18 + v.f.vd.toNat * 2 ^ 13)))
    else c) c

/-- The 16 random bits of element k in the destination layout (R33); zero outside SR, where they are not used. -/
def rbits (t : Tile) (rm : Nat) (f : Fmt) (k n : Nat) : Nat := if rm = 4 then draw16 t.ve f k n else 0

/-- One element of an elementwise operation, from operand elements. -/
def VInst.elem (v : VInst) (t : Tile) (n : Nat) (a b c : Elem) (bv : W64 × Bool) : Elem × Flags :=
  let f := v.f
  let fm := f.fm
  let bc := f.bsrc ≠ 0
  let b' := if bc then bv.1.toNat % 2 ^ fm.bits else b.bits
  let cnt := if bc then bv.1.toNat else b.bits
  let a' := if v.op = .bcast then bv.1.toNat % 2 ^ fm.bits else a.bits
  let r := rbits t f.rm.toNat v.rf a.k n
  let (w, fl) := vElemOp v.op fm f.df f.sub.toNat f.rm.toNat f.sat f.sw r a' b' c.bits cnt
  let p := (usesA v.op && a.pois) || (usesB v.op && (if bc then bv.2 else b.pois)) || (usesC v.op && c.pois) ||
    (v.op = .bcast && bv.2)
  (⟨a.k, w, p⟩, fl)

/-- Random results of a lane (R192): rng and drop. -/
def VInst.random (v : VInst) (t : Tile) (n : Nat) (a : Elem) : Elem :=
  let (_, lane, _) := elemLoc v.f.fm 0 a.k
  let out := (rngOut t.ve lane n).toNat
  if v.op = .rng then
    if v.f.fm = .int32 then ⟨a.k, out / 2 ^ 32, false⟩
    else ⟨a.k, (encF .fp32 0 false 0 (.fin false (out / 2 ^ 40) (-24))).1, false⟩
  else ⟨a.k, if out / 2 ^ 48 < v.svb.toNat % 65536 then a.bits else 0, a.pois⟩

/-- Segments among elements (R178): the elements from k0 on, in runs of 2^s that end with the list. -/
def chunksOf (n : Nat) : Nat → List Elem → List (List Elem)
  | 0, _ => []
  | _ + 1, [] => []
  | fuel + 1, l => l.take n :: chunksOf n fuel (l.drop n)

/-- The results of a segmented reduction over elements that start at a segment's first (R178). -/
def VInst.segments (v : VInst) (t : Tile) (n : Nat) (es : List Elem) : List Elem × Flags :=
  let f := v.f
  let parts := chunksOf (2 ^ f.sub.toNat) es.length es
  let rs : List (List Elem × Flags) := parts.map (fun (p : List Elem) =>
    let k0 := match p with | e :: _ => e.k | [] => 0
    let (w, fl) := segValue v.op f.fm f.rm.toNat f.sat f.sw (rbits t f.rm.toNat f.fm k0 n) (p.map (·.bits))
    let po := p.any (·.pois)
    (p.map (fun (e : Elem) => (⟨e.k, w, po⟩ : Elem)), fl))
  ((rs.map (·.1)).flatten, fUnion (rs.map (·.2)))

/-- The captured form of elements: index, value and poison as nine bytes each. -/
def elemCap (es : List Elem) : List PByte := (es.map (fun e => (leBytes 8 e.bits).map (·, e.pois))).flatten
/-- Captured elements read back. -/
def capElems : Nat → Nat → List PByte → List Elem
  | 0, _, _ => []
  | n + 1, k, l => ⟨k, leNatP (l.take 8), anyPois (l.take 8)⟩ :: capElems n (k + 1) (l.drop 8)

/-- Elements that have entered the lanes: results to the registers, or to the summary once the last has entered. `es` are
operand a's elements of this entry, `last` whether they are the instruction's last. -/
def Cyc.enter (c : Cyc) (k : Task) (v : VInst) (idx : Nat) (es : List Elem) (fin : Bool) : Cyc :=
  let f := v.f
  let n := c.n
  let at_ := c.t.cyc + v.L - 1
  let k0 := match es with | e :: _ => e.k | [] => 0
  let kn := k0 + es.length - 1
  let first := idx = 0
  let c := if first then c.veChecks k v (at_ - 1) else c
  match v.op with
  | .summary =>
    let c := c.cap k 20 idx (elemCap es)
    if fin then
      let per := if f.asrc = 0 then v.C else v.perRow
      let all := ((List.range (idx + 1)).map (fun i =>
        let d := capOf c.t k.seq 2 20 i
        capElems (d.length / 8) (i * per) d)).flatten
      let (w, fl) := summaryValue f.fm f.sub.toNat (all.map (·.bits))
      let ra := c.t.cyc + 5 + (if f.asrc = 0 then 0 else 2)
      let c := { c with t := dropCaps c.t k.seq 2 }
      (c.ret k ra (.sum f.smd.toNat (BitVec.ofNat 64 w) (all.any (·.pois) || v.ck.any (·.unit = 1)))).retFlags k ra fl 1
    else c
  | .segSum | .segMax | .segMin =>
    if f.asrc = 0 then
      let (rs, fl) := v.segments c.t n es
      (c.ret k at_ (.vec (if first then ckWrites v.ck 1 (elemsWr v.rf f.vd.toNat rs) else elemsWr v.rf f.vd.toNat rs))).retFlags k at_ fl 1
    else
      -- rows enter one by one: a segment is formed when its last element has entered
      let c := c.cap k 20 idx (elemCap es)
      let size := 2 ^ f.sub.toNat
      let per := v.perRow
      let hi := kn + 1
      let done := if fin then hi else hi / size * size
      let lo := k0 / size * size
      if lo < done then
        let i0 := lo / per
        let all := ((rangeFrom i0 (idx + 1 - i0)).map (fun i =>
          let d := capOf c.t k.seq 2 20 i
          capElems (d.length / 8) (i * per) d)).flatten
        let sel := all.filter (fun e => lo ≤ e.k && e.k < done)
        let (rs, fl) := v.segments c.t n sel
        (c.ret k at_ (.vec (elemsWr v.rf f.vd.toNat rs))).retFlags k at_ fl 1
      else c
  | .rng | .drop =>
    let c := if v.op = .drop then c.orders k (elemRegions f.fm f.va.toNat k0 kn) else c
    c.ret k at_ (.vec (ckWrites (if first then v.ck else []) 1 (elemsWr f.fm f.vd.toNat (es.map (v.random c.t n)))))
  | _ =>
    let bv := v.bval c.t
    let ub := usesB v.op && f.bsrc = 0
    let c := if ub then c.orders k (elemRegions f.fm f.vb.toNat k0 kn) else c
    let c := if usesC v.op then c.orders k (elemRegions f.fm f.vc.toNat k0 kn) else c
    let rs := es.map (fun a =>
      let b := if ub then velem c.t.ve f.fm f.vb.toNat a.k else ⟨a.k, 0, false⟩
      let cc := if usesC v.op then velem c.t.ve f.fm f.vc.toNat a.k else ⟨a.k, 0, false⟩
      v.elem c.t n a b cc bv)
    let ws := elemsWr v.rf f.vd.toNat (rs.map (·.1))
    (c.ret k at_ (.vec (if first then ckWrites v.ck 1 ws else ws))).retFlags k at_ (fUnion (rs.map (·.2))) 1

/-- Four products of the bytes of two lane words added to an INT32 lane word (R549). -/
def macWord (f : Fmt) (sw : Bool) (a b d : Nat) : Nat × Flags :=
  let byte (w i : Nat) : Int := decI f (w / 2 ^ (8 * i) % 256)
  let s : Int := [0, 1, 2, 3].foldl (fun s i => s + byte a i * byte b i) (decI .int32 d)
  encI .int32 sw s

/-- The codes of a lane word for width w (R195). -/
def ptCodes (w word : Nat) : List Nat :=
  let cnt := match w with | 2 => 16 | 3 => 10 | _ => 8
  (List.range cnt).map (fun u => word / 2 ^ (w * u) % 2 ^ w)

/-- The table entries that a lane word selects (R195): value and parity failure. -/
def ptTerms (s : SfBlk) (g : Nat) (bank : Bool) (w b word : Nat) : List (FVal × Bool) :=
  let S := 512 / 2 ^ w
  ((ptCodes w word).zip (List.range 16)).map (fun x =>
    let off := ptBase g bank + 4 * (((b + x.2) % S) * 2 ^ w + x.1)
    let bs := (rangeFrom off 4).map (fun a => (tget 0 s.tram a, tget false s.tpar a))
    (decF .fp32 (leNatP bs), anyPois bs))

/-- A lane operation on lane words k of register va + j: mac, perm or ptmac. -/
def Cyc.laneChunk (c : Cyc) (k : Task) (v : VInst) (j : Nat) : Cyc :=
  let f := v.f
  let n := min 512 (f.cnt - 512 * j)
  let at_ := c.t.cyc + v.L - 1
  let ra := f.va.toNat + j
  let rb := f.vb.toNat + j
  let rd := f.vd.toNat + j
  let c := c.orders k ([.vreg ra 0 (if v.op = .perm then 511 else n - 1)] ++
    (if v.op ≠ .ptmac && f.bsrc = 0 then [.vreg rb 0 (n - 1)] else []) ++ (if v.op ≠ .perm then [.vreg rd 0 (n - 1)] else []))
  let bv := v.bval c.t
  let bword (i : Nat) : Nat × Bool :=
    if f.bsrc = 0 then ((vword c.t.ve rb i).toNat, vpois c.t.ve rb i) else (bv.1.toNat % 2 ^ 32, bv.2)
  let rs : List (VWr × Flags × Bool) := (List.range n).map (fun i =>
    match v.op with
    | .perm =>
      let b := bword i
      let s := b.1 % 512
      (⟨rd, i, 0xF, vword c.t.ve ra s, vpois c.t.ve ra s || b.2⟩, 0, false)
    | .mac =>
      let b := bword i
      let (w, fl) := macWord f.fm f.sw (vword c.t.ve ra i).toNat b.1 (vword c.t.ve rd i).toNat
      (⟨rd, i, 0xF, BitVec.ofNat 32 w, vpois c.t.ve ra i || b.2 || vpois c.t.ve rd i⟩, fl, false)
    | _ =>
      let ts := ptTerms c.t.sf (i / 16) v.bank f.sub.toNat f.arow.toNat (vword c.t.ve ra i).toNat
      let rm := f.rm.toNat
      let (s, f1) := fsum (rm = 2) (decF .fp32 (vword c.t.ve rd i).toNat :: ts.map (·.1))
      let (w, f2) := encF .fp32 rm f.sat (rbits c.t rm .fp32 (512 * j + i) c.n) s
      let bad := ts.any (·.2)
      (⟨rd, i, 0xF, BitVec.ofNat 32 w, vpois c.t.ve ra i || vpois c.t.ve rd i || bad⟩, f1 ||| f2 ||| rmFlags rm, bad))
  let ws := rs.map (·.1)
  let c := if j = 0 then c.veChecks k v (at_ - 1) else c
  let c := rs.foldl (fun c x => if x.2.2 then
    c.ret k (at_ - 1) (.check 1 (BitVec.ofNat 32 (3 * 2 ^ 27 + x.1.lane * 2 ^ 18 + rd * 2 ^ 13))) else c) c
  (c.ret k at_ (.vec (if j = 0 then ckWrites v.ck 1 ws else ws))).retFlags k at_ (fUnion (rs.map (·.2.1))) 1

/-- Chunk j enters the lanes (R170). -/
def Cyc.vChunk (c : Cyc) (k : Task) (v : VInst) (j : Nat) : Cyc :=
  let f := v.f
  if laneOp v.op then c.laneChunk k v j
  else
    let C := v.C
    let cnt := min C (f.cnt - j * C)
    let c := if usesA v.op && v.op ≠ .drop then c.orders k (elemRegions f.fm f.va.toNat (j * C) (j * C + cnt - 1)) else c
    let es : List Elem := if usesA v.op then velems c.t.ve f.fm f.va.toNat (j * C) cnt
      else (rangeFrom (j * C) cnt).map (fun i => ⟨i, 0, false⟩)
    c.enter k v j es (j + 1 = v.chunks)

/-- An accumulator row enters element by element (R124, R170, R173, R174). -/
def Cyc.vRow (c : Cyc) (k : Task) (v : VInst) (i : Nat) : Cyc :=
  let f := v.f
  let per := v.perRow
  let cnt := min per (f.cnt - i * per)
  let row := f.arow.toNat + i
  let arrs := if f.asrc = 1 then [f.arr.toNat] else [0, 1, 2, 3]
  let c := c.orders k (arrs.map (fun a => .acc a (32 * row) (32 * row + 31)))
  let es : List (Elem × Flags) := (rangeFrom (i * per) cnt).map (fun kk =>
    let arr := if f.asrc = 1 then f.arr.toNat else kk / 32 % 4
    let a := marr c.t arr
    let e := tget AccE.zero a.acc (32 * row + kk % 32)
    let (w, fl) := accConv a.amode.toNat f.fm f.rm.toNat f.sat f.sw (rbits c.t f.rm.toNat v.rf kk c.n) e
    (⟨kk, w, e.pois⟩, fl))
  let c := c.retFlags k (c.t.cyc + v.L - 1) (fUnion (es.map (·.2))) 1
  c.enter k v i (es.map (·.1)) (i + 1 = v.accRows)

/-! ### Product tables (R193 to R197) -/

/-- The use of the table RAM claim in force (R507). -/
def SfBlk.use (s : SfBlk) : Nat := s.claim.toNat % 16

/-- ptld: the products, and their writes 16 entries a cycle (R194). -/
def Cyc.vPtld (c : Cyc) (k : Task) (v : VInst) : Cyc :=
  let f := v.f
  let w := f.sub.toNat
  let q := f.cnt
  let S := 512 / 2 ^ w
  let c := c.orders k (elemRegions .bf16 f.va.toNat 0 (2 ^ w - 1) ++ elemRegions .bf16 f.vb.toNat 0 (q - 1))
  let ents : List ((Nat × W32 × Bool) × Flags) := ((List.range q).map (fun j =>
    let a := velem c.t.ve .bf16 f.vb.toNat j
    (List.range (2 ^ w)).map (fun kk =>
      let cb := velem c.t.ve .bf16 f.va.toNat kk
      let (p, f1) := fmul (decF .bf16 cb.bits) (decF .bf16 a.bits)
      let (x, f2) := encF .fp32 f.rm.toNat f.sat 0 p
      ((((f.arow.toNat + j) % S) * 2 ^ w + kk, BitVec.ofNat 32 x, cb.pois || a.pois), f1 ||| f2)))).flatten
  let nb := (q * 2 ^ w + 15) / 16
  (List.range nb).foldl (fun c i =>
    let part := (ents.drop (16 * i)).take 16
    (c.ret k (c.t.cyc + 4 + i) (.pt (part.map (·.1)) v.bank)).retFlags k (c.t.cyc + 4 + i) (fUnion (part.map (·.2))) 1) c

/-- The checks of ptld and ptmac on width, slot base and count (R193 to R195). -/
def VInst.ptBad (v : VInst) : Bool :=
  let w := v.f.sub.toNat
  let S := 512 / 2 ^ w
  w < 2 || 4 < w || v.f.asrc ≠ 0 ||
  (if v.op = .ptld then S < v.f.cnt || groupBad .bf16 v.f.va.toNat (2 ^ w) || groupBad .bf16 v.f.vb.toNat v.f.cnt
   else groupBad .raw v.f.va.toNat v.f.cnt || groupBad .raw v.f.vd.toNat v.f.cnt)

/-! ### Recombination (R76, R77, R188, R189) -/

/-- The refusals of rcmb: those that set bad, and the others. -/
def VInst.rcBad (v : VInst) : Bool :=
  let m := v.f.cnt
  let off := v.svd.toNat % 2 ^ 23
  if v.f.form then off % 64 ≠ 0 || spSize < off + 512 * m
  else !(v.f.dfmt = 9 || v.f.dfmt = 8) || groupBad v.f.df v.f.vd.toNat (32 * m)

/-- Diagonal q mod n_e of output row q / n_e is read; with the last of a row, its results follow 8 cycles later. -/
def Cyc.rcRow (c : Cyc) (k : Task) (v : VInst) (ne q : Nat) : Cyc :=
  let f := v.f
  let a := marr c.t f.arr.toNat
  let row := f.arow.toNat + q
  let c := c.order k (.acc f.arr.toNat (32 * row) (32 * row + 31))
  let ents := (List.range 32).map (fun j => tget AccE.zero a.acc (32 * row + j))
  let c := c.cap k 40 q ((ents.map (fun e => (leBytes 10 e.val.toNat ++ [BitVec.ofNat 8 e.tag.toNat]).map (·, e.pois))).flatten)
  if (q + 1) % ne ≠ 0 then c
  else
    let i := q / ne
    let at_ := c.t.cyc + 7
    let rm := f.rm.toNat
    let g (d j : Nat) : List PByte := ((capOf c.t k.seq 2 40 (i * ne + d)).drop (11 * j)).take 11
    let rs : List (Nat × Bool × Flags) := (List.range 32).map (fun j =>
      let ds := (List.range ne).map (fun d => g d j)
      let pois := ds.any anyPois
      let tag := leNatP ((g 0 j).drop 10)
      let E := (a.eVec.getD i (-1074, false)).1
      let F := (a.fVec.getD j (-1074, false)).1
      let sum : Int := (List.range ne).foldl (fun s d =>
        s + decW80I (leNatP ((g d j).take 10)) * (2 ^ (7 * (ne - 1 - d)) : Nat)) 0
      let x : FVal := match tag with
        | 1 => .inf false
        | 2 => .inf true
        | 3 => .nan
        | _ => .ofScaled false sum (E + F - 12 - 7 * (ne - 1 : Nat))
      let kk := 32 * i + j
      let fl := (if tag = 3 then fNanIn else 0) ||| rmFlags rm
      if f.form then
        let (w, f2) := encW80rm rm (rbits c.t rm .raw (kk % 512) c.n) x
        (w, pois, fl ||| f2)
      else
        let (w, f2) := encF f.df rm f.sat (rbits c.t rm f.df kk c.n) x
        (w, pois, fl ||| f2))
    let c := c.retFlags k at_ (fUnion (rs.map (·.2.2))) 1
    let c := if i = 0 then c.veChecks k v (at_ - 1) else c
    if f.form then
      c.task k at_ 30 (.rcStore v i ((rs.map (fun r => (leBytes 16 r.1).map (·, r.2.1))).flatten))
    else
      let es : List Elem := (rs.zip (List.range 32)).map (fun x => ⟨32 * i + x.2, x.1.1, x.1.2.1⟩)
      let ws := elemsWr f.df f.vd.toNat es
      c.ret k at_ (.vec (if i = 0 then ckWrites v.ck 1 ws else ws))

/-! ### Descriptor form (R182 to R185) -/

/-- A vector tensor descriptor (R182). -/
structure TDesc where
  base : Nat
  fmtC : Nat
  ndim : Nat
  n0 : Nat
  nd : List Nat
  sd : List Int
  sbase : Nat
  sen : Bool
  sstr : Int
  dbase : Nat
  dz : Bool
  dstr : Nat
  resv : Bool
  deriving DecidableEq, Repr

/-- The descriptor in 64 bytes; lengths of dimensions at or past ndim count as 1. -/
def tdesc (d : List PByte) : TDesc :=
  let w (i : Nat) : W64 := BitVec.ofNat 64 (leNatP ((d.drop (8 * i)).take 8))
  let ndim := bitsOf (w 0) 28 3
  { base := bitsOf (w 0) 0 23
    fmtC := bitsOf (w 0) 24 4
    ndim := ndim
    n0 := bitsOf (w 0) 32 24
    nd := [1, 2, 3, 4].map (fun i => if i < ndim then bitsOf (w i) 32 24 else 1)
    sd := [1, 2, 3, 4].map (fun i => if i < ndim then ((w i).extractLsb' 0 32).toInt else 0)
    sbase := bitsOf (w 5) 0 23
    sen := (w 5)[23]
    sstr := ((w 5).extractLsb' 32 24).toInt
    dbase := bitsOf (w 6) 0 23
    dz := (w 6)[23]
    dstr := bitsOf (w 6) 32 24
    resv := (w 0 &&& 0xFF00000080800000#64) ≠ 0 || [1, 2, 3, 4].any (fun i => (w i &&& 0xFF00000000000000#64) ≠ 0) ||
      (w 5 &&& 0xFF000000FF000000#64) ≠ 0 || (w 6 &&& 0xFF000000FF000000#64) ≠ 0 || w 7 ≠ 0 }

/-- The element format of a descriptor. -/
def TDesc.fm (d : TDesc) : Fmt := (Fmt.ofCode d.fmtC).getD .fp32
/-- M: the number of rows. -/
def TDesc.rows (d : TDesc) : Nat := d.nd.foldl (· * ·) 1
/-- Index i_k of row r in dimension k + 1. -/
def TDesc.ix (d : TDesc) (r k : Nat) : Nat :=
  r / (d.nd.take k).foldl (· * ·) 1 % d.nd.getD k 1
/-- The scratchpad offset of row r (R183, R248, R250). -/
def TDesc.row (d : TDesc) (r : Nat) : Int :=
  [0, 1, 2, 3].foldl (fun a k => a + (d.ix r k : Int) * d.sd.getD k 0) (d.base : Int)
/-- Lowest and highest offsets that rows of `bytes` bytes reach, from the signs of the strides (R184). -/
def TDesc.reach (d : TDesc) (bytes : Nat) : Int × Int :=
  let ext (k : Nat) : Int := ((d.nd.getD k 1 : Int) - 1) * d.sd.getD k 0
  ([0, 1, 2, 3].foldl (fun a k => a + min 0 (ext k)) (d.base : Int),
   [0, 1, 2, 3].foldl (fun a k => a + max 0 (ext k)) (d.base : Int) + bytes - 1)
/-- The checks of R184 on one descriptor; scale rows count as reached too. -/
def TDesc.bad (d : TDesc) : Bool :=
  let al (x : Int) : Bool := x % 64 = 0
  let (lo, hi) := d.reach (fmtBytes d.fm d.n0)
  let M : Int := d.rows
  let sc : Int := ((d.n0 + 31) / 32 : Nat)
  d.resv || (Fmt.ofCode d.fmtC).isNone || d.ndim = 0 || 5 < d.ndim || d.n0 = 0 || d.nd.any (· = 0) ||
  !al d.base || d.sd.any (fun s => !al s) || (!d.dz && (lo < 0 || (spSize : Int) ≤ hi)) ||
  (d.sen && (!al d.sbase || !al d.sstr || (d.sbase : Int) + min 0 ((M - 1) * d.sstr) < 0 ||
    (spSize : Int) < (d.sbase : Int) + max 0 ((M - 1) * d.sstr) + sc))

/-- The linear scale-row offset of row r (R251). -/
def TDesc.scaleRow (d : TDesc) (r : Nat) : Nat := ((d.sbase : Int) + r * d.sstr).toNat

/-- Two descriptors of one shape (R184). -/
def TDesc.sameShape (a b : TDesc) : Bool := a.ndim = b.ndim && a.n0 = b.n0 && a.nd = b.nd

/-- Which operations have a descriptor form (log entry 22): elementwise ones with one or two sources and segmented reductions,
and expand. -/
def descOk (op : VOp) : Bool :=
  match op with
  | .fma | .fms | .mac | .sel | .perm | .bcast | .summary | .rng | .drop | .ptld | .ptmac | .ptswap | .rcmb | .sumClear => false
  | _ => true

/-- The number of descriptors of an instruction: its sources, then its destination. -/
def VInst.nDesc (v : VInst) : Nat := if v.op = .expand then 2 else if usesB v.op && v.f.bsrc = 0 then 3 else 2
/-- The scalar that holds descriptor i's offset: va, vb, then vd. -/
def VInst.descOff (v : VInst) (i : Nat) : Nat :=
  (if i = 0 then v.sva else if i + 1 = v.nDesc then v.svd else v.svb).toNat % 2 ^ 23
/-- Descriptor i as captured. -/
def VInst.desc (_v : VInst) (t : Tile) (k : Task) (i : Nat) : TDesc := tdesc (capOf t k.seq 2 30 i)
/-- The destination descriptor. -/
def VInst.dstDesc (v : VInst) (t : Tile) (k : Task) : TDesc := v.desc t k (v.nDesc - 1)

/-- Pieces per row and piece p's row, first element and length (R183). -/
def VInst.pieceOf (v : VInst) (d : TDesc) (p : Nat) : Nat × Nat × Nat :=
  let per := (d.n0 + v.C - 1) / v.C
  let k0 := p % per * v.C
  (p / per, k0, min v.C (d.n0 - k0))

/-- c_p of a piece (R185). -/
def VInst.cp (v : VInst) (srcs : List TDesc) (dst : TDesc) (len : Nat) : Nat :=
  let bin := (srcs.map (fun d => fmtBytes d.fm len)).foldl (· + ·) 0
  max (vq v.op v.f.fm) (max ((bin + 1023) / 1024) ((fmtBytes dst.fm len + 1023) / 1024))

/-- The entry cycles of the pieces: piece, entry, c_p (R185). -/
def pieceTimes (cps : List Nat) : Nat → Nat → List (Nat × Nat × Nat)
  | p, e => match cps with
    | [] => []
    | c :: cs => (p, e, c) :: pieceTimes cs (p + 1) (e + c)

/-- The descriptors are read; after the last, they are checked and the pieces placed in cycles (R184, R185, R187). -/
def Cyc.vDesc (c : Cyc) (k : Task) (v : VInst) (i : Nat) : Cyc :=
  let off := v.descOff i
  let (c, d) := c.read k off (if off % 64 = 0 then 64 else 0)
  let c := c.cap k 30 i d
  if i + 1 < v.nDesc then c
  else
    let ds := (List.range v.nDesc).map (v.desc c.t k)
    let dst := v.dstDesc c.t k
    let srcs := ds.take (v.nDesc - 1)
    let t0 := v.t0
    let misoff := (List.range v.nDesc).any (fun j => v.descOff j % 64 ≠ 0)
    let src0 := srcs.headD dst
    let refuse (c : Cyc) : Cyc :=
      let c := { c with t := { c.t with ve := { c.t.ve with lanesFree := c.t.cyc + 1, pathFree := c.t.cyc + 1 } } }
      c.veFlag 4 7 2 k.pc
    if misoff || ds.any TDesc.bad || ds.any (fun d => !d.sameShape dst) || ds.any (fun d => d.fm = .raw && v.f.fm ≠ .raw) then refuse c
    else if v.op = .expand then
      if !src0.dz || dst.dz || src0.fmtC ≠ dst.fmtC || !dzFmtOk src0.fm || src0.sen || dst.sen then refuse c
      else
        let per := ((src0.n0 + 63) / 64 + 7) / 8
        let N := src0.rows * per
        let c := { c with t := { c.t with ve := { c.t.ve with lanesFree := t0 + 8 + N, pathFree := t0 + 8 + N } } }
        c.taskList k (((List.range N).map (fun p =>
          [(t0 + 5 + p, 10, Act.vExpRead v p), (t0 + 12 + p, 30, Act.vExpWrite v p)])).flatten)
    else if ds.any (·.dz) || dst.sen || !moveOk dst.fm v.rf || srcs.any (fun d => !moveOk d.fm v.f.fm) then refuse c
    else
      let per := (dst.n0 + v.C - 1) / v.C
      let N := dst.rows * per
      let cps := (List.range N).map (fun p => v.cp srcs dst (v.pieceOf dst p).2.2)
      let tot := cps.foldl (· + ·) 0
      let L := vLat v.op v.f.fm v.f.sub.toNat
      let c := { c with t := { c.t with ve := { c.t.ve with lanesFree := t0 + 6 + tot, pathFree := t0 + 6 + tot } } }
      let ts := pieceTimes cps 0 (t0 + 6)
      let c := ts.foldl (fun c x =>
        let (r, k0, len) := v.pieceOf dst x.1
        let lo := (dst.row r).toNat + k0 * dst.fm.bits / 8
        c.expect k (.mem lo (lo + fmtBytes dst.fm len - 1)) (x.2.1 + L + 2 - x.2.2) (x.2.1 + L + 1)) c
      c.taskList k ((ts.map (fun x =>
        (List.range x.2.2).map (fun i => (x.2.1 - x.2.2 + i, 10, Act.vLoad v x.1 i)) ++
        [(x.2.1, 20, Act.vGo v x.1)] ++
        (List.range x.2.2).map (fun i => (x.2.1 + L + 2 - x.2.2 + i, 30, Act.vStore v x.1 i)))).flatten)

/-- The part of a byte range that cycle i of 1,024-byte units covers, after `skip` bytes of other sources. -/
def unitPart (skip len i : Nat) : Nat × Nat :=
  let lo := max (1024 * i) skip
  let hi := min (1024 * i + 1024) (skip + len)
  (lo - skip, hi - lo)

/-- The load path, cycle i of a piece: the source pieces one after another, with the scale bytes of a scaled source in the
piece's first cycle (R185; log entry 22). -/
def Cyc.vLoad (c : Cyc) (k : Task) (v : VInst) (p i : Nat) : Cyc :=
  let dst := v.dstDesc c.t k
  let (r, k0, len) := v.pieceOf dst p
  let n := v.nDesc - 1
  ((List.range n).foldl (fun (x : Cyc × Nat) s =>
    let d := v.desc x.1.t k s
    let nb := fmtBytes d.fm len
    let (lo, cnt) := unitPart x.2 nb i
    let (c, bs) := x.1.read k ((d.row r).toNat + k0 * d.fm.bits / 8 + lo) cnt
    let c := c.cap k (50 + s) (p * 64 + i) bs
    let c := if d.sen && i = 0 then
        let (c, sc) := c.read k (d.scaleRow r + k0 / 32) ((len + 31) / 32)
        c.cap k (54 + s) p sc
      else c
    (c, x.2 + nb)) (c, 0)).1

/-- Elements of source s in a piece, converted to the operation format (R186, R46 to R49). -/
def VInst.srcElems (v : VInst) (t : Tile) (k : Task) (s p cps k0 len n : Nat) : List (Elem × Flags) :=
  let d := v.desc t k s
  let bs := ((List.range cps).map (fun i => capOf t k.seq 2 (50 + s) (p * 64 + i))).flatten
  let sc := capOf t k.seq 2 (54 + s) p
  let f := v.f
  (List.range len).map (fun i =>
    let (w, po) := packedElem d.fm bs i
    let r := rbits t f.rm.toNat v.rf i n
    if d.sen then
      let s := sc.getD (i / 32) (0, false)
      let (x, f1) := scaleVal (decAny d.fm w) s.1.toNat
      let (y, f2) := encAny f.fm f.rm.toNat f.sat f.sw r x
      (⟨k0 + i, y, po || s.2⟩, f1 ||| f2 ||| nanFlag (decAny d.fm w))
    else
      let (y, fl) := moveFmt d.fm f.fm f.rm.toNat f.sat f.sw r w
      (⟨k0 + i, y, po⟩, fl))

/-- A piece enters the lanes; its results are kept for the store path. -/
def Cyc.vGo (c : Cyc) (k : Task) (v : VInst) (p : Nat) : Cyc :=
  let f := v.f
  let dst := v.dstDesc c.t k
  let (_, k0, len) := v.pieceOf dst p
  let srcs := (List.range (v.nDesc - 1)).map (v.desc c.t k)
  let cps := v.cp srcs dst len
  let xs := v.srcElems c.t k 0 p cps k0 len c.n
  let bs := if v.nDesc = 3 then v.srcElems c.t k 1 p cps k0 len c.n else []
  let bv := v.bval c.t
  -- elements are counted from 0 within the piece for the random bits (R33)
  let loc (e : Elem) : Elem := { e with k := e.k - k0 }
  let (rs, fl) : List Elem × Flags := match v.op with
    | .segSum | .segMax | .segMin => v.segments c.t c.n (xs.map (fun a => loc a.1))
    | _ =>
      let l : List (Elem × Flags) := (List.range len).map (fun i =>
        let a := loc (xs.getD i (⟨k0 + i, 0, false⟩, 0)).1
        let b := loc (bs.getD i (⟨k0 + i, 0, false⟩, 0)).1
        v.elem c.t c.n a b ⟨i, 0, false⟩ bv)
      (l.map (·.1), fUnion (l.map (·.2)))
  let out : List (Elem × Flags) := rs.map (fun e =>
    let (w, g) := moveFmt v.rf dst.fm f.rm.toNat f.sat f.sw (rbits c.t f.rm.toNat dst.fm e.k c.n) e.bits
    ((⟨e.k, w, e.pois || (p = 0 && ckLane v.ck 1 (elemLoc v.rf 0 e.k).2.1)⟩ : Elem), g))
  let at_ := c.t.cyc + vLat v.op f.fm f.sub.toNat + 1
  let c := if p = 0 then c.veChecks k v (at_ - 1) else c
  let c := c.cap k 58 p (packElems dst.fm (out.map (·.1)))
  c.retFlags k at_ (fl ||| fUnion (xs.map (·.2)) ||| fUnion (bs.map (·.2)) ||| fUnion (out.map (·.2))) 1

/-- The store path, cycle i of a piece; a partly used last byte keeps its other bits (R249). -/
def Cyc.vStore (c : Cyc) (k : Task) (v : VInst) (p i : Nat) : Cyc :=
  let dst := v.dstDesc c.t k
  let (r, k0, len) := v.pieceOf dst p
  let off := (dst.row r).toNat + k0 * dst.fm.bits / 8
  let bs := capOf c.t k.seq 2 58 p
  let (lo, cnt) := unitPart 0 bs.length i
  let part := (bs.drop lo).take cnt
  let part := if dst.fm.bits = 4 && len % 2 = 1 && lo + cnt = bs.length && cnt ≠ 0 then
      let old := spGet c.t (off + bs.length - 1)
      let x := part.getLastD (0, false)
      part.dropLast ++ [((x.1 &&& 0x0F) ||| (old.1 &&& 0xF0), x.2)]
    else part
  c.write k (off + lo) part

/-! ### Expansion (R187) -/

/-- A part of a row: up to 8 blocks are read through the index and load paths. -/
def Cyc.vExpRead (c : Cyc) (k : Task) (v : VInst) (part : Nat) : Cyc :=
  let src := v.desc c.t k 0
  let dst := v.dstDesc c.t k
  let nb := (src.n0 + 63) / 64
  let per := (nb + 7) / 8
  let r := part / per
  let b0 := part % per * 8
  let cnt := min 8 (nb - b0)
  let doff := src.dbase + r * src.dstr + 4 * b0
  let (c, dir) := c.read k doff (if spSize < doff + 4 * cnt then 0 else 4 * cnt)
  let (c, es) := (List.range cnt).foldl (fun (x : Cyc × List (Nat × Bool)) b =>
    let e := (dir.drop (4 * b)).take 4
    let len := min 64 (src.n0 - 64 * (b0 + b))
    let bad (c : Cyc) : Cyc × List (Nat × Bool) := (c, x.2 ++ List.replicate len (0, true))
    if e.length < 4 || anyPois e || leNatP e = 0x7FFFFFFF then bad x.1
    else
      let (c, rb) := x.1.readBlock k src.fm src.base (leNatP e)
      match rb with
      | none => bad c
      | some l =>
        if l.any (·.2.2) then bad c
        else (c, x.2 ++ (l.take len).map (fun y => (if y.1 then y.2.1 else 0, false)))) (c, [])
  let bytes := packElems dst.fm (es.map (fun e => ⟨0, e.1, e.2⟩))
  c.cap k 60 part bytes

/-- The dense elements of a part are written. -/
def Cyc.vExpWrite (c : Cyc) (k : Task) (v : VInst) (part : Nat) : Cyc :=
  let dst := v.dstDesc c.t k
  let per := ((dst.n0 + 63) / 64 + 7) / 8
  let r := part / per
  c.write k ((dst.row r).toNat + part % per * 512 * dst.fm.bits / 8) (capOf c.t k.seq 2 60 part)

/-! ### The vector slot at issue (R171, R172) -/

/-- The results' regions of a count-form instruction, chunk by chunk or row by row, for the ORDER check. -/
def Cyc.vExpects (c : Cyc) (k : Task) (v : VInst) : Cyc :=
  if !c.t.seq.chk then c
  else
    let f := v.f
    let t := c.t.cyc
    let rows := f.asrc ≠ 0
    let cnt := if rows then v.accRows else v.chunks
    let per := if rows then v.perRow else v.C
    if v.op = .summary then
      let at_ := t + cnt - 1 + 5 + (if rows then 2 else 0)
      c.expect k (.sreg (0x50 + f.smd.toNat)) at_ at_
    else (List.range cnt).foldl (fun c j =>
      let hi := min ((j + 1) * per) f.cnt - 1
      let at_ := t + j * (if rows then 1 else vq v.op f.fm) + v.L - 1
      let rf : Fmt := if laneOp v.op then .raw else v.rf
      c.expects k (elemRegions rf f.vd.toNat (j * per) hi) at_) c

/-- A vector instruction issues (R170 to R173, R184, R188, R193, R196, R197). -/
def Cyc.vIssue (c : Cyc) (seq pc : Nat) (op : VOp) (f : VecF) (ck : List CheckFail) : Cyc :=
  let t := c.t.cyc
  let k : Task := ⟨t, 2, 0, seq, pc, .dzRec⟩
  let v : VInst := ⟨op, f, scalarOf c.t (f.va.toNat % 16), scalarOf c.t (f.vb.toNat % 16), scalarOf c.t (f.vd.toNat % 16), ck, t,
    c.t.ve.ptbank⟩
  let occupy (c : Cyc) (n : Nat) : Cyc := { c with t := { c.t with ve := { c.t.ve with lanesFree := t + n } } }
  let bad := c.veFlag 4 7 2 pc
  let claimed := c.t.sf.use = 1
  match op with
  | .sumClear =>
    (List.range 8).foldl (fun c i =>
      c.ret k t (.sum i (tget 0 c.t.seq.sum i &&& (if (c.free i).getLsbD 0 then 0 else -1)) false)) c
  | .ptswap =>
    if !c.fx then bad
    else if !claimed then c.veFlag 8 7 2 pc
    else
      let c := if t < c.t.ve.ptldEnd then c.event 5 2 pc else c
      { c with t := { c.t with ve := { c.t.ve with ptbank := !c.t.ve.ptbank } } }
  | _ =>
    let busy := t < c.t.ve.lanesFree
    let drop := c.veFlag 2 4 2 pc
    match op with
    | .ptld =>
      if !c.fx then bad else if !claimed then c.veFlag 8 7 2 pc
      else if v.ptBad then bad
      else if busy then drop
      else
        let nb := (f.cnt * 2 ^ f.sub.toNat + 15) / 16
        let c := occupy c nb
        { c with t := { c.t with ve := { c.t.ve with ptldEnd := t + 4 + nb } } }.task k t 20 (.vPtld v 0)
    | .ptmac =>
      if !c.fx then bad else if !claimed then c.veFlag 8 7 2 pc
      else if v.ptBad then bad
      else if busy then drop
      else
        let c := (occupy c v.chunks).vExpects k v
        c.taskList k ((List.range v.chunks).map (fun j => (t + j, 20, Act.vChunk v j)))
    | .rcmb =>
      let ne := (marr c.t f.arr.toNat).sliceN.toNat
      if v.rcBad then bad
      else if ne = 0 || 128 < f.arow.toNat + f.cnt * ne then c.veFlag 0 7 2 pc
      else if busy then drop
      else
        let c := occupy c (f.cnt * ne)
        let c := (List.range f.cnt).foldl (fun c i =>
          let at_ := t + (i + 1) * ne + 6
          if f.form then c.expect k (.mem (v.svd.toNat % 2 ^ 23 + 512 * i) (v.svd.toNat % 2 ^ 23 + 512 * i + 511)) at_ at_
          else c.expects k (elemRegions f.df f.vd.toNat (32 * i) (32 * i + 31)) at_) c
        c.taskList k ((List.range (f.cnt * ne)).map (fun q => (t + q, 20, Act.rcRow v ne q)))
    | .expand =>
      if busy then drop else
      let c := occupy c 3
      { c with t := { c.t with ve := { c.t.ve with pathFree := t + 3 } } }.taskList k
        ((List.range 2).map (fun i => (t + i, 0, Act.vDesc v i)))
    | _ =>
      if f.form then
        if !descOk op || f.fmt?.isNone || !vfmtOk op f.fm f.sub.toNat || 3 ≤ f.bsrc.toNat || f.asrc ≠ 0 ||
          (op = .cvt && !((Fmt.ofCode f.dfmt.toNat).any (fun d => regFmt d && d ≠ .raw))) then bad
        else if busy then drop
        else
          let c := occupy c 3
          { c with t := { c.t with ve := { c.t.ve with pathFree := t + 3 } } }.taskList k
            ((List.range v.nDesc).map (fun i => (t + i, 0, Act.vDesc v i)))
      else if v.countBad then bad
      else if busy then drop
      else if f.asrc ≠ 0 then
        let c := (occupy c v.accRows).vExpects k v
        c.taskList k ((List.range v.accRows).map (fun i => (t + i, 20, Act.vRow v i)))
      else
        let q := vq op f.fm
        let c := (occupy c (q * v.chunks)).vExpects k v
        c.taskList k ((List.range v.chunks).map (fun j => (t + q * j, 20, Act.vChunk v j)))

/-! ### Load/store slot (R186, R551) -/

/-- The memory format of a transfer. -/
def LInst.mem (l : LInst) : Fmt := if l.op = 3 then l.f.df else l.f.fm
/-- The register format of a transfer. -/
def LInst.reg (l : LInst) : Fmt := if l.op = 3 then l.f.fm else l.f.df
/-- Elements in a 1,024-byte unit. -/
def LInst.perUnit (l : LInst) : Nat := 8192 / l.mem.bits
/-- Units of a transfer. -/
def LInst.units (l : LInst) : Nat := (fmtBytes l.mem l.f.cnt + 1023) / 1024
/-- Elements of unit u. -/
def LInst.unitCnt (l : LInst) (u : Nat) : Nat := min l.perUnit (l.f.cnt - u * l.perUnit)

/-- The refusals of R167, R169, R186 and R551. -/
def LInst.bad (l : LInst) : Bool :=
  let n := l.f.cnt
  match Fmt.ofCode l.f.vfmt.toNat, Fmt.ofCode l.f.dfmt.toNat with
  | some _, some _ =>
    !moveOk l.mem l.reg || groupBad l.reg l.f.vr.toNat n || l.off % 64 ≠ 0 || spSize < l.off + fmtBytes l.mem n ||
    (l.op = 2 && (l.soff % 64 ≠ 0 || spSize < l.soff + (n + 31) / 32 || !scalable l.mem ||
      !(l.reg = .bf16 || l.reg = .fp16 || l.reg = .fp32)))
  | _, _ => true

/-- Unit u of a load is read; without scales its elements follow 5 cycles later. -/
def Cyc.vldUnit (c : Cyc) (k : Task) (l : LInst) (u : Nat) : Cyc :=
  let cnt := l.unitCnt u
  let (c, d) := c.read k (l.off + 1024 * u) (fmtBytes l.mem cnt)
  let c := c.cap k 70 u d
  c.task k (c.t.cyc + 1) 90 (.vldGo l u c.n)

/-- Scale bytes of a vld.s on the index path. -/
def Cyc.vldScale (c : Cyc) (k : Task) (l : LInst) (v : Nat) : Cyc :=
  let cnt := min 64 ((l.f.cnt + 31) / 32 - 64 * v)
  let (c, d) := c.read k (l.soff + 64 * v) cnt
  c.cap k 71 v d

/-- The elements of unit u are converted and on their way to the registers (R33, R46 to R49, R186). -/
def Cyc.vldGo (c : Cyc) (k : Task) (l : LInst) (u n : Nat) : Cyc :=
  let f := l.f
  let d := capOf c.t k.seq 4 70 u
  let rm := f.rm.toNat
  let rs : List (Elem × Flags) := (List.range (l.unitCnt u)).map (fun i =>
    let kk := u * l.perUnit + i
    let (w, p) := packedElem l.mem d i
    let r := rbits c.t rm l.reg kk n
    if l.op = 2 then
      let s := (capOf c.t k.seq 4 71 (kk / 32 / 64)).getD (kk / 32 % 64) (0, false)
      let (x, f1) := scaleVal (decAny l.mem w) s.1.toNat
      let (y, f2) := encF l.reg rm f.sat r x
      (⟨kk, y, p || s.2⟩, f1 ||| f2 ||| nanFlag (decAny l.mem w) ||| rmFlags rm)
    else
      let (y, fl) := moveFmt l.mem l.reg rm f.sat f.sw r w
      (⟨kk, y, p⟩, fl))
  let at_ := l.t0 + u + (if l.op = 2 then 6 else 5)
  let c := if u + 1 = l.units then { c with t := dropCaps c.t k.seq 4 } else c
  (c.ret k at_ (.vec (elemsWr l.reg f.vr.toNat (rs.map (·.1))))).retFlags k at_ (fUnion (rs.map (·.2))) 1

/-- Unit u of a store is converted and written (R33, R249, R551). -/
def Cyc.vstUnit (c : Cyc) (k : Task) (l : LInst) (u : Nat) (es : List Elem) : Cyc :=
  let f := l.f
  let rm := f.rm.toNat
  let rs := es.map (fun e =>
    let (w, fl) := moveFmt l.reg l.mem rm f.sat f.sw (rbits c.t rm l.reg e.k c.n) e.bits
    ((⟨e.k, w, e.pois⟩ : Elem), fl))
  let off := l.off + 1024 * u
  let bs := packElems l.mem (rs.map (·.1))
  let bs := if l.mem.bits = 4 && es.length % 2 = 1 then
      let old := spGet c.t (off + bs.length - 1)
      let x := bs.getLastD (0, false)
      bs.dropLast ++ [((x.1 &&& 0x0F) ||| (old.1 &&& 0xF0), x.2)]
    else bs
  (c.write k off bs).retFlags k c.t.cyc (fUnion (rs.map (·.2))) 1

/-- A compressed store: the compressor takes the block, and writes it 4 cycles later (R157). -/
def Cyc.vstZ (c : Cyc) (k : Task) (l : LInst) (es : List Elem) : Cyc :=
  let f := l.f
  let fm := c.t.dz.fm
  let rm := f.rm.toNat
  let rs := es.map (fun e =>
    let (w, fl) := moveFmt f.fm fm rm f.sat f.sw (rbits c.t rm f.fm e.k c.n) e.bits
    ((⟨e.k, w, e.pois⟩ : Elem), fl))
  let was := c.t.dz.active && c.t.dz.row < c.t.dz.rows.toNat
  let (dz, ws) := c.t.dz.accept (rs.map (·.1))
  let c := { c with t := { c.t with dz := dz } }
  let c := c.taskList k (ws.map (fun w => (c.t.cyc + 4, 50, Act.dzPut w.1 w.2)))
  if was then c.retFlags k (c.t.cyc + 4) (fUnion (rs.map (·.2))) 1 else c

/-- A load/store-slot operation issues: op values 5 to 7 are reserved and perform no operation (R551). -/
def Cyc.lsIssue (c : Cyc) (seq pc op : Nat) (f : LsF) : Cyc :=
  let t := c.t.cyc
  let k : Task := ⟨t, 4, 0, seq, pc, .dzRec⟩
  let l : LInst := ⟨op, f, (scalarOf c.t f.sa.toNat).toNat % 2 ^ 23, (scalarOf c.t f.sm.toNat).toNat % 2 ^ 23, t⟩
  let busy := t < c.t.ve.lsFree || t < c.t.ve.pathFree
  let bad := c.veFlag 4 7 4 pc
  let occupy (c : Cyc) (n : Nat) : Cyc := { c with t := { c.t with ve := { c.t.ve with lsFree := t + n } } }
  let drop := c.veFlag 2 4 4 pc
  if 5 ≤ op then bad
  else if op = 4 then
    let kk := 64 * f.e.toNat
    if f.fmt?.isNone || !regFmt f.fm || f.fm = .raw || groupBad f.fm f.vr.toNat (kk + 64) then bad
    else if busy then drop
    else
      let c := (occupy c 1).orders k (elemRegions f.fm f.vr.toNat kk (kk + 63))
      c.task k (t + 3) 50 (.vstZ l (velems c.t.ve f.fm f.vr.toNat kk 64))
  else if l.bad then bad
  else if busy then drop
  else
    let c := occupy c l.units
    if op = 3 then
      let c := c.orders k (elemRegions f.fm f.vr.toNat 0 (f.cnt - 1))
      let c := (List.range l.units).foldl (fun c u =>
        c.expect k (.mem (l.off + 1024 * u) (l.off + 1024 * u + fmtBytes l.mem (l.unitCnt u) - 1)) (t + 3 + u) (t + 3 + u)) c
      c.taskList k ((List.range l.units).map (fun u =>
        (t + 3 + u, 40, Act.vstUnit l u (velems c.t.ve f.fm f.vr.toNat (u * l.perUnit) (l.unitCnt u)))))
    else
      let c := (List.range l.units).foldl (fun c u =>
        let k0 := u * l.perUnit
        c.expects k (elemRegions l.reg f.vr.toNat k0 (k0 + l.unitCnt u - 1)) (t + u + (if op = 2 then 6 else 5))) c
      c.taskList k ((List.range l.units).map (fun u => (t + 1 + u, 20, Act.vldUnit l u)) ++
        (if op = 2 then (List.range (((f.cnt + 31) / 32 + 63) / 64)).map (fun v => (t + 1 + v, 30, Act.vldScale l v)) else []))

/-- What a task of the vector engine, the load/store slot or the compressor does in its cycle. -/
def Cyc.veAct (c : Cyc) (k : Task) : Act → Cyc
  | .vChunk v j => c.vChunk k v j
  | .vRow v i => c.vRow k v i
  | .vDesc v i => c.vDesc k v i
  | .vLoad v p i => c.vLoad k v p i
  | .vGo v p => c.vGo k v p
  | .vStore v p i => c.vStore k v p i
  | .vExpRead v p => c.vExpRead k v p
  | .vExpWrite v p => c.vExpWrite k v p
  | .vPtld v _ => c.vPtld k v
  | .rcRow v ne q => c.rcRow k v ne q
  | .rcStore v i bs => c.write k (v.svd.toNat % 2 ^ 23 + 512 * i) bs
  | .vldUnit l u => c.vldUnit k l u
  | .vldScale l v => c.vldScale k l v
  | .vldGo l u n => c.vldGo k l u n
  | .vstUnit l u es => c.vstUnit k l u es
  | .vstZ l es => c.vstZ k l es
  | .dzPut off bs => c.write k off bs
  | .dzRec => (c.write k (c.t.dz.recAddr.toNat % 2 ^ 23) (clean c.t.dz.record)).ret k c.t.cyc .dzDone
  | _ => c

end Sys2Proof.Machine
end

