-- ==== Sys2Proof/Machine/SfEngine.lean ====
section
/-! DEFINITION. The special-function pipes at work (07): function values, the user function, softmax, row statistics, grants,
count form and descriptor form, and table RAM loads. -/

namespace Sys2Proof.Machine

/-! ### Values (R208 to R218) -/

/-- The four formats of the slot (R206). -/
def sfFmt (code : Nat) : Option Fmt :=
  match Fmt.ofCode code with
  | some .bf16 => some .bf16
  | some .fp16 => some .fp16
  | some .fp32 => some .fp32
  | some .fp64 => some .fp64
  | _ => none

/-- Functions with an FP64 column (R208). -/
def sfF64 (fn : Nat) : Bool := fn = 0 || fn = 2 || fn = 4 || fn = 5 || fn = 6
/-- Functions that round under rm (R210, R218): recip, sqrt, rsqrt and user; the others ignore it. -/
def sfUsesRm (fn : Nat) : Bool := fn = 4 || fn = 5 || fn = 6 || fn = 14

/-- 1 as a value. -/
def fOne : FVal := .fin false 1 0
/-- +0 as a value. -/
def fZero : FVal := .fin false 0 0

/-- A value's integer, when it is one. -/
def FVal.int? : FVal → Option Int
  | .fin s m e =>
    let sg (k : Nat) : Int := if s then -(k : Int) else k
    if 0 ≤ e then some (sg (shl m e)) else if m % 2 ^ (-e).toNat = 0 then some (sg (m / 2 ^ (-e).toNat)) else none
  | _ => none

/-- k for a value 2^k. -/
def FVal.pow2? : FVal → Option Int
  | .fin false m e => if m ≠ 0 && m = 2 ^ (bitLen m - 1) then some (e + bitLen m - 1) else none
  | _ => none

/-- The results that R210 and R211 fix: value and flags, before the rounding; `none` where only the bound of R210 holds. -/
def sfExact (fn : Nat) (x : FVal) : Option (FVal × Flags) :=
  if fn = 4 then some (fdiv fOne x)
  else if fn = 5 then some (fsqrt x)
  else if fn = 6 then some (frsqrt x)
  else match x with
    | .nan => some (.nan, fNanIn)
    | .inf s =>
      match fn with
      | 0 | 1 | 11 => some (if s then fZero else .inf false, 0)
      | 2 | 3 => some (if s then (.nan, fInv) else (.inf false, 0))
      | 7 | 9 => some (.fin s 1 0, 0)
      | 8 => some (if s then fZero else fOne, 0)
      | 10 => some (if s then .fin true 0 0 else .inf false, 0)
      | _ => some (.nan, fInv)
    | .fin s m e =>
      if m = 0 then
        match fn with
        | 0 | 1 | 13 => some (fOne, 0)
        | 2 | 3 => some (.inf true, fDz)
        | 7 | 9 | 10 | 12 => some (x, 0)
        | 8 => some (.fin false 1 (-1), 0)
        | _ => none
      else
        match fn with
        | 1 => (FVal.int? (.fin s m e)).map (fun i => (.fin false 1 (max (-4000) (min 4000 i)), 0))
        | 2 => if s then some (.nan, fInv) else if feq x fOne then some (fZero, 0) else none
        | 3 => if s then some (.nan, fInv) else (FVal.pow2? x).map (fun k => (.ofInt k, 0))
        | _ => none

/-- The smaller and the larger of two values. -/
def fmin (a b : FVal) : FVal := (fmaxmin false a b).1
/-- The larger of two values. -/
def fmax (a b : FVal) : FVal := (fmaxmin true a b).1

/-- Up to `n` steps from encoding j to the next: each is taken when the source has reached the place of that step. -/
def climb (step : Int → Int) (key : Int) : Nat → Int → Int
  | 0, j => j
  | n + 1, j => if step j ≤ key then climb step key n (j + 1) else j

/-- A function at ±m × 2^e where R210 and R211 give no exact result: one of the encodings that the bound leaves open. The functions of R214
take the steps from one encoding to the next at fixed sources and so never step backward; softplus is never below its argument, and exp
in FP32 rounds to 0 below 2^-150 (R212). -/
def sfOpen (fn : Nat) (fo : Fmt) (sat : Bool) (s : Bool) (m : Nat) (e : Int) : Nat × Flags :=
  let x : FVal := .fin s m e
  let y := fnEncl fn s m e
  let (i, j) := leftOpen fo y.lo y.hi y.e
  let j := if fn = 0 && fo = .fp32 && !ltScaled 1 (-150) y.hi y.e then 0 else j
  let up (i : Nat) : Nat := if fn = 11 && flt (decF fo i) x then i + 1 else i
  let i := min (up (up i)) j
  let k : Nat :=
    if fn = 10 || fn = 12 || fn = 13 then i + Config.sfnPick fn fo.code (orderKey x) % (j - i + 1)
    else if y.s then (-(climb (Config.sfnStep fn fo.code) (orderKey x) (j - i) (-(j : Int)))).toNat
    else (climb (Config.sfnStep fn fo.code) (orderKey x) (j - i) i).toNat
  openBits fo y.s sat false k (encF fo 0 false 0 (.fin y.s y.lo y.e)).2

/-- A built-in function on one element: function, source format, bits, destination, rm, sat, random bits (R208 to R212). -/
def sfEval (fn : Nat) (fi : Fmt) (w : Nat) (fo : Fmt) (rm : Nat) (sat : Bool) (r : Nat) : Nat × Flags :=
  let x := decF fi w
  match sfExact fn x, x with
  | some (v, f1), _ =>
    if sfUsesRm fn then let (b, f2) := encF fo rm sat r v; (b, f1 ||| f2 ||| rmFlags rm)
    else let (b, f2) := encF fo 0 sat 0 v; (b, f1 ||| f2)
  | none, .fin s m e => sfOpen fn fo sat s m e
  | none, _ => (fo.nanBits, 0)

/-- A 32-bit field of a list of bytes. -/
def fld32 (l : List PByte) (off : Nat) : FVal := decF .fp32 (leNatP ((l.drop off).take 4))

/-- The refusals of R218 on a header. -/
def hdrBad (h : List PByte) : Bool :=
  let fin : FVal → Bool := fun v => match v with | .fin _ _ _ => true | _ => false
  let lo := fld32 h 0
  let hi := fld32 h 4
  !fin lo || !fin hi || !flt lo hi || 11 < leNatP ((h.drop 16).take 1) || 2 < leNatP ((h.drop 17).take 1)

/-- Bytes of the table RAM with their parity marks. -/
def tramGet (s : SfBlk) (off n : Nat) : List PByte := (rangeFrom off n).map (fun a => (tget 0 s.tram a, tget false s.tpar a))

/-- The user function on a value that is not NaN: the value before the rounding to ofmt, and whether a byte read had a parity
failure (R217, R218). -/
def userEval (s : SfBlk) (h : List PByte) (x : FVal) : FVal × Bool :=
  let lo := fld32 h 0
  let hi := fld32 h 4
  let k := leNatP ((h.drop 16).take 1)
  let mono := leNatP ((h.drop 17).take 1)
  let hp := anyPois h
  if flt x lo then (fld32 h 8, hp)
  else if !flt x hi then (fld32 h 12, hp)
  else
    let w := div64 (.ofNat (2 ^ k)) (sub64 hi lo)
    let u := mul64 (fadd false x lo.negate).1 w
    let fl : Nat := match u with
      | .fin false m e => if 0 ≤ e then shl m e else m / 2 ^ (-e).toNat
      | _ => 0
    let sg := min fl (2 ^ k - 1)
    let b := tramGet s (64 + 32 * sg) 32
    let v := r32 (fadd false u (FVal.ofNat sg).negate).1
    let fma (a b c : FVal) : FVal := r32 (ffma false a b c).1
    let y := fma v (fld32 b 12) (fld32 b 8)
    let y := fma v y (fld32 b 4)
    let y := fma v y (fld32 b 0)
    let ya := fld32 b 16
    let yb := fld32 b 20
    let y := match mono with
      | 1 => fmin (fmax y ya) yb
      | 2 => fmin (fmax y yb) ya
      | _ => y
    (y, hp || anyPois b)

/-! ### Softmax (R221, R222) -/

/-- 1,400 as a value. -/
def f1400 : FVal := .fin false 1400 0

/-- Whether all values of a list are equal. -/
def allEqual (l : List FVal) : Bool :=
  match l with
  | [] => true
  | x :: t => t.all (fun y => feq x y)

/-- One output of a softmax row: the row's values, the element's index, destination, rm, sat, random bits. An output is the exact 1/c when c
values are equal and the rest are below −1,400. -/
def softmaxEl (xs : List FVal) (k : Nat) (fo : Fmt) (rm : Nat) (sat : Bool) (r : Nat) : Nat × Flags :=
  if xs.any (· = .nan) then (fo.nanBits, fNanIn ||| rmFlags rm)
  else
    let low (x : FVal) : Bool := flt x f1400.negate
    let x := xs.getD k fZero
    if low x then (0, rmFlags rm)
    else
      let ys := (xs.filter (fun x => !low x)).map (fun x => fmin x f1400)
      let c := ys.length
      let exact := allEqual ys && c = 2 ^ (bitLen c - 1)
      let y : Encl := if exact then ⟨false, 1, 1, 1 - (bitLen c : Int)⟩ else softE (fmin x f1400) ys
      let (i, j) := leftOpen fo y.lo y.hi y.e
      let j := min j (fo.spec.bias * 2 ^ fo.spec.frac)
      let i := min i j
      let row := xs.map (fun x => BitVec.ofNat 64 (encF .fp64 0 false 0 x).1)
      let n := i + Config.softmaxPick row k fo.code rm r % (j - i + 1)
      let (b, fl) := openBits fo false sat (exact && n = j) n (encF fo 0 false 0 (.fin false y.lo y.e)).2
      (b, fl ||| rmFlags rm)

/-- Whether a row has a clipped source (R221). -/
def softClipped (xs : List FVal) : Bool := xs.any (fun x => flt f1400 x)
/-- Whether a row's sum is zero (R222). -/
def softZero (xs : List FVal) : Bool := xs.all (fun x => flt x f1400.negate)

/-! ### Row statistics (R224 to R227) -/

/-- A partial state (c, μ, M). -/
structure StatSt where
  c : Nat
  mu : FVal
  m : FVal
  deriving DecidableEq, Repr

/-- The empty state. -/
def StatSt.zero : StatSt := ⟨0, fZero, fZero⟩

/-- One element (R224). -/
def StatSt.step (s : StatSt) (x : FVal) : StatSt :=
  let c := s.c + 1
  let r := div64 fOne (.ofNat c)
  let d := sub64 x s.mu
  ⟨c, add64 s.mu (mul64 d r), add64 s.m (mul64 (mul64 d d) (mul64 (.ofNat (c - 1)) r))⟩

/-- A merge (R225). -/
def StatSt.merge (a b : StatSt) : StatSt :=
  if b.c = 0 then a
  else if a.c = 0 then b
  else
    let c := a.c + b.c
    let r := div64 fOne (.ofNat c)
    let d := sub64 b.mu a.mu
    let w := mul64 (.ofNat b.c) r
    ⟨c, add64 a.mu (mul64 d w), add64 (add64 a.m b.m) (mul64 (mul64 d d) (mul64 (.ofNat a.c) w))⟩

/-- One level of merges. -/
def mergeLevel : List StatSt → List StatSt
  | a :: b :: l => a.merge b :: mergeLevel l
  | l => l

/-- The state of a row: 32 partial states merged in five levels. -/
def rowStat (xs : List FVal) : StatSt :=
  let el := xs.zip (List.range xs.length)
  let st := (List.range 32).map (fun i => (el.filter (fun x => x.2 % 32 = i)).foldl (fun s x => s.step x.1) StatSt.zero)
  (mergeLevel (mergeLevel (mergeLevel (mergeLevel (mergeLevel st))))).headD StatSt.zero

/-- Both results of a row and their flags (R226, R227): opt, ε. -/
def rstatRow (xs : List FVal) (opt : BitVec 2) (eps : FVal) : FVal × FVal × Flags :=
  let isInf (v : FVal) : Bool := match v with | .inf _ => true | _ => false
  if xs.any (fun x => x = .nan || isInf x) then
    (.nan, .nan, fWhen (xs.any (· = .nan)) fNanIn ||| fWhen (xs.any isInf) fInv)
  else
    let s := rowStat xs
    let ddof := if opt[0] then 1 else 0
    if s.c ≤ ddof then (s.mu, .nan, fInv)
    else
      let v := mul64 s.m (div64 fOne (.ofNat (s.c - ddof)))
      if opt[1] then
        let (x, fl) := frsqrt (add64 v eps)
        (s.mu, r64 x, fl ||| (encF .fp64 0 false 0 x).2)
      else (s.mu, v, 0)

/-! ### Issue checks (R207, R217 to R219, R228, R231) -/

/-- Element count of a count-form instruction. -/
def SInst.cnt (i : SInst) : Nat := i.f.n.toNat + 1
/-- The source format. -/
def SInst.fi (i : SInst) : Fmt := (sfFmt i.f.ifmt.toNat).getD .fp32
/-- The destination format. -/
def SInst.fo (i : SInst) : Fmt := (sfFmt i.f.ofmt.toNat).getD .fp32
/-- The function code. -/
def SInst.fn (i : SInst) : Nat := i.f.func.toNat
/-- q of R205. -/
def SInst.q (i : SInst) : Nat := if i.fi = .fp64 then 4 else 1
/-- Chunk length. -/
def SInst.C (i : SInst) : Nat := min i.fi.perReg i.fo.perReg
/-- Chunk count. -/
def SInst.chunks (i : SInst) : Nat := (i.cnt + i.C - 1) / i.C
/-- Elements of chunk j. -/
def SInst.chunkLen (i : SInst) (j : Nat) : Nat := min i.C (i.cnt - j * i.C)
/-- Grant cycles of a set of elements (R205). -/
def SInst.grants (i : SInst) (n : Nat) : Nat := i.q * ((n + 31) / 32)
/-- The sum of the grant cycles of the first j chunks. -/
def SInst.gSum (i : SInst) (j : Nat) : Nat := (List.range j).foldl (fun g x => g + i.grants (i.chunkLen x)) 0
/-- G of R230. -/
def SInst.G (i : SInst) : Nat := i.gSum i.chunks
/-- Whether the instruction evaluates the user function. -/
def SInst.isUser (i : SInst) : Bool := i.op = 0 && i.fn = 14
/-- Whether rstat gives rstd. -/
def SInst.rstd (i : SInst) : Bool := i.f.opt[1]

/-- The refusals of R207 that set bad. -/
def SInst.bad (i : SInst) : Bool :=
  match sfFmt i.f.ifmt.toNat, sfFmt i.f.ofmt.toNat with
  | some fi, some fo =>
    (i.op = 0 && 14 < i.fn) || (fo = .fp64 && fi ≠ .fp64) || (i.op = 0 && fi = .fp64 && !sfF64 i.fn) ||
    (i.op = 1 && (fi = .fp64 || fo = .fp64)) ||
    (!i.f.form && (groupBad fi i.f.va.toNat i.cnt || (i.op ≠ 2 && groupBad fo i.f.vd.toNat i.cnt)))
  | _, _ => true

/-- A refusal: no effect but a bit of TSF_STAT, inv and src_sf (R231). -/
def Cyc.sfFlag (c : Cyc) (b : BitVec 6) (kind pc : Nat) : Cyc :=
  let c := { c with t := { c.t with sf := { c.t.sf with stat := c.t.sf.stat ||| b } } }
  (c.flags fInv 2).event kind 3 pc

/-- The slot occupied until a cycle. -/
def Cyc.sfBusy (c : Cyc) (until_ : Nat) : Cyc := { c with t := { c.t with sf := { c.t.sf with free := until_ } } }

/-- The records of failed checks (R232). -/
def Cyc.sfChecks (c : Cyc) (k : Task) (i : SInst) (at_ : Nat) : Cyc :=
  i.ck.foldl (fun c x =>
    if x.unit = 2 then
      c.ret k at_ (.check 2 (BitVec.ofNat 32 (x.stage.val * 2 ^ 27 + x.row.val % 32 * 2 ^ 22 + x.lane.val * 2 ^ 13)))
    else c) c

/-! ### Grants (R204) -/

/-- The next lane group after `g` that holds pending elements. -/
def nextGroup (pend : List (List Elem)) (g : Nat) : Nat → Option Nat
  | 0 => none
  | n + 1 =>
    let g' := (g + 1) % 32
    if (pend.getD g' []).isEmpty then nextGroup pend g' n else some g'

/-- One grant cycle: up to `n` grants; the elements granted in order, what stays pending, the last group. -/
def grantCycle : Nat → List (List Elem) → Nat → List Elem × List (List Elem) × Nat
  | 0, pend, g => ([], pend, g)
  | n + 1, pend, g =>
    match nextGroup pend g 32 with
    | none => ([], pend, g)
    | some g' =>
      match pend.getD g' [] with
      | [] => ([], pend, g)
      | e :: es =>
        let (l, p, last) := grantCycle n (pend.set g' es) g'
        (e :: l, p, last)

/-- All grant cycles of a set of pending elements: the batches in order and the last group. -/
def grantAll : Nat → List (List Elem) → Nat → List (List Elem) × Nat
  | 0, _, g => ([], g)
  | n + 1, pend, g =>
    let (l, p, g1) := grantCycle 32 pend g
    let (r, g2) := grantAll n p g1
    (l :: r, g2)

/-- The grant cycles of elements of a source format. -/
def grantPlan (fi : Fmt) (es : List Elem) (g : Nat) : List (List Elem) × Nat :=
  let pend := (List.range 32).map (fun gr => es.filter (fun e => (elemLoc fi 0 e.k).2.1 / 16 = gr))
  grantAll ((es.length + 31) / 32) pend g

/-- Numbers 0, 1, … beside the entries of a list. -/
def indexed {α : Type} (l : List α) : List (Nat × α) := (List.range l.length).zip l

/-! ### Count form -/

/-- The values of a row's captured elements. -/
def SInst.vals (i : SInst) (es : List Elem) : List FVal := es.map (fun e => decF i.fi e.bits)

/-- All source elements of a count-form softmax or rstat, captured chunk by chunk. -/
def SInst.rowEls (i : SInst) (t : Tile) (k : Task) : List Elem :=
  ((List.range i.chunks).map (fun j =>
    let d := capOf t k.seq 3 60 j
    capElems (d.length / 8) (j * i.C) d)).flatten

/-- Whether a failed check falls on an element of the first 512 lanes (R232). -/
def SInst.ckEl (i : SInst) (k : Nat) : Bool := k < i.fo.perReg && ckLane i.ck 2 (elemLoc i.fo 0 k).2.1

/-- Chunk j's source is read, and its grants follow from cycle g0 (R207, R220, R223, R230). -/
def Cyc.sfChunk (c : Cyc) (k : Task) (i : SInst) (j g0 : Nat) : Cyc :=
  let f := i.f
  let k0 := j * i.C
  let n := i.chunkLen j
  let last := j + 1 = i.chunks
  let c := c.orders k (elemRegions i.fi f.va.toNat k0 (k0 + n - 1))
  let es := velems c.t.ve i.fi f.va.toNat k0 n
  let (plan, rr) := grantPlan i.fi es c.t.sf.rr
  let c := { c with t := { c.t with sf := { c.t.sf with rr := rr } } }
  match i.op with
  | 0 =>
    let ra := i.t0 + i.gSum (j + 1) + (if i.fi = .fp64 then 19 else 10)
    let c := if j = 0 then c.sfChecks k i (ra - 1) else c
    c.taskList k ((indexed plan).map (fun p => (g0 + i.q * p.1, 20, Act.sfGrant i 0 p.1 p.2 ra)))
  | 1 =>
    let c := c.cap k 60 j (elemCap es)
    let ra := i.t0 + 2 * i.G + 31
    let c := if j = 0 then c.sfChecks k i (ra - 1) else c
    let c := c.taskList k ((indexed plan).map (fun p => (g0 + i.G + 20 + p.1, 20, Act.sfGrant i 0 p.1 p.2 ra)))
    if last then
      let xs := i.vals (i.rowEls c.t k)
      c.ret k ra (.sfstat (if softClipped xs then 1 else 0) (softZero xs))
    else c
  | _ =>
    let c := c.cap k 60 j (elemCap es)
    if last then
      let es := i.rowEls c.t k
      let (mu, v, fl) := rstatRow (i.vals es) f.opt (decF .fp32 (i.sx.toNat % 2 ^ 32))
      let ra := i.t0 + i.G + (if i.rstd then 47 else 35)
      let po := es.any (·.pois) || i.ck.any (·.unit = 2)
      let b (x : FVal) : W64 := BitVec.ofNat 64 (encF .fp64 0 false 0 x).1
      let c := c.sfChecks k i (ra - 1)
      let c := { c with t := dropCaps c.t k.seq 3 }
      ((c.ret k ra (.sum f.smd.toNat (b mu) po)).ret k ra (.sum ((f.smd.toNat + 1) % 8) (b v) po)).retFlags k ra
        (fl ||| rmFlags f.rm.toNat) 2
    else c

/-- The row that a descriptor-form instruction has read. -/
def SInst.descRow (i : SInst) (t : Tile) (k : Task) (row : Nat) : List Elem :=
  let n0 := (tdesc (capOf t k.seq 3 30 0)).n0
  let bs := ((List.range ((fmtBytes i.fi n0 + 127) / 128)).map (fun u => capOf t k.seq 3 62 (row * 4096 + u))).flatten
  (List.range n0).map (fun j => let (w, p) := packedElem i.fi bs j; ⟨j, w, p⟩)

/-- The random bits of an element of a special-function result (R207). -/
def SInst.rb (i : SInst) (t : Tile) (e n : Nat) : Nat := rbits t i.f.rm.toNat i.fo e n

/-- Results of granted elements: to the registers at the end of cycle `last`, or kept for the row's write. -/
def Cyc.sfOut (c : Cyc) (k : Task) (i : SInst) (row b last : Nat) (rs : List (Elem × Flags)) : Cyc :=
  let es := rs.map (fun r => { r.1 with pois := r.1.pois || (row = 0 && i.ckEl r.1.k) })
  let fl := fUnion (rs.map (·.2))
  if i.f.form then (c.cap k 63 (row * 4096 + b) (packElems i.fo es)).retFlags k last fl 2
  else (c.ret k last (.vec (elemsWr i.fo i.f.vd.toNat es))).retFlags k last fl 2

/-- Granted elements are evaluated in their grant cycle (R204, R207, R220, R222, R223). -/
def Cyc.sfGrant (c : Cyc) (k : Task) (i : SInst) (row b : Nat) (els : List Elem) (last : Nat) : Cyc :=
  let f := i.f
  let els := if f.form then ((i.descRow c.t k row).drop (32 * b)).take 32 else els
  if i.isUser then c.task k (c.t.cyc + 1) 21 (.sfUser i row b els last c.n)
  else if i.op = 1 then
    let all := if f.form then i.descRow c.t k row else i.rowEls c.t k
    let xs := i.vals all
    let po := all.any (·.pois)
    let c := c.sfOut k i row b last (els.map (fun e =>
      let (w, fl) := softmaxEl xs e.k i.fo f.rm.toNat f.sat (i.rb c.t e.k c.n)
      (⟨e.k, w, po⟩, fl)))
    if f.form && b = 0 then c.ret k last (.sfstat (if softClipped xs then 1 else 0) (softZero xs)) else c
  else
    c.sfOut k i row b last (els.map (fun e =>
      let (w, fl) := sfEval i.fn i.fi e.bits i.fo f.rm.toNat f.sat (i.rb c.t e.k c.n)
      (⟨e.k, w, e.pois⟩, fl)))

/-- The user function on elements granted in the cycle before, whose step of the generators was `n` (R218, R220, R232). -/
def Cyc.sfUser (c : Cyc) (k : Task) (i : SInst) (row b : Nat) (els : List Elem) (last n : Nat) : Cyc :=
  let f := i.f
  let rs : List (Elem × Flags × Bool) := els.map (fun e =>
    let x := decF i.fi e.bits
    if x = .nan then (⟨e.k, i.fo.nanBits, e.pois⟩, fNanIn ||| rmFlags f.rm.toNat, false)
    else
      let (y, bad) := userEval c.t.sf i.hdr x
      let (w, fl) := encF i.fo f.rm.toNat f.sat (i.rb c.t e.k n) y
      (⟨e.k, w, e.pois || bad⟩, fl ||| rmFlags f.rm.toNat, bad))
  let c := (indexed rs).foldl (fun c x => if x.2.2.2 then
    c.ret k (last - 1) (.check 2 (BitVec.ofNat 32 (3 * 2 ^ 27 + x.1 * 2 ^ 22 + (elemLoc i.fo 0 x.2.1.k).2.1 * 2 ^ 13))) else c) c
  c.sfOut k i row b last (rs.map (fun r => (r.1, r.2.1)))

/-! ### Descriptor form (R228, R229) -/

/-- T_r of R229 for a row of ℓ elements. -/
def SInst.rowTime (i : SInst) (l : Nat) : Nat :=
  match i.op with
  | 0 => i.grants l
  | 1 => 2 * ((l + 31) / 32) + 20
  | _ => i.grants l + 30 + (if i.rstd then 12 else 0)
/-- z of R229. -/
def SInst.z (i : SInst) : Nat := match i.op with | 0 => (if i.fi = .fp64 then 22 else 13) | 1 => 14 | _ => 8

/-- A descriptor is read; after the second both are checked and the rows placed (R184, R228, R229). -/
def Cyc.sfDesc (c : Cyc) (k : Task) (i : SInst) (j : Nat) : Cyc :=
  let off := (if j = 0 then i.sva else i.svd).toNat % 2 ^ 23
  let (c, d) := c.read k off (if off % 64 = 0 then 64 else 0)
  let c := c.cap k 30 j d
  if j = 0 then c
  else
    let s := tdesc (capOf c.t k.seq 3 30 0)
    let d := tdesc (capOf c.t k.seq 3 30 1)
    let mis := i.sva.toNat % 64 ≠ 0 || i.svd.toNat % 64 ≠ 0
    let shape := if i.op = 2 then d.n0 = 2 && s.ndim = d.ndim && s.nd = d.nd else s.sameShape d
    if mis || s.bad || d.bad || !shape || s.sen || d.sen || s.dz || d.dz || s.fmtC ≠ i.f.ifmt.toNat || d.fmtC ≠ i.f.ofmt.toNat ||
      (i.op ≠ 0 && 65536 < s.n0) then (c.sfBusy (c.t.cyc + 1)).sfFlag 4 7 k.pc
    else
      let T := i.rowTime s.n0
      let R := s.rows
      let rb := (fmtBytes i.fi s.n0 + 127) / 128
      let wb := (fmtBytes i.fo d.n0 + 127) / 128
      let c := c.sfBusy (i.t0 + 6 + R * T)
      let gr := (s.n0 + 31) / 32
      (List.range R).foldl (fun c r =>
        let sr := i.t0 + 6 + r * T
        let fin := sr + T + i.z - 1
        let lo := (d.row r).toNat
        let c := c.expect k (.mem lo (lo + fmtBytes i.fo d.n0 - 1)) (fin + 1 - wb) fin
        let c := if r = 0 then c.sfChecks k i (fin - 1) else c
        let c := c.taskList k ((List.range rb).map (fun u => (sr - 2 + u, 10, Act.sfRead i r u)))
        let c := match i.op with
          | 0 => c.taskList k ((List.range gr).map (fun b => (sr + i.q * b, 20, Act.sfGrant i r b [] (fin - 1))))
          | 1 => c.taskList k ((List.range gr).map (fun b => (sr + gr + 20 + b, 20, Act.sfGrant i r b [] (fin - 1))))
          | _ => c.task k (sr + T) 20 (.sfStat i r)
        c.taskList k ((List.range wb).map (fun u => (fin + 1 - wb + u, 30, Act.sfWrite i r u)))) c

/-- Unit u of a source row: 128 bytes of it. -/
def Cyc.sfRead (c : Cyc) (k : Task) (i : SInst) (row u : Nat) : Cyc :=
  let s := tdesc (capOf c.t k.seq 3 30 0)
  let (c, bs) := c.read k ((s.row row).toNat + 128 * u) (min 128 (fmtBytes i.fi s.n0 - 128 * u))
  c.cap k 62 (row * 4096 + u) bs

/-- Both results of a row of rstat (R226). -/
def Cyc.sfStat (c : Cyc) (k : Task) (i : SInst) (row : Nat) : Cyc :=
  let f := i.f
  let es := i.descRow c.t k row
  let (mu, v, fl) := rstatRow (i.vals es) f.opt (decF .fp32 (i.sx.toNat % 2 ^ 32))
  let po := es.any (·.pois) || (row = 0 && i.ck.any (·.unit = 2))
  let out (x : FVal) (j : Nat) : Elem × Flags :=
    let (w, g) := encF i.fo f.rm.toNat f.sat (i.rb c.t j c.n) x
    (⟨j, w, po⟩, g)
  let a := out mu 0
  let b := out v 1
  (c.cap k 63 (row * 4096) (packElems i.fo [a.1, b.1])).retFlags k (c.t.cyc + 6) (fl ||| a.2 ||| b.2 ||| rmFlags f.rm.toNat) 2

/-- Unit u of a result row is written. -/
def Cyc.sfWrite (c : Cyc) (k : Task) (row u : Nat) : Cyc :=
  let d := tdesc (capOf c.t k.seq 3 30 1)
  let gr := (d.n0 + 31) / 32
  let bs := ((List.range gr).map (fun b => capOf c.t k.seq 3 63 (row * 4096 + b))).flatten
  c.write k ((d.row row).toNat + 128 * u) ((bs.drop (128 * u)).take 128)

/-! ### The slot at issue -/

/-- A special-function instruction issues (R206, R207, R217 to R219, R228 to R231). -/
def Cyc.sfIssue (c : Cyc) (seq pc op : Nat) (f : SfF) (ck : List CheckFail) : Cyc :=
  let t := c.t.cyc
  let k : Task := ⟨t, 3, 0, seq, pc, .dzRec⟩
  let i : SInst := ⟨op, f, scalarOf c.t (f.va.toNat % 16), scalarOf c.t (f.vd.toNat % 16), scalarOf c.t f.sx.toNat, ck, t,
    tramGet c.t.sf 0 64⟩
  let claimed := c.t.sf.use = 2
  let busy := t < c.t.sf.free
  let drop := c.sfFlag 2 4 pc
  if 4 ≤ op then c.sfFlag 4 7 pc
  else if op = 3 then
    let n := i.cnt
    let so := i.sva.toNat % 2 ^ 23
    let dst := i.svd.toNat
    if !claimed then c.sfFlag 0x20 7 pc
    else if so % 64 ≠ 0 || dst % 64 ≠ 0 || spSize < so + 64 * n || 0x20000 < dst + 64 * n then c.sfFlag 4 7 pc
    else if busy then drop
    else
      let c := c.sfBusy (t + n)
      let c := (List.range n).foldl (fun c u => c.expect k (.tram (dst + 64 * u) (dst + 64 * u + 63)) (t + 2 + u) (t + 2 + u)) c
      c.taskList k ((List.range n).map (fun u => (t + 2 + u, 10, Act.sfldUnit (so + 64 * u) (dst + 64 * u))))
  else if i.isUser && !claimed then c.sfFlag 0x20 7 pc
  else if i.bad || (i.isUser && hdrBad i.hdr) then c.sfFlag 4 7 pc
  else if busy then drop
  else if f.form then
    (c.sfBusy (t + 2)).taskList k [(t, 0, Act.sfDesc i 0), (t + 1, 0, Act.sfDesc i 1)]
  else
    let G := i.G
    let c := c.sfBusy (t + (match op with | 0 => G | 1 => 2 * G + 20 | _ => G + 30 + (if i.rstd then 12 else 0)))
    let c := match op with
      | 2 =>
        let at_ := t + G + (if i.rstd then 47 else 35)
        (c.expect k (.sreg (0x50 + f.smd.toNat)) at_ at_).expect k (.sreg (0x50 + (f.smd.toNat + 1) % 8)) at_ at_
      | _ => (List.range i.chunks).foldl (fun c j =>
          let at_ : Nat := if op = 1 then t + 2 * G + 31 else t + i.gSum (j + 1) + (if i.fi = Fmt.fp64 then 19 else 10)
          c.expects k (elemRegions i.fo f.vd.toNat (j * i.C) (j * i.C + i.chunkLen j - 1)) at_) c
    c.taskList k ((List.range i.chunks).map (fun j => (t + i.gSum j, 5, Act.sfChunk i j (t + 1 + i.gSum j))))

/-- What a task of the pipes does in its cycle. -/
def Cyc.sfAct (c : Cyc) (k : Task) : Act → Cyc
  | .sfChunk i j g0 => c.sfChunk k i j g0
  | .sfGrant i row b els last => c.sfGrant k i row b els last
  | .sfUser i row b els last n => c.sfUser k i row b els last n
  | .sfDesc i j => c.sfDesc k i j
  | .sfRead i row u => c.sfRead k i row u
  | .sfStat i row => c.sfStat k i row
  | .sfWrite _ row u => c.sfWrite k row u
  | .sfldUnit src dst =>
    let (c, bs) := c.read k src 64
    c.ret k c.t.cyc (.tram dst bs)
  | _ => c

end Sys2Proof.Machine
end

