-- ==== Sys2Proof/Machine/SeqEngine.lean ====
section
/-! DEFINITION. The sequencer slot and the DMA slot (R299 to R313, R550), phase timers (R515), waits and halts (R93, R94). -/

namespace Sys2Proof.Machine

/-- What the sequencer slot of a bundle does to issue: go on, jump (a taken branch), skip (a loop of count 0), halt, wait. -/
inductive SeqOut where
  | go
  | jump (target : Nat)
  | skip (target : Nat)
  | halt (trap : Option W32) (mc fault : Bool)
  | block (w : WaitFor)
  deriving DecidableEq, Repr

/-- A reserved operation or operand: trap 0xFFFF_0002 (R302, R303, R550). -/
def SeqOut.reserved : SeqOut := .halt (some 0xFFFF0002#32) false true

/-- A source operand: its value, or why the sequencer halts: a reserved code, or a summary register with poison (R181, R302). -/
def readSrc (t : Tile) (code : Nat) (imm : BitVec 24) : Except SeqOut W64 :=
  match srcOperand t code imm with
  | none => .error .reserved
  | some v =>
    if 0x50 ≤ code ∧ code < 0x58 ∧ t.ve.sumpois.getLsbD (code - 0x50) then .error (.halt none true false) else .ok v

/-- Reads of a source operand for the ORDER check; event counters are outside it (R315). -/
def Cyc.noteSrc (c : Cyc) (k : Task) (code : Nat) : Cyc :=
  if code < 0x10 ∨ (0x50 ≤ code ∧ code < 0x58) then c.order k (.sreg code) else c

/-- A result on its way to a destination operand (R302): a loop counter ignores it and sets lwr, an event in checked mode when
the counter is live (R312, R315). -/
def Cyc.seqDst (c : Cyc) (k : Task) (d L : Nat) (v : W64) : Cyc :=
  match dstKind d with
  | .loopCounter =>
    let c := { c with t := hazSet c.t 4#32 }
    if c.t.seq.loops.any (·.k = d - 0x58) then c.event 6 0 k.pc else c
  | _ =>
    let at_ := c.t.cyc + L - 1
    (if d < 0x10 then c.expect k (.sreg d) at_ at_ else c).ret k at_ (.sreg d v)

/-- The fourteen operations of op 0x10 to 0x1D, as sop of R280: mov, add, sub, mul, and, or, xor, shl, shr, sra, min, max, minu,
maxu; shifts use the low 6 bits. -/
def sop (op : Nat) (a b : W64) : W64 :=
  let n := b.toNat % 64
  match op with
  | 0 => b
  | 1 => a + b
  | 2 => a - b
  | 3 => a * b
  | 4 => a &&& b
  | 5 => a ||| b
  | 6 => a ^^^ b
  | 7 => a <<< n
  | 8 => a >>> n
  | 9 => a.sshiftRight n
  | 10 => if a.toInt ≤ b.toInt then a else b
  | 11 => if a.toInt ≤ b.toInt then b else a
  | 12 => if a.toNat ≤ b.toNat then a else b
  | _ => if a.toNat ≤ b.toNat then b else a

/-- The comparison of bcc (R303): kind 0 signed, 1 unsigned, 2 FP64. -/
def bccHolds (kind sub : Nat) (a b : W64) : Bool :=
  match kind with
  | 0 => icmp sub a.toInt b.toInt
  | 1 => icmp sub (a.toNat : Int) (b.toNat : Int)
  | _ => fcmp sub (decF .fp64 a.toNat) (decF .fp64 b.toNat)

/-- A phase timer stopped (R515); a stop of a stopped timer has no effect. -/
def PhTimer.stop (p : PhTimer) : PhTimer :=
  if p.run then { p with run := false, sum := p.sum + p.cnt, ivl := if p.ivl = 0xFFF#12 then p.ivl else p.ivl + 1 } else p
/-- A phase timer started; a running one is stopped first (R515). -/
def PhTimer.start (p : PhTimer) (tag : BitVec 16) : PhTimer := { p.stop with run := true, cnt := 0, tag := tag }

/-- A phase start or stop of a tile's timer; each stop sends a record to the hub when export is set (R515, R516). -/
def phaseOp (t : Tile) (n : Fin 8) (stop : Bool) (tag : BitVec 16) : Tile :=
  let p := tphOf t n.val
  { t with
    outs := if p.run && t.tphExport then t.outs ++ [.phase n p.tag p.cnt] else t.outs
    tph := tset PhTimer.zero t.tph n.val (if stop then p.stop else p.start tag) }

/-- Whether the condition of a wait or fence holds in this cycle (R92, R303). -/
def waitHolds (t : Tile) : WaitFor → Bool
  | .comparator n => cond t n.val
  | .fence =>
    t.dma.all (fun p => p.2.st = .idle) && t.evOut = [] &&
    t.tasks.all (fun k => match k.act with | .dmaImg _ _ => false | _ => true)

/-- The register reads that ORDER (R315) sees for an operation of the sequencer slot. -/
def Cyc.noteSeq (c : Cyc) (k : Task) (op : Nat) (f : SeqF) : Cyc :=
  match op with
  | 0 | 1 | 2 | 0x1F | 0x30 | 0x32 | 0x40 | 0x4A | 0x50 => c
  | 0x10 | 0x42 | 0x43 => c.noteSrc k f.b.toNat
  | 0x1E | 0x20 | 0x38 | 0x48 | 0x49 => c.noteSrc k f.a.toNat
  | _ => (c.noteSrc k f.a.toNat).noteSrc k f.b.toNat

/-- Operand a read, for an operation that goes on with its value. -/
def Cyc.withA (c : Cyc) (f : SeqF) (go : W64 → Cyc × SeqOut) : Cyc × SeqOut :=
  match readSrc c.t f.a.toNat f.imm with
  | .error e => (c, e)
  | .ok x => go x

/-- Operand b read. -/
def Cyc.withB (c : Cyc) (f : SeqF) (go : W64 → Cyc × SeqOut) : Cyc × SeqOut :=
  match readSrc c.t f.b.toNat f.imm with
  | .error e => (c, e)
  | .ok y => go y

/-- An operation that writes operand d traps when that is no register (R302). -/
def Cyc.withD (c : Cyc) (f : SeqF) (r : Cyc × SeqOut) : Cyc × SeqOut :=
  if dstKind f.d.toNat = .trap then (c, .reserved) else r

/-- Ops 0x10 to 0x1D (R303): the value of `sop`; mul has latency 3. -/
def Cyc.seqAlu (c : Cyc) (k : Task) (op : Nat) (f : SeqF) : Cyc × SeqOut :=
  let put (x y : W64) : Cyc × SeqOut := (c.seqDst k f.d.toNat (if op = 0x13 then 3 else 1) (sop (op - 0x10) x y), .go)
  c.withD f (if op = 0x10 then c.withB f (put 0) else c.withA f (fun x => c.withB f (put x)))

/-- The bytes of an access of ld or st, or the trap 0xFFFF_0006 of one that passes the end of the scratchpad (R303). -/
def Cyc.seqMem (c : Cyc) (f : SeqF) (x : W64) (go : Nat → Nat → Cyc) : Cyc × SeqOut :=
  let off := (x + f.imm.signExtend 64).toNat
  let len := 2 ^ (f.sub.toNat % 4)
  if spSize < off + len then (c, .halt (some 0xFFFF0006#32) false true) else (go off len, .go)

/-- ld: reads in the next cycle and retires in the fourth (R303). -/
def Cyc.seqLd (c : Cyc) (k : Task) (f : SeqF) : Cyc × SeqOut :=
  let d := f.d.toNat
  c.withD f (c.withA f (fun x => c.seqMem f x (fun off len =>
    (if d < 0x10 then c.expect k (.sreg d) (c.t.cyc + 3) (c.t.cyc + 3) else c).task k (c.t.cyc + 1) 0 (.ld d off len f.sub[2]))))

/-- st: writes in the next cycle (R303). -/
def Cyc.seqSt (c : Cyc) (k : Task) (f : SeqF) : Cyc × SeqOut :=
  c.withA f (fun x => c.withB f (fun y => c.seqMem f x (fun off len =>
    (c.expect k (.mem off (off + len - 1)) (c.t.cyc + 1) (c.t.cyc + 1)).task k (c.t.cyc + 1) 0 (.st off (leBytes len y.toNat)))))

/-- bcc: the kind of comparison is in d, the relation in sub (R303). -/
def Cyc.seqBcc (c : Cyc) (f : SeqF) : Cyc × SeqOut :=
  if 5 < f.sub.toNat ∨ 2 < f.d.toNat then (c, .reserved)
  else c.withA f (fun x => c.withB f (fun y =>
    (c, if bccHolds f.d.toNat f.sub.toNat x y then .jump (f.imm.toNat % 2048) else .go)))

/-- loop (R311, R312): the counter is set and the loop opens, or its body is skipped; a live counter is not set again. -/
def Cyc.seqLoop (c : Cyc) (pc : Nat) (f : SeqF) : Cyc × SeqOut :=
  let d := f.d.toNat
  let a := f.a.toNat
  let e := f.imm.toNat % 2048
  if !(0x58 ≤ d && d < 0x5C) || e ≤ pc || !(a < 0x50 || a = 0x7F) then (c, .reserved)
  else if c.t.seq.loops.any (·.k = d - 0x58) then (({ c with t := hazSet c.t 4#32 }).event 6 0 pc, .go)
  else
    let cnt : W32 := if a = 0x7F then BitVec.ofNat 32 (f.imm.toNat / 2048) else
      ((srcOperand c.t a f.imm).getD 0).truncate 32
    let sq := { c.t.seq with loop := tset 0 c.t.seq.loop (d - 0x58) cnt }
    if cnt = 0 then ({ c with t := { c.t with seq := sq } }, .skip ((e + 1) % 2048))
    else ({ c with t := { c.t with seq := { sq with loops := ⟨d - 0x58, pc, e⟩ :: sq.loops } } }, .go)

/-- cmpset (R303): source and enable from a and imm, the threshold from b. -/
def Cyc.seqCmpset (c : Cyc) (k : Task) (f : SeqF) : Cyc × SeqOut :=
  let a := f.a.toNat
  if !(a < 0x10 || (0x60 ≤ a && a < 0x70)) then (c, .reserved)
  else c.withB f (fun y =>
    let sel : W32 := (if f.sub[2] then 0 else 0x100#32) ||| (if a < 0x10 then 0x10#32 else 0) ||| BitVec.ofNat 32 (a % 16)
    (c.ret k c.t.cyc (.cmp (f.sub.toNat % 4) sel (y.truncate 32)), .go))

/-- evadd: a wrapping add to an event counter, or to register d (R303). -/
def Cyc.seqEvadd (c : Cyc) (k : Task) (f : SeqF) : Cyc × SeqOut :=
  let d := f.d.toNat
  c.withD f (c.withB f (fun y =>
    if 0x60 ≤ d then (c.ret k c.t.cyc (.evAdd (d - 0x60) (y.truncate 32)), .go)
    else (c.seqDst k d 1 ((srcOperand c.t d f.imm).getD 0 + y), .go)))

/-- sig: an EVT message to the tile that a names, for the counter that d names (R303). -/
def Cyc.seqSig (c : Cyc) (f : SeqF) : Cyc × SeqOut :=
  let d := f.d.toNat
  if !(0x60 ≤ d && d < 0x70) then (c, .reserved)
  else c.withA f (fun x =>
    let m : EvtMsg := ⟨.tile ⟨c.id % 256, Nat.mod_lt _ (by omega)⟩, ⟨x.toNat % 256, Nat.mod_lt _ (by omega)⟩,
      ⟨(d - 0x60) % 16, Nat.mod_lt _ (by omega)⟩, f.imm.truncate 16⟩
    ({ c with t := { c.t with evOut := c.t.evOut ++ [(m, f.imm[16])] } }, .go))

/-- A wait or fence: the sequencer goes on when the condition holds, else it waits (R93, R303). -/
def Cyc.seqWaitFor (c : Cyc) (w : WaitFor) : Cyc × SeqOut := (c, if waitHolds c.t w then .go else .block w)

/-- The comparator that sub names. -/
def cmpOf (f : SeqF) : Fin 4 := ⟨f.sub.toNat % 4, Nat.mod_lt _ (by omega)⟩

/-- The sequencer slot of a bundle at address `pc` (R303): op and fields. -/
def Cyc.seqSlot (c : Cyc) (seq pc op : Nat) (f : SeqF) : Cyc × SeqOut :=
  let k : Task := ⟨c.t.cyc, 0, 0, seq, pc, .dzRec⟩
  let c := c.noteSeq k op f
  if 0x10 ≤ op ∧ op ≤ 0x1D then c.seqAlu k op f
  else match op with
    | 0 => (c, .go)
    | 1 => (c, .halt none false false)
    | 2 => (c, .halt (some (f.imm.signExtend 32)) false true)
    | 0x1E => c.withD f (c.withA f (fun x => (c.seqDst k f.d.toNat 1 ((f.imm.signExtend 64 <<< 24) + (x &&& 0xFFFFFF#64)), .go)))
    | 0x1F => c.withD f (c.seqDst k f.d.toNat 1 (c.idReg.zeroExtend 64), .go)
    | 0x20 => c.seqLd k f
    | 0x21 => c.seqSt k f
    | 0x30 => (c, .jump (f.imm.toNat % 2048))
    | 0x31 => c.seqBcc f
    | 0x32 => (c, if cond c.t (cmpOf f).val then .jump (f.imm.toNat % 2048) else .go)
    | 0x38 => c.seqLoop pc f
    | 0x40 => c.seqWaitFor (.comparator (cmpOf f))
    | 0x41 => c.seqCmpset k f
    | 0x42 => c.withD f (c.withB f (fun y => (c.seqDst k f.d.toNat 1 y, .go)))
    | 0x43 => c.seqEvadd k f
    | 0x48 => c.seqSig f
    | 0x49 => c.withA f (fun x => ({ c with t := { c.t with outs := c.t.outs ++ [.hsig (f.imm.truncate 16) x] } }, .go))
    | 0x4A => c.seqWaitFor .fence
    | 0x50 => ({ c with t := phaseOp c.t ⟨f.imm.toNat / 2 ^ 16 % 8, Nat.mod_lt _ (by omega)⟩ f.imm[19] (f.imm.truncate 16) }, .go)
    | _ => (c, .reserved)

/-- The sequencer slot's accesses in their port A cycle: the ld's data, the st's bytes (R303, R310). -/
def Cyc.seqAct (c : Cyc) (k : Task) : Act → Cyc
  | .ld d off len zx =>
    let (c, bs) := c.read k off len
    let v := leNatP bs
    let x : W64 := if !zx && 2 ^ (8 * len - 1) ≤ v then BitVec.ofNat 64 (v + (2 ^ 64 - 2 ^ (8 * len))) else BitVec.ofNat 64 v
    match dstKind d with
    | .loopCounter => ({ c with t := hazSet c.t 4#32 })
    | _ => c.ret k (c.t.cyc + 2) (.sreg d x)
  | .st off bs => c.write k off (clean bs)
  | _ => c

/-! ### The DMA slot (R301) -/

/-- What a channel's ending does to its tile (R389): the channel, TDMA_IRQ, and the increment of this cycle. -/
def Cyc.dmaEnd (c : Cyc) (n : Nat) (e : DmaEnd) : Cyc :=
  let t := setTdma c.t n e.c
  let t := if e.irq then { t with dmaIrq := t.dmaIrq ||| (1#8 <<< n) } else t
  { c with t := t, incs := if e.inc then c.incs ++ [(e.c.ev, BitVec.ofNat 32 e.c.inc)] else c.incs }

/-- The DMA slot at issue: start reads its image in the next cycle; abort and disable act at once; others trap. -/
def Cyc.dmaSlot (c : Cyc) (seq pc op ch sr : Nat) : Cyc × Bool :=
  let k : Task := ⟨c.t.cyc, 5, 0, seq, pc, .dzRec⟩
  match op with
  | 0 => (c, false)
  | 1 => (c.task k (c.t.cyc + 1) 0 (.dmaImg ch ((scalarOf c.t sr).toNat % 2 ^ 23)), false)
  | 2 => (c.dmaEnd ch (tdma c.t ch).abort, false)
  | 3 => (c.dmaEnd ch ((tdma c.t ch).disable ((c.free (40 + ch)).truncate 40)), false)
  | _ => (c, true)

/-- The eight words of an image. -/
def imageWords (d : List PByte) : List W64 :=
  (List.range 8).map (fun i => BitVec.ofNat 64 (leNatP ((d.drop (8 * i)).take 8)))

/-- The channel image is read and the channel started (R301, R379). -/
def Cyc.dmaImg (c : Cyc) (k : Task) (ch off : Nat) : Cyc :=
  let ch0 := tdma c.t ch
  if off % 64 ≠ 0 then
    if ch0.st ≠ .idle then c.dmaEnd ch { c := { ch0 with again := true } } else c.dmaEnd ch (ch0.finish 6)
  else
    let (c, d) := c.read k off 64
    if ch0.st ≠ .idle then c.dmaEnd ch { c := { ch0 with again := true } }
    else c.dmaEnd ch ((ch0.load (imageWords d)).start false)

/-! ### Loops, halts and waits -/

/-- Live loops left after a transfer to a bundle (R312). -/
def loopsAt (l : List LoopRec) (target : Nat) : List LoopRec := l.filter (fun r => r.a < target && target ≤ r.e)

/-- The loop-back at an end bundle (R312): the loops that end here, innermost first; answers the counters, the live loops and the
next bundle. -/
def loopBack (pc : Nat) : List LoopRec → Tab W32 → Tab W32 × List LoopRec × Nat
  | [], m => (m, [], (pc + 1) % 2048)
  | r :: rs, m =>
    if r.e = pc then
      let v := tget 0 m r.k
      if 1 < v.toNat then (tset 0 m r.k (v - 1), loopsAt (r :: rs) (r.a + 1), r.a + 1)
      else loopBack pc rs (tset 0 m r.k 0)
    else
      let (m', l, n) := loopBack pc rs m
      (m', (if n = (pc + 1) % 2048 then r :: l else if r.a < n && n ≤ r.e then r :: l else l), n)

/-- A halt with its trap code and latches (R305, R318, R472, R508). -/
def haltWith (t : Tile) (trap : Option W32) (mc fault : Bool) : Tile :=
  let t := haltSeq t
  { t with seq := { t.seq with
      trap := trap.getD t.seq.trap, mcHalt := t.seq.mcHalt || mc, faultHalt := t.seq.faultHalt || fault
      trapHalt := t.seq.trapHalt || trap.isSome } }

/-- TSEQ_WAITFLT of a timed-out wait or fence (R94, R104). -/
def waitFltOf : WaitFor → W32
  | .comparator n => 0x80000000#32 ||| BitVec.ofNat 32 (n.val * 2 ^ 16)
  | .fence => 0x80040000#32

/-- A wait or fence reaches TSEQ_WAITLIM (R94). -/
def waitTimeout (t : Tile) (w : WaitFor) : Tile :=
  let t := lateHalt t
  { t with seq := { t.seq with waitflt := waitFltOf w, faultHalt := true } }

/-- A Waiting sequencer in one cycle: it resumes 3 cycles after the condition is true, or halts at the limit (R93, R94). -/
def pollWait (t : Tile) : Tile :=
  match t.seq.st, t.seq.wait with
  | .waiting, some w =>
    let last := t.seq.waitAt + t.seq.waitlim.toNat - 1
    if (t.seq.waitlim = 0 ∨ t.cyc ≤ last) ∧ waitHolds t w then
      { t with seq := { t.seq with st := .running, wait := none, nextAt := t.cyc + 3 } }
    else if t.seq.waitlim ≠ 0 ∧ last ≤ t.cyc then waitTimeout t w
    else t
  | _, _ => t

/-- Whether an ld that reads in this cycle finds poison (R528). -/
def poisonLd (t : Tile) : Bool :=
  t.tasks.any (fun k => k.at_ ≤ t.cyc && (match k.act with | .ld _ off len _ => anyPois (spRead t off len) | _ => false))

/-- A Running or Waiting sequencer whose ld found poison halts without issuing the next bundle (R528). -/
def checkLd (t : Tile) : Tile :=
  if poisonLd t then
    let t := { t with tasks := t.tasks.filter (fun k => !(k.at_ ≤ t.cyc && (match k.act with | .ld _ _ _ _ => true | _ => false))) }
    if t.seq.st = .halted then t
    else
      let t := lateHalt t
      { t with seq := { t.seq with trap := 0xFFFF0005#32, mcHalt := true } }
  else t

end Sys2Proof.Machine
end

