-- ==== Sys2Proof/Machine/TileEngine.lean ====
section
/-! DEFINITION. One tile running (10): the layout of a bundle, the issue of its six slots, one cycle of the tile, and the run
of cycles that a command of the tile takes. -/

namespace Sys2Proof.Machine

/-! ### Bundles (R298 to R300) -/

/-- The operations of a bundle, slot by slot; `none` is NOP. The vector slot's operation may be one that no number names. -/
structure BundleOps where
  seq : Nat × SeqF := (0, ⟨0, 0, 0, 0, 0⟩)
  mx : Option (MxKind × MxF) := none
  ve : Option (Option VOp × VecF) := none
  sf : Option (Nat × SfF) := none
  ls : Option (Nat × LsF) := none
  dma : Nat × Nat × Nat := (0, 0, 0)
  deriving DecidableEq, Repr

/-- The matrix operation of a code. -/
def mxKindOf : Nat → Option MxKind
  | 1 => some .mma
  | 2 => some .accld
  | 3 => some .accst
  | _ => none

/-- The vector slot's fields (R300), from bundle bits. -/
def vecFields (b : BitVec 256) : VecF :=
  { form := b[72], vfmt := b.extractLsb' 73 4, dfmt := b.extractLsb' 77 4, n := b.extractLsb' 81 12
    vd := b.extractLsb' 93 5, va := b.extractLsb' 98 5, vb := b.extractLsb' 103 5, vc := b.extractLsb' 108 5
    asrc := b.extractLsb' 113 2, bsrc := b.extractLsb' 115 2, arr := b.extractLsb' 117 2, arow := b.extractLsb' 119 7
    sub := b.extractLsb' 126 4, rm := b.extractLsb' 130 3, sat := b[133], sw := b[134], smd := b.extractLsb' 135 3 }

/-- The special-function slot's fields (R300). -/
def sfFields (b : BitVec 256) : SfF :=
  { func := b.extractLsb' 143 5, form := b[148], ifmt := b.extractLsb' 149 4, ofmt := b.extractLsb' 153 4
    n := b.extractLsb' 157 12, vd := b.extractLsb' 169 5, va := b.extractLsb' 174 5, sx := b.extractLsb' 179 4
    rm := b.extractLsb' 183 3, sat := b[186], smd := b.extractLsb' 187 3, opt := b.extractLsb' 190 2 }

/-- The load/store slot's fields (R300). -/
def lsFields (b : BitVec 256) : LsF :=
  { vfmt := b.extractLsb' 195 4, dfmt := b.extractLsb' 199 4, n := b.extractLsb' 203 12, vr := b.extractLsb' 215 5
    sa := b.extractLsb' 220 4, sm := b.extractLsb' 224 4, rm := b.extractLsb' 228 3, sat := b[231], sw := b[232]
    e := b.extractLsb' 233 6 }

/-- A bundle's slots (R298, R299). -/
def bundleOps (b : BitVec 256) : BundleOps :=
  { seq := ((b.extractLsb' 0 8).toNat,
      { d := b.extractLsb' 8 7, a := b.extractLsb' 15 7, b := b.extractLsb' 22 7, sub := b.extractLsb' 29 3, imm := b.extractLsb' 32 24 })
    mx := (mxKindOf (b.extractLsb' 56 2).toNat).map (·, { arr := ⟨(b.extractLsb' 58 2).toNat, (b.extractLsb' 58 2).isLt⟩, sr := b.extractLsb' 60 4 })
    ve := if b.extractLsb' 64 8 = 0 then none else some (vopOfIndex (Config.vecOpIndex (b.extractLsb' 64 8)), vecFields b)
    sf := if b.extractLsb' 140 52 = 0 then none else some ((b.extractLsb' 140 3).toNat, sfFields b)
    ls := if b.extractLsb' 192 3 = 0 then none else some ((b.extractLsb' 192 3).toNat, lsFields b)
    dma := ((b.extractLsb' 240 3).toNat, (b.extractLsb' 243 3).toNat, (b.extractLsb' 246 4).toNat) }

/-! ### Issue -/

/-- The tile after the issue of a bundle: the address and loop counters that a late halt goes back to, and the next cycle of issue
(R305, R313). -/
def issued (t : Tile) : Tile :=
  { t with
    seqNo := t.seqNo + 1
    seq := { t.seq with undo := some ((t.seq.pc.toNat + 1) % 2048, t.seq.loop), nextAt := t.cyc + 1 } }

/-- After a bundle without a transfer the pc moves on, or a live loop that ends there goes back (R305, R312). -/
def goOn (t : Tile) : Tile :=
  let lb := loopBack t.seq.pc.toNat t.seq.loops t.seq.loop
  { t with seq := { t.seq with pc := BitVec.ofNat 11 lb.2.2, loop := lb.1, loops := lb.2.1 } }

/-- A taken branch: the pc takes the target, two cycles pass, and only the live loops around the target stay live (R303, R312). -/
def jumpTo (t : Tile) (n : Nat) : Tile :=
  { t with seq := { t.seq with pc := BitVec.ofNat 11 n, nextAt := t.cyc + 2, loops := loopsAt t.seq.loops n } }

/-- A loop of count zero: its body is skipped (R311). -/
def skipTo (t : Tile) (n : Nat) : Tile := { t with seq := { t.seq with pc := BitVec.ofNat 11 n, nextAt := t.cyc + 2 } }

/-- A halt by the bundle itself: the pc is that of the next bundle (R305). -/
def haltAt (t : Tile) (trap : Option W32) (mc fault : Bool) : Tile :=
  haltWith { t with seq := { t.seq with pc := BitVec.ofNat 11 ((t.seq.pc.toNat + 1) % 2048) } } trap mc fault

/-- A wait or fence that blocks: the sequencer waits from this cycle on; with a limit of one cycle it halts at once (R93, R94). -/
def blockOn (t : Tile) (w : WaitFor) : Tile :=
  let t : Tile := goOn t
  let t : Tile := { t with seq := { t.seq with st := .waiting, wait := some w, waitAt := t.cyc } }
  if t.seq.waitlim = 1 then waitTimeout t w else t

/-- What the sequencer slot of a bundle does to issue. -/
def SeqOut.apply (o : SeqOut) (t : Tile) : Tile :=
  match o with
  | .halt trap mc fault => haltAt t trap mc fault
  | .jump n => jumpTo t n
  | .skip n => skipTo t n
  | .go => goOn t
  | .block w => blockOn t w

/-- The six slots of the bundle at the pc issue, in the order of slots (R298, R305); then the sequencer goes on, jumps, waits or
halts. -/
def Cyc.issue (c : Cyc) (o : BundleOps) (ck : List CheckFail) : Cyc :=
  let pc := c.t.seq.pc.toNat
  let sq := c.t.seqNo
  let r := c.seqSlot sq pc o.seq.1 o.seq.2
  let out := r.2
  let c := match o.mx with | some m => r.1.mxIssue sq pc m.1 m.2 (ck.filter (·.unit = 0)) | none => r.1
  let c := match o.ve with
    | some (some op, f) => c.vIssue sq pc op f (ck.filter (·.unit = 1))
    | some (none, _) => c.veFlag 4 7 2 pc
    | none => c
  let c := match o.sf with | some (op, f) => c.sfIssue sq pc op f (ck.filter (·.unit = 2)) | none => c
  let c := match o.ls with | some (op, f) => c.lsIssue sq pc op f | none => c
  let d := c.dmaSlot sq pc o.dma.1 o.dma.2.1 o.dma.2.2
  let out := match out with
    | .halt _ _ _ => out
    | _ => if d.2 then .reserved else out
  { d.1 with t := out.apply (issued d.1.t) }

/-! ### A cycle -/

/-- What a task does in its cycle. -/
def Cyc.act (c : Cyc) (k : Task) : Cyc :=
  match k.act with
  | .ld _ _ _ _ | .st _ _ => c.seqAct k k.act
  | .dmaImg ch off => c.dmaImg k ch off
  | .sfChunk _ _ _ | .sfGrant _ _ _ _ _ | .sfUser _ _ _ _ _ _ | .sfDesc _ _ | .sfRead _ _ _ | .sfStat _ _ | .sfWrite _ _ _
  | .sfldUnit _ _ => c.sfAct k k.act
  | .vChunk _ _ | .vRow _ _ | .vDesc _ _ | .vLoad _ _ _ | .vGo _ _ | .vStore _ _ _ | .vExpRead _ _ | .vExpWrite _ _
  | .vPtld _ _ | .rcRow _ _ _ | .rcStore _ _ _ | .vldUnit _ _ | .vldScale _ _ | .vldGo _ _ _ | .vstUnit _ _ _ | .vstZ _ _
  | .dzPut _ _ | .dzRec => c.veAct k k.act
  | _ => c.mxAct k k.act

/-- The tasks due in this cycle, in the order of slots and ranks (R309, R310). -/
def Cyc.runTasks (c : Cyc) : Cyc :=
  let due := (c.t.tasks.filter (·.at_ ≤ c.t.cyc)).foldl (fun l k => insTask k l) []
  let c := { c with t := { c.t with tasks := c.t.tasks.filter (fun k => !(k.at_ ≤ c.t.cyc)) } }
  due.foldl Cyc.act c

/-- What a tile's cycle needs from outside the tile: whether the part has the FX units, the tile's number, TSEQ_ID. -/
structure TileEnv where
  fx : Bool
  id : Nat
  idReg : W32
  deriving DecidableEq, Repr

/-- The tile at the beginning of a cycle. -/
def TileEnv.cyc (e : TileEnv) (t : Tile) : Cyc := { t := t, fx := e.fx, id := e.id, idReg := e.idReg }

/-- Whether a bundle may issue in this cycle. -/
def ready (t : Tile) : Bool := t.power = .noon && t.seq.st = .running && t.seq.nextAt ≤ t.cyc

/-- A cycle in which no bundle issues (the work in flight goes on). -/
def idleCycle (e : TileEnv) (t : Tile) : Tile :=
  ((e.cyc (checkLd (pollWait t))).runTasks).finish

/-- A cycle in which a bundle with the given operations issues; a poisoned ld halts before it (R528). -/
def opCycle (e : TileEnv) (o : BundleOps) (ck : List CheckFail) (t : Tile) : Tile :=
  let t := checkLd t
  if ready t then ((((e.cyc t).issue o ck)).runTasks).finish
  else ((e.cyc t).runTasks).finish

/-- `n` cycles without issue. -/
def idleCycles (e : TileEnv) : Nat → Tile → Tile
  | 0, t => t
  | n + 1, t => idleCycles e n (idleCycle e t)

/-- Cycles without issue while the tile has work in flight and is before cycle `last`. -/
def drainTo (e : TileEnv) (last : Nat) : Nat → Tile → Tile
  | 0, t => t
  | n + 1, t => if t.cyc < last then drainTo e last n (idleCycle e t) else t

/-- The tile brought to the first cycle in which its next bundle may issue. -/
def toIssue (e : TileEnv) (t : Tile) : Tile := idleCycles e (t.seq.nextAt - t.cyc) t

/-- One bundle that holds the given operations issues; a tile that is not Noon and Running does nothing (log entry 14). -/
def issueOps (e : TileEnv) (o : BundleOps) (ck : List CheckFail) (t : Tile) : Tile :=
  if t.power = .noon ∧ t.seq.st = .running then opCycle e o ck (toIssue e t) else t

/-- The next bundle of the bundle store issues (R300, R304): one with an uncorrectable word halts the sequencer instead. -/
def issueBundle (e : TileEnv) (ck : List CheckFail) (t : Tile) : Tile :=
  if t.power = .noon ∧ t.seq.st = .running then
    let t := toIssue e t
    if t.seq.st = .running ∧ tget false t.seq.storeBad t.seq.pc.toNat then idleCycle e (haltWith t none true false)
    else opCycle e (bundleOps (tget 0 t.seq.store t.seq.pc.toNat)) ck t
  else t

/-- A Waiting sequencer runs until it is Running again and may issue, or halts, for at most `n` cycles (R93, R94). -/
def runWait (e : TileEnv) : Nat → Tile → Tile
  | 0, t => t
  | n + 1, t => if t.seq.st = .waiting then runWait e n (idleCycle e t) else t

/-- The cycle in which the next work in flight falls due; the current one when there is none. -/
def nextDue (t : Tile) : Nat :=
  match t.tasks.map (·.at_) ++ t.rets.map (·.at_) with
  | [] => t.cyc
  | x :: xs => xs.foldl min x

/-- Cycles without issue up to and with the first in which work in flight is due (R116, R200, R230, R307). -/
def retireNext (e : TileEnv) (t : Tile) : Tile := if t.tasks = [] ∧ t.rets = [] then t else idleCycles e (nextDue t + 1 - t.cyc) t

end Sys2Proof.Machine
end

