-- ==== Sys2Proof/Machine/TileRegs.lean ====
section
/-! DEFINITION. The register window of a tile (R103, R104, R139, R162, R201, R233, R317, R378, R391, R519): decoding an offset, reading
a register, what a read of an RC register clears, and what a write does. -/

namespace Sys2Proof.Machine

/-- Which part of a register an access reaches (R547): the low half of a 64-bit register, its high half, or the register. A 32-bit
register is always whole. -/
inductive Part where
  | lo | hi | all
  deriving DecidableEq, Repr

/-- A 64-bit value with the written half replaced (R547). -/
def Part.merge (p : Part) (old v : W64) : W64 :=
  match p with
  | .lo => (old &&& 0xFFFFFFFF00000000#64) ||| (v &&& 0xFFFFFFFF#64)
  | .hi => (old &&& 0xFFFFFFFF#64) ||| (v <<< 32)
  | .all => v

/-- The bits of a 64-bit value that the access reaches, shifted to where the access carries them. -/
def Part.pick (p : Part) (v : W64) : W64 :=
  match p with
  | .lo => v &&& 0xFFFFFFFF#64
  | .hi => v >>> 32
  | .all => v

/-- A mask of the register bits that the access reaches. -/
def Part.mask : Part → W64
  | .lo => 0xFFFFFFFF#64
  | .hi => 0xFFFFFFFF00000000#64
  | .all => 0xFFFFFFFFFFFFFFFF#64

/-- Place of an offset in an array of registers: base, stride, count; answers the index and the offset in the element. -/
def arrIx (off base stride count : Nat) : Option (Nat × Nat) :=
  if base ≤ off ∧ off < base + stride * count then some ((off - base) / stride, (off - base) % stride) else none

/-- The registers of a tile window. -/
inductive TReg where
  | id | ctrl | codebase | codelen | pc | numflags | haz | chkflt | trap
  | evcnt (n : Nat) | cmpsel (n : Nat) | cmpthr (n : Nat) | waitlim | waitflt | mesherr
  | param (n : Nat) | scalar (n : Nat) | sum (n : Nat) | loop (n : Nat)
  | mxClken | mxStat (n : Nat) | mxReserr | mxErrcnt
  | veCtrl | veStat | rngctl | rngseed | veReserr | veErrcnt
  | dzCfg | dzRows | dzData | dzLim | dzDir | dzDstr | dzRec | dzPos | dzNnz | dzElem | dzOcc | dzPass | dzStat
  | sfStat | tpage | smsat | claim | sfReserr | sfErrcnt | tram (off : Nat)
  | dmaWord (n i : Nat) | dmaStat (n : Nat) | dmaRes (n : Nat) | dmaIrq
  | phCtl (n : Nat) | phCnt (n : Nat) | phSum (n : Nat) | phCfg
  deriving DecidableEq, Repr

/-- Whether a register is 64 bits wide. -/
def TReg.wide : TReg → Bool
  | .param _ | .scalar _ | .sum _ | .rngseed | .dzNnz | .dzElem | .dzPass | .dmaWord _ _ | .dmaRes _ | .phCnt _ | .phSum _ => true
  | _ => false

/-- TSEQ_ offsets (R104, R317). -/
def seqReg (o : Nat) : Option TReg :=
  match o with
  | 0x00 => some .id | 0x10 => some .ctrl | 0x20 => some .codebase | 0x24 => some .codelen | 0x28 => some .pc
  | 0x40 => some .numflags | 0x48 => some .haz | 0x50 => some .chkflt | 0x58 => some .trap
  | 0x300 => some .waitlim | 0x308 => some .waitflt | 0x310 => some .mesherr
  | _ =>
    match arrIx o 0x100 4 16, arrIx o 0x200 8 4, arrIx o 0x400 8 64, arrIx o 0x600 8 16, arrIx o 0x680 8 8, arrIx o 0x6C0 4 4 with
    | some (n, _), _, _, _, _, _ => some (.evcnt n)
    | _, some (n, r), _, _, _, _ => some (if r = 0 then .cmpsel n else .cmpthr n)
    | _, _, some (n, _), _, _, _ => some (.param n)
    | _, _, _, some (n, _), _, _ => some (.scalar n)
    | _, _, _, _, some (n, _), _ => some (.sum n)
    | _, _, _, _, _, some (n, _) => some (.loop n)
    | _, _, _, _, _, _ => none

/-- TMX_ offsets (R139). -/
def mxReg (o : Nat) : Option TReg :=
  match o with
  | 0x00 => some .mxClken | 0x40 => some .mxReserr | 0x44 => some .mxErrcnt
  | _ => (arrIx o 0x10 4 4).map (fun x => .mxStat x.1)

/-- TVE_ offsets (R162, R201). -/
def veReg (o : Nat) : Option TReg :=
  match o with
  | 0x00 => some .veCtrl | 0x04 => some .veStat | 0x10 => some .rngctl | 0x18 => some .rngseed | 0x1C => some .rngseed
  | 0x40 => some .veReserr | 0x44 => some .veErrcnt
  | 0x800 => some .dzCfg | 0x804 => some .dzRows | 0x808 => some .dzData | 0x80C => some .dzLim | 0x810 => some .dzDir
  | 0x814 => some .dzDstr | 0x818 => some .dzRec | 0x81C => some .dzPos | 0x820 => some .dzNnz | 0x824 => some .dzNnz
  | 0x828 => some .dzElem | 0x82C => some .dzElem | 0x830 => some .dzOcc | 0x838 => some .dzPass | 0x83C => some .dzPass
  | 0x840 => some .dzStat
  | _ => none

/-- TSF_ offsets (R233, R507). -/
def sfReg (o : Nat) : Option TReg :=
  match o with
  | 0x00 => some .sfStat | 0x04 => some .tpage | 0x10 => some .smsat | 0x20 => some .claim
  | 0x40 => some .sfReserr | 0x44 => some .sfErrcnt
  | _ => if 0x8000 ≤ o ∧ o < 0x10000 then some (.tram (o - 0x8000)) else none

/-- TDMA_ offsets (R378, R391). -/
def dmaReg (o : Nat) : Option TReg :=
  if o = 0x800 then some .dmaIrq
  else if o < 0x400 then
    let n := o / 0x80
    let r := o % 0x80
    if r < 0x40 then some (.dmaWord n (r / 8)) else if r = 0x40 then some (.dmaStat n)
    else if r = 0x48 ∨ r = 0x4C then some (.dmaRes n) else none
  else none

/-- TPH_ offsets (R519). -/
def phReg (o : Nat) : Option TReg :=
  if o = 0x100 then some .phCfg
  else if o < 0x100 then
    match o % 0x20 with
    | 0x00 => some (.phCtl (o / 0x20))
    | 0x08 | 0x0C => some (.phCnt (o / 0x20))
    | 0x10 | 0x14 => some (.phSum (o / 0x20))
    | _ => none
  else none

/-- The register at a 4-byte-aligned window offset at or above 0x0080_0000; `none`: reserved (R103). -/
def tileReg (off : Nat) : Option TReg :=
  let o := off % 0x10000
  match (off - 0x800000) / 0x10000 with
  | 0 => seqReg o
  | 1 => mxReg o
  | 2 => veReg o
  | 3 => sfReg o
  | 4 => dmaReg o
  | 5 => phReg o
  | _ => none

/-- A Boolean as a bit of a 64-bit register. -/
def bit (b : Bool) (i : Nat) : W64 := if b then 1#64 <<< i else 0

/-- A number placed at bit i of a 64-bit register. -/
def fld (v i : Nat) : W64 := BitVec.ofNat 64 (v * 2 ^ i)

/-- The code of a sequencer state (R317). -/
def SeqSt.code : SeqSt → Nat
  | .halted => 0 | .loading => 1 | .running => 2 | .waiting => 3

/-- The layout of a phase timer's control register (R519). -/
def PhTimer.ctl (p : PhTimer) : W64 := bit p.run 31 ||| fld p.ivl.toNat 16 ||| fld p.tag.toNat 0

/-- Eight bytes from a table, little-endian. -/
def bytesAt (m : Tab Byte) (a n : Nat) : W64 := BitVec.ofNat 64 (leNat (tgetList 0 m a n))

/-- Word i of a channel (R378); bits 2:0 of word 7 read as zero. -/
def DmaCh.word (c : DmaCh) : Nat → W64
  | 0 => c.src | 1 => c.dst | 2 => c.cnt | 3 => c.sstr | 4 => c.sstr2 | 5 => c.dstr | 6 => c.dstr2
  | _ => c.ctrl

/-- Channel with word i replaced; reserved bits drop (R12, log entry 23). `sys`: a system channel, whose control has evtile and evoff
(R393). -/
def DmaCh.setWord (c : DmaCh) (sys : Bool) (i : Nat) (v : W64) : DmaCh :=
  match i with
  | 0 => { c with src := v &&& 0xFFFFFFFFFFFF#64 }
  | 1 => { c with dst := v &&& 0xFFFFFFFFFFFF#64 }
  | 2 => { c with cnt := v }
  | 3 => { c with sstr := v }
  | 4 => { c with sstr2 := v &&& 0xFFFFFFFF#64 }
  | 5 => { c with dstr := v }
  | 6 => { c with dstr2 := v }
  | _ => { c with ctrl := v &&& (if sys then 0xFFFFFFFF000003F8#64 else 0xFFFFFF00000001F8#64) }

/-- The value of a tile register (R11: write-only fields read zero). -/
def tregRead (e : TileEnv) (t : Tile) : TReg → W64
  | .id => e.idReg.zeroExtend 64
  | .ctrl => bit (tileIdle t) 31 ||| fld t.seq.st.code 29 ||| bit t.seq.valid 28 ||| bit t.seq.chk 2
  | .codebase => t.seq.codebase.zeroExtend 64
  | .codelen => t.seq.codelen.zeroExtend 64
  | .pc => t.seq.pc.zeroExtend 64
  | .numflags => t.seq.numflags.zeroExtend 64
  | .haz => t.seq.haz.zeroExtend 64
  | .chkflt => t.seq.chkflt.zeroExtend 64
  | .trap => t.seq.trap.zeroExtend 64
  | .evcnt n => (tget 0 t.seq.ev n).zeroExtend 64
  | .cmpsel n => (tget 0 t.seq.cmpsel n).zeroExtend 64
  | .cmpthr n => (tget 0 t.seq.cmpthr n).zeroExtend 64
  | .waitlim => t.seq.waitlim.zeroExtend 64
  | .waitflt => t.seq.waitflt.zeroExtend 64
  | .mesherr => fld t.seq.gatedReq.toNat 16 ||| fld t.seq.xpartEvt.toNat 0
  | .param n => tget 0 t.seq.param n
  | .scalar n => tget 0 t.seq.scalar n
  | .sum n => tget 0 t.seq.sum n
  | .loop n => (tget 0 t.seq.loop n).zeroExtend 64
  | .mxClken => t.mx.clken.zeroExtend 64
  | .mxStat n =>
    let a := marr t n
    bit a.run.isSome 31 ||| bit a.pend.isSome 30 ||| fld a.amode.toNat 28 ||| fld a.sliceN.toNat 24 ||| fld a.stat.toNat 0
  | .mxReserr => t.mx.reserr.zeroExtend 64
  | .mxErrcnt => t.mx.errcnt.zeroExtend 64
  | .veCtrl => bit t.ve.clrBusy 31
  | .veStat => fld t.ve.sumpois.toNat 24 ||| bit t.ve.ptbank 8 ||| fld t.ve.stat.toNat 0
  | .rngctl => bit t.ve.rngBusy 31 ||| bit t.ve.rngFixed 1
  | .rngseed => t.ve.seed
  | .veReserr => t.ve.reserr.zeroExtend 64
  | .veErrcnt => t.ve.errcnt.zeroExtend 64
  | .dzCfg => bit t.dz.active 28 ||| fld t.dz.fmt.toNat 24 ||| fld t.dz.rowlen.toNat 0
  | .dzRows => t.dz.rows.zeroExtend 64
  | .dzData => t.dz.data.zeroExtend 64
  | .dzLim => t.dz.lim.zeroExtend 64
  | .dzDir => t.dz.dir.zeroExtend 64
  | .dzDstr => t.dz.dstr.zeroExtend 64
  | .dzRec => t.dz.recAddr.zeroExtend 64
  | .dzPos => t.dz.pos.zeroExtend 64
  | .dzNnz => t.dz.nnz
  | .dzElem => t.dz.elem
  | .dzOcc => t.dz.occ.zeroExtend 64
  | .dzPass => t.dz.pass
  | .dzStat => t.dz.stat.zeroExtend 64
  | .sfStat => t.sf.stat.zeroExtend 64
  | .tpage => t.sf.tpage.zeroExtend 64
  | .smsat => t.sf.smsat.zeroExtend 64
  | .claim => t.sf.claim.zeroExtend 64
  | .sfReserr => t.sf.reserr.zeroExtend 64
  | .sfErrcnt => t.sf.errcnt.zeroExtend 64
  | .tram o => bytesAt t.sf.tram (t.sf.tpage.toNat * 0x8000 + o) 4
  | .dmaWord n i => (tdma t n).word i
  | .dmaStat n => (tdma t n).statReg.zeroExtend 64
  | .dmaRes n => (tdma t n).res.zeroExtend 64
  | .dmaIrq => t.dmaIrq.zeroExtend 64
  | .phCtl n => (tphOf t n).ctl
  | .phCnt n => (tphOf t n).cnt
  | .phSum n => (tphOf t n).sum
  | .phCfg => bit t.tphExport 0

/-- What a read of an RC register clears (R11). -/
def tregRc (t : Tile) : TReg → Tile
  | .mesherr => { t with seq := { t.seq with gatedReq := 0, xpartEvt := 0 } }
  | .mxErrcnt => { t with mx := { t.mx with errcnt := 0 } }
  | .veErrcnt => { t with ve := { t.ve with errcnt := 0 } }
  | .sfErrcnt => { t with sf := { t.sf with errcnt := 0 } }
  | .smsat => { t with sf := { t.sf with smsat := 0 } }
  | _ => t

/-! ### Commands behind register fields -/

/-- A start of the sequencer (R304, R305): a copy, a start with the kept bundle store, or badstart. A tile that is not in Noon starts
nothing (R495). -/
def seqStart (keep : Bool) (t : Tile) : Tile :=
  let t := { t with seq := { t.seq with faultHalt := false, trapHalt := false } }
  let bad := { t with seq := { t.seq with haz := t.seq.haz ||| 0x10#32 } }
  let copies := !keep || !t.seq.valid
  let len := t.seq.codelen.toNat % 4096
  if t.power ≠ .noon then bad
  else if copies && (len = 0 || 2048 < len || spSize < t.seq.codebase.toNat + 32 * len) then bad
  else
    let s := { t.seq with loop := [], loops := [], mcHalt := false, pc := 0, undo := none, wait := none }
    if copies then
      { t with seq := { s with st := .loading, valid := false, nextAt := t.cyc + 8 + (len + 31) / 32 } }
    else { t with seq := { s with st := .running, nextAt := t.cyc + 7 } }

/-- A stop (R305): a copy in progress is abandoned, a Running or Waiting sequencer halts before its next bundle. -/
def seqStop (t : Tile) : Tile := if t.seq.st = .halted then t else haltSeq t

/-- A write of TSEQ_CTRL (R305, R314, R317). -/
def ctrlWrite (v : W64) (t : Tile) : Tile :=
  if t.seq.st = .halted then
    let t := { t with seq := { t.seq with chk := v[2] } }
    if v[0] then seqStart v[3] t else t
  else if v[1] then seqStop t else t

/-- The bundle-store copy completes (R304): the bundles are read from the scratchpad, one with a poisoned word is marked. -/
def codeCopied (t : Tile) : Tile :=
  if t.seq.st ≠ .loading then t
  else
    let len := t.seq.codelen.toNat % 4096
    let base := t.seq.codebase.toNat
    let bundles := (List.range len).map (fun i => spRead t (base + 32 * i) 32)
    { t with seq := { t.seq with
        st := .running, valid := true, nextAt := t.cyc
        store := tsetList 0 [] 0 (bundles.map (fun b => BitVec.ofNat 256 (leNatP b)))
        storeBad := tsetList false [] 0 (bundles.map anyPois) } }

/-- The operations of an array abandoned (R140): their work in flight goes, and the entries of the blocks whose descriptors have been
read are poisoned, visible to reads from the second cycle on. -/
def abandonArray (t : Tile) (n : Nat) : Tile :=
  let a := marr t n
  let ops := a.run.toList ++ a.pend.toList
  let mine (seq slot : Nat) : Bool := slot = 1 && ops.any (·.seq = seq)
  let isDesc (x : Act) : Bool := match x with | .mxDesc m _ _ _ => m = n | _ => false
  let idx := ops.flatMap (fun o => (List.range o.rows).flatMap (fun i => (List.range o.n).map (fun j => (o.ab + i) * 32 + j)))
  let pois (m : Tab AccE) : Tab AccE := idx.foldl (fun m i => tset AccE.zero m i { tget AccE.zero m i with pois := true }) m
  let rets := t.rets.filter (fun r => !mine r.seq r.slot)
  let seen := idx.map (fun i => (⟨t.cyc + 1, 1, t.seqNo, 0, .acc n i { tget AccE.zero a.acc i with pois := true }⟩ : Ret))
  setMarr { t with
    tasks := t.tasks.filter (fun k => !mine k.seq k.slot && !isDesc k.act)
    rets := rets ++ seen
    exps := t.exps.filter (fun e => !mine e.seq e.slot) } n
    { a with run := none, pend := none, fwd := pois a.fwd }

/-- A write of TMX_CLKEN (R139, R140). -/
def clkenWrite (v : BitVec 4) (t : Tile) : Tile :=
  let off := fun (t : Tile) (n : Nat) => if t.mx.clken.getLsbD n && !v.getLsbD n then abandonArray t n else t
  let t := [0, 1, 2, 3].foldl off t
  { t with mx := { t.mx with clken := v } }

/-- A write of TVE_DZCFG (R158, R159, R162): abort before close before open. -/
def dzCfgWrite (v : W64) (t : Tile) : Tile :=
  let d := { t.dz with fmt := v.extractLsb' 24 4, rowlen := v.extractLsb' 0 24 }
  if v[29] then { t with dz := { d with active := false } }
  else if v[30] then
    if d.active then { t with dz := d, tasks := t.tasks ++ [⟨t.cyc + 11, 4, 0, t.seqNo, 0, .dzRec⟩] } else { t with dz := d }
  else if v[31] then { t with dz := d.openCmd }
  else { t with dz := d }

/-- TVE_CTRL.clr (R201): registers, summaries and product-table banks zero with poison clear; busy for 64 cycles. -/
def veClear (t : Tile) : Tile :=
  { t with
    seq := { t.seq with sum := [] }
    sf := { t.sf with tram := [], tpar := [] }
    ve := { t.ve with clrBusy := true, vreg := [], vpois := [], sumpois := 0 } }

/-- TVE_RNGCTL.reseed (R191): the lanes take their states; busy for at most 256 cycles. `d`: the next draw of the entropy source. -/
def rngReseedOp (fixed : Bool) (d : Nat) (t : Tile) : Tile :=
  { t with ve := { t.ve with rngBusy := true, rngFixed := fixed, rngN := 0, rng := rngLoad fixed t.ve.seed d } }

/-- A claims register under a command (R506): register, tag of the writer, value written, whether the mode permits the use, and
whether the writer may claim at all. The result field shows the last command. -/
def claimCmd (old : W32) (g : Tag) (v : W32) (modeOk mayClaim : Bool) : W32 :=
  let use := v &&& 0xF#32
  let res (r : Nat) (w : W32) : W32 := (w &&& ~~~(0x30000000#32)) ||| BitVec.ofNat 32 (r * 2 ^ 28)
  match v.toNat / 2 ^ 30 with
  | 1 =>
    if !mayClaim then res 2 old
    else if old &&& 0xF#32 ≠ 0 then res 1 old
    else if use = 0 then res 0 old
    else if !modeOk then res 3 old
    else (if g.fw then 0x00800000#32 else 0) ||| BitVec.ofNat 32 (g.part % 4 * 2 ^ 20) |||
      BitVec.ofNat 32 (g.ctx % 16 * 2 ^ 16) ||| use
  | 2 =>
    if old &&& 0xF#32 = 0 then res 0 old
    else if g.fw || (!old[23] && (old.toNat / 2 ^ 20) % 4 = g.part && (old.toNat / 2 ^ 16) % 16 = g.ctx) then 0
    else res 2 old
  | _ => old

/-- A write of TDMA_CTRLn or SDMA_CTRLn, word 7 (R378, R379): disable before abort before start. `free`: the residue after a
disable. -/
def dmaCtrlWrite (sys : Bool) (v : W64) (free : BitVec 40) (c : DmaCh) : DmaEnd :=
  let c := if c.st = .idle then c.setWord sys 7 v else c
  if v[2] then c.disable free else if v[1] then c.abort else if v[0] then c.start sys else { c := c }

/-- A channel's ending reaches its tile (R389): the channel, TDMA_IRQ, the event increment. -/
def tileDmaEnd (t : Tile) (n : Nat) (e : DmaEnd) : Tile :=
  let t := setTdma t n e.c
  let t := if e.irq then { t with dmaIrq := t.dmaIrq ||| (1#8 <<< n) } else t
  if e.inc then evInc t e.c.ev (BitVec.ofNat 32 e.c.inc) else t

/-- What a register write answers: the tile, the status of R102, and the entropy draws taken. -/
structure TWrite where
  t : Tile
  status : Nat := 0
  ent : Nat := 0
  deriving DecidableEq, Repr

/-- A register that is written only while the sequencer is halted (R90). -/
def whileHalted (t : Tile) (f : Tile) : TWrite := if t.seq.st = .halted then { t := f } else { t := t, status := 4 }

/-- W1C bits of a first-failure record: bit 31 clears valid and over, bit 30 clears over. -/
def recW1c (r : W32) (v : W64) : W32 :=
  if v[31] then r &&& 0x3FFFFFFF#32 else if v[30] then r &&& 0xBFFFFFFF#32 else r

/-- What a write of a tile register does (R11): the tag of the writer, the register, the part written, the value in the register's
place; `d` is the next draw of the entropy source, `free` a free value. -/
def tregWrite (t : Tile) (g : Tag) (r : TReg) (p : Part) (v : W64) (d : Nat) (free : W64) : TWrite :=
  let w : W32 := v.truncate 32
  let sq := t.seq
  match r with
  | .ctrl => { t := ctrlWrite v t }
  | .codebase => whileHalted t { t with seq := { sq with codebase := w &&& 0x7FFFFF#32 } }
  | .codelen => whileHalted t { t with seq := { sq with codelen := w &&& 0xFFF#32 } }
  | .numflags => { t := { t with seq := { sq with numflags := sq.numflags &&& ~~~w } } }
  | .haz =>
    let h := if w[31] then sq.haz &&& 0x000FFFFF#32 else sq.haz
    { t := { t with seq := { sq with haz := h &&& ~~~(w &&& 0x1E#32) } } }
  | .chkflt => { t := { t with seq := { sq with chkflt := recW1c sq.chkflt v } } }
  | .evcnt n => whileHalted t { t with seq := { sq with ev := tset 0 sq.ev n w } }
  | .cmpsel n => { t := { t with seq := { sq with cmpsel := tset 0 sq.cmpsel n (w &&& 0x11F#32) } } }
  | .cmpthr n => { t := { t with seq := { sq with cmpthr := tset 0 sq.cmpthr n w } } }
  | .waitlim => { t := { t with seq := { sq with waitlim := w } } }
  | .waitflt => { t := { t with seq := { sq with waitflt := if w[31] then sq.waitflt &&& 0x7FFFFFFF#32 else sq.waitflt } } }
  | .param n => whileHalted t { t with seq := { sq with param := tset 0 sq.param n (p.merge (tget 0 sq.param n) v) } }
  | .scalar n => whileHalted t { t with seq := { sq with scalar := tset 0 sq.scalar n (p.merge (tget 0 sq.scalar n) v) } }
  | .mxClken => { t := clkenWrite (v.truncate 4) t }
  | .mxStat n => { t := setMarr t n { marr t n with stat := (marr t n).stat &&& ~~~(v.truncate 5 &&& 0x1E#5) } }
  | .mxReserr => { t := { t with mx := { t.mx with reserr := recW1c t.mx.reserr v } } }
  | .veCtrl => if v[0] then (if sq.st = .halted then { t := veClear t } else { t := t, status := 4 }) else { t := t }
  | .veStat => { t := { t with ve := { t.ve with stat := t.ve.stat &&& ~~~(v.truncate 5 &&& 0x1E#5) } } }
  | .rngctl =>
    if v[0] then
      if sq.st = .halted then { t := rngReseedOp v[1] d t, ent := if v[1] then 0 else 512 } else { t := t, status := 4 }
    else { t := { t with ve := { t.ve with rngFixed := v[1] } } }
  | .rngseed => { t := { t with ve := { t.ve with seed := p.merge t.ve.seed v } } }
  | .veReserr => { t := { t with ve := { t.ve with reserr := recW1c t.ve.reserr v } } }
  | .dzCfg => { t := dzCfgWrite v t }
  | .dzRows => { t := { t with dz := { t.dz with rows := w } } }
  | .dzData => { t := { t with dz := { t.dz with data := w &&& 0x7FFFFF#32 } } }
  | .dzLim => { t := { t with dz := { t.dz with lim := w } } }
  | .dzDir => { t := { t with dz := { t.dz with dir := w &&& 0x7FFFFF#32 } } }
  | .dzDstr => { t := { t with dz := { t.dz with dstr := w } } }
  | .dzRec => { t := { t with dz := { t.dz with recAddr := w &&& 0x7FFFFF#32 } } }
  | .dzStat => { t := { t with dz := { t.dz with stat := t.dz.stat &&& ~~~(v.truncate 4) } } }
  | .sfStat => { t := { t with sf := { t.sf with stat := t.sf.stat &&& ~~~(v.truncate 6 &&& 0x3E#6) } } }
  | .tpage => { t := { t with sf := { t.sf with tpage := v.truncate 2 } } }
  | .claim => { t := { t with sf := { t.sf with claim := claimCmd t.sf.claim g w (w &&& 0xF#32 ≠ 3 || g.fw) true } } }
  | .sfReserr => { t := { t with sf := { t.sf with reserr := recW1c t.sf.reserr v } } }
  | .tram o =>
    if sq.st = .halted then
      { t := { t with sf := tramWrite t.sf (t.sf.tpage.toNat * 0x8000 + o) (clean (leBytes 4 v.toNat)) } }
    else { t := t, status := 4 }
  | .dmaWord n i =>
    let c := tdma t n
    if i = 7 then { t := tileDmaEnd t n (dmaCtrlWrite false (p.merge c.ctrl v) (free.truncate 40) c) }
    else if c.st = .idle then { t := setTdma t n (c.setWord false i (p.merge (c.word i) v)) }
    else { t := t, status := 4 }
  | .dmaStat n => { t := setTdma t n ((tdma t n).statWrite w) }
  | .dmaIrq => { t := { t with dmaIrq := t.dmaIrq &&& ~~~(v.truncate 8) } }
  | .phCtl n => { t := if v[30] then { t with tph := tset PhTimer.zero t.tph n PhTimer.zero } else t }
  | .phCfg => { t := { t with tphExport := v[0] } }
  | _ => { t := t }

end Sys2Proof.Machine
end

