-- ==== Sys2Proof/Machine/Ops.lean ====
section
/-! DEFINITION. The named operations over the whole block: units by number, tags, stack memory and its poison, the checks of a stack
request, free values, event increments, the mesh and tile windows. -/

namespace Sys2Proof.Machine

/-! ### Units -/

/-- Tile t. -/
def State.tile (s : State) (t : Nat) : Tile := tget Tile.reset s.tiles t
/-- The state with tile t replaced. -/
def State.setTile (s : State) (t : Nat) (x : Tile) : State := { s with tiles := tset Tile.reset s.tiles t x }
/-- The state with tile t changed. -/
def State.modTile (s : State) (t : Nat) (f : Tile → Tile) : State := s.setTile t (f (s.tile t))
/-- Stack controller k. -/
def State.stack (s : State) (k : Nat) : StkBlk := tget StkBlk.zero s.stk k
/-- The state with stack controller k replaced. -/
def State.setStack (s : State) (k : Nat) (x : StkBlk) : State := { s with stk := tset StkBlk.zero s.stk k x }
/-- The state with stack controller k changed. -/
def State.modStack (s : State) (k : Nat) (f : StkBlk → StkBlk) : State := s.setStack k (f (s.stack k))
/-- Stratus unit k. -/
def State.unit (s : State) (k : Nat) : StratBlk := tget StratBlk.zero s.strat k
/-- The state with stratus unit k replaced. -/
def State.setUnit (s : State) (k : Nat) (x : StratBlk) : State := { s with strat := tset StratBlk.zero s.strat k x }
/-- Port n. -/
def State.portOf (s : State) (n : Nat) : PortBlk := tget PortBlk.zero s.port n
/-- The state with port n replaced. -/
def State.setPort (s : State) (n : Nat) (x : PortBlk) : State := { s with port := tset PortBlk.zero s.port n x }
/-- System channel n. -/
def State.chan (s : State) (n : Nat) : DmaCh := tget DmaCh.zero s.sdma n
/-- The state with system channel n replaced. -/
def State.setChan (s : State) (n : Nat) (x : DmaCh) : State := { s with sdma := tset DmaCh.zero s.sdma n x }
/-- Translator registers of partition p. -/
def State.npcOf (s : State) (p : Nat) : NpcBlk := tget NpcBlk.zero s.npc p
/-- The state with translator registers of partition p replaced. -/
def State.setNpc (s : State) (p : Nat) (x : NpcBlk) : State := { s with npc := tset NpcBlk.zero s.npc p x }
/-- Service core n (in reset until the boot ROM releases it, R442). -/
def State.core (s : State) (n : Nat) : ScSt := tget ScSt.reset s.hub.sc n
/-- The state with service core n in a state. -/
def State.setCore (s : State) (n : Nat) (x : ScSt) : State := { s with hub := { s.hub with sc := tset ScSt.reset s.hub.sc n x } }
/-- A message sent to a partner. -/
def State.emit (s : State) (m : OutMsg) : State := { s with outbox := m :: s.outbox }

/-- A free value (log entry 5): the model's counter advances, so no two draws are the same argument. -/
def State.free (s : State) : W64 := Config.freeValue s.draws
/-- The state after `n` free values have been drawn. -/
def State.drawn (s : State) (n : Nat) : State := { s with draws := s.draws + n }

/-- One of several equal places, which the manual leaves to the device (log entries 42 and 43); `none` when there is none. -/
def chosen {α : Type} (what draws : Nat) (l : List α) : Option α := l[Config.choose what draws l.length % l.length]?

/-- HUB_CAPS0 (R8, R9). -/
def caps0 (fx : Bool) : W32 := if fx then 0xA10CC47F#32 else 0xA10C8407#32
/-- HUB_CAPS1 (R8, R9). -/
def caps1 (fx : Bool) : W32 := if fx then 0x0FFFFF01#32 else 0x00FFFF01#32
/-- The capability word (R9). -/
def capWord (fx : Bool) : W64 := (caps1 fx).append (caps0 fx)

/-! ### Placement and partitions (R82, R83, R320, R321) -/

/-- Compute die of tile t. -/
def dieOf (t : Nat) : Nat := 2 * (t / 16 / 8) + t % 16 / 8
/-- PLL group of tile t. -/
def groupOf (t : Nat) : Nat := 4 * (t / 16 / 4) + t % 16 / 4
/-- Partition of a die under a layout. -/
def partOfDie (mode d : Nat) : Nat := match mode with | 0 => 0 | 1 => d / 2 | _ => d
/-- Partition of tile t. -/
def partOfTile (mode t : Nat) : Nat := partOfDie mode (dieOf t)
/-- Partition of stack k. -/
def partOfStack (mode k : Nat) : Nat := partOfDie mode (k / 3)
/-- The number of partitions under a layout. -/
def partCount (mode : Nat) : Nat := match mode with | 0 => 1 | 1 => 2 | _ => 4

/-- TSEQ_ID of tile t (R104). -/
def tileIdReg (mode t : Nat) : W32 :=
  BitVec.ofNat 32 (mode % 4 * 2 ^ 16 + partOfTile mode t * 2 ^ 14 + dieOf t * 2 ^ 12 + groupOf t * 2 ^ 8 + t)

/-- What the cycles of tile t need from outside the tile. -/
def State.env (s : State) (t : Nat) : TileEnv := ⟨s.fx, t, tileIdReg s.partMode t⟩

/-- The context of tile t: that of the kernel that runs on it (R452). -/
def State.ctxOf (s : State) (t : Nat) : Nat := tget 0 s.tileCtx t

/-- A context that a request does not name: BAR 2 accesses carry a partition tag only (R425). -/
def noCtx : Nat := 16

/-- The tag of an agent's requests (R100, R393, R424, R425, R452). -/
def State.tagOf (s : State) : Agent → Tag
  | .sc _ | .lookout | .bar0 => ⟨true, 0, 0⟩
  | .bar2 => ⟨false, s.pci.b2part.toNat, noCtx⟩
  | .tile t => ⟨false, partOfTile s.partMode t.val, s.ctxOf t.val⟩
  | .sdma n =>
    let g := (s.chan n.val).tag
    ⟨g[8], (g &&& 3#32).toNat, (g >>> 4 &&& 0xF#32).toNat⟩
  | .engine p c => ⟨false, p.val, c.val⟩

/-! ### Stack memory (R319 to R327) -/

/-- The number of sectors of stack memory and what an address that is not listed holds: 0, the contents that start-up writes
(R524; log entry 3). -/
def memEnd : Nat := 0x018000000000

/-- The canonical form of the memory. -/
def Memory.wf (m : Tab Byte) : Bool := Tab.wf 0 m

/-- A byte of stack memory with the poison of its sector. -/
def State.memGet (s : State) (a : Nat) : PByte := (tget 0 s.mem a, tget false s.memPois (a / 32))

/-- Bytes of stack memory. -/
def State.memRead (s : State) (a : Nat) : Nat → List PByte
  | 0 => []
  | n + 1 => s.memGet a :: s.memRead (a + 1) n

/-- The poison of the sectors that a write reaches (R326, R327): a sector written whole takes the poison of its new bytes, a sector
written in part stays poisoned when it was. -/
def poisonSectors (old : Tab Bool) (a : Nat) (bs : List PByte) : List Nat → Tab Bool
  | [] => old
  | w :: ws =>
    let lo := max (32 * w) a
    let hi := min (32 * w + 32) (a + bs.length)
    let newP := ((bs.drop (lo - a)).take (hi - lo)).any (·.2)
    poisonSectors (tset false old w (if hi - lo = 32 then newP else tget false old w || newP)) a bs ws

/-- Sectors of 32 bytes that `n` bytes from `a` on touch. -/
def sectorsOf (a n : Nat) : List Nat := if n = 0 then [] else rangeFrom (a / 32) ((a + n - 1) / 32 + 1 - a / 32)

/-- The state with bytes of stack memory written. -/
def State.memWrite (s : State) (a : Nat) (bs : List PByte) : State :=
  if bs = [] then s
  else { s with
    mem := tsetList 0 s.mem a (bs.map (·.1))
    memPois := poisonSectors s.memPois a bs (sectorsOf a bs.length) }

/-- Range r of a context: base and limit in 64 KiB units (R452, R471). -/
def State.crange (s : State) (p c r : Nat) : Nat × Nat :=
  let e := 8 * (16 * p + c) + r
  ((tget 0 s.sec.crange (2 * e)).toNat / 65536, (tget 0 s.sec.crange (2 * e + 1)).toNat / 65536)

/-- Whether a 64 KiB page lies in a range of the context. -/
def State.pageInCtx (s : State) (p c page : Nat) : Bool :=
  (List.range 8).any (fun r => let x := s.crange p c r; x.1 ≤ page && page < x.2)

/-- Whether every byte lies inside the context's ranges (R452); the firmware tag passes, and so does an access without a context. -/
def State.inRanges (s : State) (g : Tag) (a n : Nat) : Bool :=
  g.fw || g.ctx = noCtx || n = 0 ||
  (rangeFrom (a / 65536) ((a + n - 1) / 65536 + 1 - a / 65536)).all (s.pageInCtx g.part g.ctx)

/-- The check of one stack before a request is accepted (R321, R345, R349): 0 OK, 1 XPART, 2 GATED. -/
def State.stackGate (s : State) (g : Tag) (k : Nat) : Nat :=
  let b := s.stack k
  if !b.ready || b.halted then 2
  else if !g.fw && partOfStack s.partMode k ≠ g.part then 1
  else 0

/-- Whether an access touches a retired page (R338). -/
def State.touchesRetired (s : State) (a n : Nat) : Bool :=
  (rangeFrom (a / 65536) ((a + n - 1) / 65536 + 1 - a / 65536)).any
    (fun pg => (s.stack (pg / 2 ^ 21)).ret.contains (BitVec.ofNat 25 pg))

/-- The status with which a stack memory access is refused, 0 when it is not (R319, R321, R338, R345, R349, R452): a range past the
stacks, either stack it lies in, the context's ranges, a retired page. -/
def State.memCheck (s : State) (g : Tag) (a n : Nat) : Nat :=
  if n = 0 then 0
  else if memEnd < a + n then 3
  else
    let k0 := a / 2 ^ 37
    let k1 := (a + n - 1) / 2 ^ 37
    if s.stackGate g k0 ≠ 0 then s.stackGate g k0
    else if s.stackGate g k1 ≠ 0 then s.stackGate g k1
    else if !s.inRanges g a n then 1
    else if s.touchesRetired a n then 5
    else 0

/-- A read of stack memory by a hub agent: status and bytes; a retired page reads zero with POISON (R338), a poisoned sector gives
status POISON with the stored bytes (R327). -/
def State.hubRead (s : State) (g : Tag) (a n : Nat) : Nat × List PByte :=
  let c := s.memCheck g a n
  if c = 5 then (5, List.replicate n (0, true))
  else if c ≠ 0 then (c, List.replicate n (0, false))
  else
    let d := s.memRead a n
    (if anyPois d then 5 else 0, d)

/-- A write of stack memory by a hub agent. -/
def State.hubWrite (s : State) (g : Tag) (a : Nat) (bs : List PByte) : State × Nat :=
  let c := s.memCheck g a bs.length
  if c ≠ 0 then (s, c) else (s.memWrite a bs, 0)

/-- The number in bytes from a place of a list. -/
def leAt (d : List PByte) (i n : Nat) : Nat := leNatP ((d.drop i).take n)

/-! ### Events and messages (R91, R100, R101) -/

/-- Whether PLL group g runs its routers (R101). -/
def State.groupRuns (s : State) (g : Nat) : Bool := s.pwr.pgRun.getLsbD g && !s.pwr.pgHeld.getLsbD g

/-- The numbers from a to b, either way, both included. -/
def walk (a b : Nat) : List Nat := if a ≤ b then rangeFrom a (b + 1 - a) else (rangeFrom b (a + 1 - b)).reverse

/-- The tiles on the route from tile a to tile b: along x, then along y (R95). -/
def routeTiles (a b : Nat) : List Nat :=
  (walk (a % 16) (b % 16)).map (fun x => 16 * (a / 16) + x) ++ (walk (a / 16) (b / 16)).map (fun y => 16 * y + b % 16)

/-- The hub port's tile for tile t: on its die the port of nearest x, the lower x on a tie (R99). -/
def hubPortTile (t : Nat) : Nat :=
  let x := t % 16
  let row := if t / 16 < 8 then 7 else 8
  let xs : List Nat := if x < 8 then [1, 3, 4, 6] else [9, 11, 12, 14]
  let dist (p : Nat) : Nat := (p - x) + (x - p)
  let best := xs.foldl (fun b p => if dist p < dist b then p else b) (xs.headD 1)
  16 * row + best

/-- Whether every group on the route of a message from an agent to tile t runs (R101). -/
def State.routeRuns (s : State) (a : Agent) (t : Nat) : Bool :=
  let src := match a with | .tile x => x.val | _ => hubPortTile t
  (routeTiles src t).all (fun x => s.groupRuns (groupOf x))

/-- An EVT message reaches its tile (R91, R100, R101): the increment is added, or discarded and counted, or lost. -/
def State.deliverEvt (s : State) (m : EvtMsg) : State :=
  let g := s.tagOf m.src
  let t := m.tgt.val
  if !s.routeRuns m.src t then s
  else if !g.fw && g.part ≠ partOfTile s.partMode t then
    s.modTile t (fun x => { x with seq := { x.seq with
      xpartEvt := if x.seq.xpartEvt = 0xFFFF then x.seq.xpartEvt else x.seq.xpartEvt + 1 } })
  else s.modTile t (fun x => evInc x m.ev.val (m.inc.zeroExtend 32))

/-! ### Tile windows (R100, R101, R103, R547) -/

/-- The answer to a request: the state, the status of R102, and the bytes of a read. -/
structure Ans where
  s : State
  status : Nat
  data : List PByte := []
  deriving DecidableEq, Repr

/-- One register of a tile window read: value shifted to the access, the tile after. -/
def State.tregReadAt (s : State) (t : Nat) (r : TReg) (p : Part) : W64 × State :=
  (p.pick (tregRead (s.env t) (s.tile t) r), s.modTile t (fun x => tregRc x r))

/-- One register of a tile window written. -/
def State.tregWriteAt (s : State) (g : Tag) (t : Nat) (r : TReg) (p : Part) (v : W64) : State × Nat :=
  let w := tregWrite (s.tile t) g r p v s.drawsEnt s.free
  let s := s.setTile t w.t
  ({ s.drawn 1 with drawsEnt := s.drawsEnt + w.ent }, w.status)

/-- The part of a register at a 4-byte-aligned offset that a 4-byte access reaches. -/
def partAt (wide : Bool) (off : Nat) : Part := if !wide then .all else if off % 8 = 0 then .lo else .hi

/-- A read of tile registers, 4 or 8 bytes wide (R547): status, value, state. -/
def State.tileRegRead (s : State) (t off n : Nat) : Nat × W64 × State :=
  if !((n = 4 || n = 8) && off % n = 0) then (3, 0, s)
  else match tileReg off with
    | none => (3, 0, s)
    | some r =>
      if n = 4 then let x := s.tregReadAt t r (partAt r.wide off); (0, x.1, x.2)
      else if r.wide then let x := s.tregReadAt t r .all; (0, x.1, x.2)
      else match tileReg (off + 4) with
        | none => (3, 0, s)
        | some r2 =>
          let x := s.tregReadAt t r .all
          let y := x.2.tregReadAt t r2 .all
          (0, x.1 ||| (y.1 <<< 32), y.2)

/-- A write of tile registers, 4 or 8 bytes wide (R547): two adjacent 32-bit registers lower first. -/
def State.tileRegWrite (s : State) (g : Tag) (t off n : Nat) (v : W64) : State × Nat :=
  if !((n = 4 || n = 8) && off % n = 0) then (s, 3)
  else match tileReg off with
    | none => (s, 3)
    | some r =>
      if n = 4 then s.tregWriteAt g t r (partAt r.wide off) v
      else if r.wide then s.tregWriteAt g t r .all v
      else match tileReg (off + 4) with
        | none => (s, 3)
        | some r2 =>
          let x := s.tregWriteAt g t r .all (v &&& 0xFFFFFFFF#64)
          let y := x.1.tregWriteAt g t r2 .all (v >>> 32)
          (y.1, if x.2 ≠ 0 then x.2 else y.2)

/-- A request reaches the window of tile t (R100, R101, R103): tag, source, window offset, operation. -/
def State.tileAccess (s : State) (src : Agent) (t off : Nat) (op : ReqOp) : Ans :=
  let g := s.tagOf src
  let n := match op with | .read n => n | .write d => d.length
  let zero := match op with | .read n => List.replicate n ((0 : Byte), false) | .write _ => []
  let blk := (off - spSize) / 0x10000
  let gated : Ans := ⟨s.modTile t (fun x => { x with seq := { x.seq with
    gatedReq := if x.seq.gatedReq = 0xFFFF then x.seq.gatedReq else x.seq.gatedReq + 1 } }), 2, zero⟩
  if !s.routeRuns src t then ⟨s, 2, zero⟩
  else if !g.fw && g.part ≠ partOfTile s.partMode t then ⟨s, 1, zero⟩
  else if off < spSize then
    if spSize < off + n then ⟨s, 3, zero⟩
    else if (s.tile t).power ≠ .noon then gated
    else match op with
      | .read n =>
        let d := spRead (s.tile t) off n
        ⟨s, if anyPois d then 5 else 0, d⟩
      | .write d => ⟨s.modTile t (fun x => spWrite x off d), 0, []⟩
  else if 6 ≤ blk ∨ spSize + (blk + 1) * 0x10000 < off + n then ⟨s, 3, zero⟩
  else if (s.tile t).power ≠ .noon && blk ≠ 0 then gated
  else match op with
    | .read n =>
      let r := s.tileRegRead t off n
      ⟨r.2.2, r.1, if r.1 = 0 then clean (leBytes n r.2.1.toNat) else zero⟩
    | .write d =>
      let r := s.tileRegWrite g t off n (BitVec.ofNat 64 (leNatP d))
      ⟨r.1, r.2, []⟩

/-- A 4-byte write of a tile register by an agent; the status goes back to the agent (R102). No BAR reaches a tile window (R423). -/
def State.ctlWrite (s : State) (a : Agent) (t off : Nat) (v : W32) : State :=
  match a with
  | .bar0 | .bar2 => s
  | _ =>
    let r := s.tileAccess a t off (.write (clean (leBytes 4 v.toNat)))
    r.s.emit (.regValue r.status 0)

/-- The answer to a request goes back to its source (R102): to a DMA channel as a response that travels, to a host access as the bytes
of a read's completion, to any other agent as status and value. A refused BAR 2 read completes with all ones, and a refused access
counts (R425). -/
def State.respond (s : State) (r : Req) (status : Nat) (d : List PByte) : State :=
  match r.src with
  | .tile _ | .sdma _ => { s with resps := s.resps ++ [⟨r, status, d⟩] }
  | .bar0 | .bar2 =>
    let bad := status ≠ 0 && status ≠ 5
    let s := if bad && r.src = .bar2 then
      { s with pci := { s.pci with bar2err := if s.pci.bar2err = 0xFFFF then s.pci.bar2err else s.pci.bar2err + 1 } } else s
    (match r.op with
      | .read n => s.emit (.barData (if bad then List.replicate n ((0xFF : Byte), false) else d))
      | .write _ => s)
  | _ => s.emit (.regValue status (BitVec.ofNat 64 (leNatP d)))

/-! ### Tiles at work -/

/-- A tile runs some of its own cycles: `f` gets the tile's environment. -/
def State.runTile (s : State) (t : Nat) (f : TileEnv → Tile → Tile) : State := s.modTile t (f (s.env t))

/-- The tiles of a launch of stream x on which nothing runs any more. -/
def tileDone (t : Tile) : Bool := t.seq.st = .halted && tileIdle t

/-- A request's byte count. -/
def opLen : ReqOp → Nat
  | .read n => n
  | .write d => d.length

end Sys2Proof.Machine
end

