-- ==== Sys2Proof/Machine/NpcCheck.lean ====
section
/-! DEFINITION. The checks that the translator makes of a module that it loads (R264, R268 to R290), as far as the manual decides them from
the module's own bytes; a check of a cited chapter that is not made here is `Config.moduleCheck` (log entry 10). -/

namespace Sys2Proof.Machine

/-! ### Header and section table (R270 to R272) -/

/-- A value in module bytes. -/
def modAt (m : List Byte) (i n : Nat) : Nat := leNat ((m.drop i).take n)

/-- Bytes a to b - 1 of a module are zero. -/
def modZero (m : List Byte) (a b : Nat) : Bool := ((m.drop a).take (b - a)).all (· = 0)

/-- A section: type, required bit, offset, size, count. -/
structure Sect where
  typ : Nat
  req : Bool
  off : Nat
  size : Nat
  cnt : Nat
  deriving DecidableEq, Repr

/-- The section table (R271). -/
def sections (m : List Byte) : List Sect :=
  (List.range (modAt m 6 2)).map (fun i =>
    let a := 128 + 16 * i
    ⟨modAt m a 2, modAt m (a + 2) 1 % 2 = 1, modAt m (a + 4) 4, modAt m (a + 8) 4, modAt m (a + 12) 4⟩)

/-- The first section of a type. -/
def sectOf (l : List Sect) (t : Nat) : Option Sect := l.find? (·.typ = t)

/-- The fixed entry size of a section type (R271); 0: variable. -/
def entrySize : Nat → Nat
  | 1 => 16 | 2 => 64 | 3 => 128 | 4 => 64 | 6 => 16 | 7 => 32 | _ => 0

/-- The checks of R271 on section i. -/
def sectOk (m : List Byte) (l : List Sect) (i : Nat) (x : Sect) : Bool :=
  let len := m.length
  let once := (l.filter (·.typ = x.typ)).length = 1
  x.off % 64 = 0 && 128 + 16 * l.length ≤ x.off && x.off + x.size ≤ len &&
  modAt m (128 + 16 * i + 2) 1 < 2 && modAt m (128 + 16 * i + 3) 1 = 0 &&
  (if 1 ≤ x.typ ∧ x.typ ≤ 8 then once && (entrySize x.typ = 0 || x.size = entrySize x.typ * x.cnt) else !x.req) &&
  (l.zipIdx.all (fun y => y.2 = i || x.size = 0 || y.1.size = 0 || x.off + x.size ≤ y.1.off || y.1.off + y.1.size ≤ x.off))

/-- The index of the first element that fails a check. -/
def firstBad {α : Type} (f : Nat → α → Bool) (l : List α) : Option Nat := (l.zipIdx.find? (fun y => !f y.2 y.1)).map (·.2)

/-- A module on its way into a partition: its bytes, the capability word, the union of req and opt, the layout, the partition, and the three
sections that every module has. -/
structure Loading where
  m : List Byte
  sects : List Sect
  cap : W64
  feats : W64
  mode : Nat
  part : Nat
  code : Sect
  ker : Sect
  ten : Sect
  deriving DecidableEq, Repr

/-! ### Kernels and parameters (R272, R273, R276, R277) -/

/-- The byte at which kernel entry i starts. -/
def Loading.kerAt (x : Loading) (i : Nat) : Nat := x.ker.off + 64 * i
/-- A kernel's first instruction. -/
def Loading.kFirst (x : Loading) (i : Nat) : Nat := modAt x.m (x.kerAt i + 8) 4
/-- A kernel's number of instructions. -/
def Loading.kCount (x : Loading) (i : Nat) : Nat := modAt x.m (x.kerAt i + 12) 4

/-- The table RAM use of a kernel (R286): 1 product tables, 2 user function, 3 both, which is refused. -/
def kernelUse (m : List Byte) (code : Sect) (a : Nat) : Nat :=
  let ops := (rangeFrom (modAt m (a + 8) 4) (modAt m (a + 12) 4)).map (fun i => (modAt m (code.off + 16 * i) 1, modAt m (code.off + 16 * i + 3) 1))
  let pt := ops.any (fun x => 0x39 ≤ x.1 && x.1 ≤ 0x3B)
  let us := ops.any (fun x => x.1 = 0x43 || (x.1 = 0x40 && x.2 = 0x0E))
  (if pt then 1 else 0) + (if us then 2 else 0)

/-- The checks of R272, R273 and R286 on kernel entry i. -/
def Loading.kernelOk (x : Loading) (i : Nat) : Bool :=
  let m := x.m
  let a := x.kerAt i
  let x0 := modAt m (a + 4) 1
  let y0 := modAt m (a + 5) 1
  let w := modAt m (a + 6) 1
  let h := modAt m (a + 7) 1
  let clash (j : Nat) : Bool := x.kFirst i < x.kFirst j + x.kCount j && x.kFirst j < x.kFirst i + x.kCount i
  modAt m a 2 = i && modZero m (a + 2) (a + 4) && modZero m (a + 32) (a + 64) && 1 ≤ w && w ≤ 16 && 1 ≤ h && h ≤ 16 &&
  x0 + w ≤ 16 && y0 + h ≤ 16 && x.kFirst i + x.kCount i ≤ x.code.cnt &&
  (rangeFrom y0 h).all (fun y => (rangeFrom x0 w).all (fun c => partOfTile x.mode (16 * y + c) = x.part)) &&
  !(List.range i).any clash && kernelUse m x.code a ≠ 3

/-- The checks of R276 on parameter entry i of a section. -/
def Loading.paramOk (x : Loading) (s : Sect) (i : Nat) : Bool :=
  let a := s.off + 16 * i
  modAt x.m a 1 < 64 && modAt x.m (a + 1) 1 < 3 && modAt x.m (a + 2) 1 < 3 && modZero x.m (a + 3) (a + 8) &&
  !(List.range i).any (fun j => modAt x.m a 1 = modAt x.m (s.off + 16 * j) 1)

/-! ### Instruction words (R278, R279) -/

/-- Field of n bits from bit i of instruction k. -/
def Loading.insn (x : Loading) (k i n : Nat) : Nat := modAt x.m (x.code.off + 16 * k) 16 / 2 ^ i % 2 ^ n
/-- Opcode of instruction k. -/
def Loading.op (x : Loading) (k : Nat) : Nat := x.insn k 0 8
/-- Modifier of instruction k. -/
def Loading.mod (x : Loading) (k : Nat) : Nat := x.insn k 24 8
/-- Operand j, 1 to 5, of instruction k. -/
def Loading.opnd (x : Loading) (k j : Nat) : Nat := x.insn k (32 + 12 * (j - 1)) 12

/-- The kinds of operand that a code may be (R279): tensor 1, x 2, p 4, V 8, event 16, sm 32, immediate 64, none 128; 0: reserved. -/
def operandKind (c : Nat) : Nat :=
  if c < 0x400 then 1
  else if 0x800 ≤ c && c < 0x840 then 2
  else if 0x840 ≤ c && c < 0x880 then 4
  else if 0x880 ≤ c && c < 0x8A0 then 8
  else if 0x8A0 ≤ c && c < 0x8AC then 16
  else if 0x8B0 ≤ c && c < 0x8B8 then 32
  else if c = 0x8C0 then 64
  else if c = 0xFFF then 128
  else 0

/-- Operands that an instruction may read as a value: the manual does not exclude an event or a summary (log entry 10). -/
def valueKinds : Nat := 2 + 4 + 16 + 32 + 64

/-- What R280 allows an opcode: the kinds of operands 1 to 5 as sums of the numbers of `operandKind`, and the fields that it may use: fa 1,
fb 2, rm 4, sat 8, sw 16, pm 32, mod 64, imm 128. `none`: not an opcode of generation 1. -/
def opRow (op : Nat) : Option (List Nat × Nat) :=
  let v := valueKinds
  let tv := 1 + 8
  let src := tv + v + 128
  match op with
  | 0x00 | 0x01 | 0x03 | 0x3B | 0x5C | 0x5D => some ([], 0)
  | 0x02 => some ([2 + 4 + 64], 0)
  | 0x04 | 0x7F => some ([], 128)
  | 0x05 => some ([32, v], 64 + 128)
  | 0x06 => some ([2, v], 64 + 128)
  | 0x10 => some ([2, v, v + 128], 64)
  | 0x11 => some ([2], 64)
  | 0x12 => some ([2, 1, v], 3)
  | 0x13 => some ([1, v, v], 3 + 16)
  | 0x20 => some ([1, 1, 1, 1 + 128, 1 + 128], 15 + 32 + 64 + 128)
  | 0x21 => some ([tv, 1], 15 + 128)
  | 0x30 => some ([tv, src, src, src], 31 + 64 + 128)
  | 0x31 => some ([tv, tv], 31 + 128)
  | 0x32 => some ([32, tv], 3 + 64 + 128)
  | 0x35 | 0x37 => some ([1], 3)
  | 0x36 => some ([1, 8], 31 + 128)
  | 0x38 => some ([1, 1], 3)
  | 0x39 => some ([128, 8, 8], 3 + 64 + 128)
  | 0x3A => some ([8, tv], 15 + 64 + 128)
  | 0x40 => some ([tv, tv], 15 + 64 + 128)
  | 0x41 => some ([tv, tv], 15 + 128)
  | 0x42 => some ([1 + 32, tv, v], 15 + 64 + 128)
  | 0x43 => some ([128, 1], 3 + 128)
  | 0x48 => some ([tv, 1, tv, 1 + 128], 31 + 64 + 128)
  | 0x49 => some ([1, 1], 3 + 64)
  | 0x4A => some ([1, 1, 1], 15)
  | 0x50 => some ([1, 1, 16], 3 + 64 + 128)
  | 0x58 => some ([16, v], 0)
  | 0x59 => some ([16, v], 64)
  | 0x5A => some ([v, 16], 64 + 128)
  | 0x5B => some ([v], 128)
  | 0x60 => some ([1, v, v, 16, 1], 3 + 64 + 128)
  | 0x61 => some ([v, v, 16, 1], 3)
  | 0x68 => some ([2, v], 0)
  | 0x69 => some ([v, 1], 3 + 128)
  | 0x6A => some ([1, v], 3 + 128)
  | 0x6B | 0x6C => some ([v], 0)
  | 0x70 => some ([1 + v], 64 + 128)
  | _ => none

/-! ### Tensors (R246, R247, R274, R275) -/

/-- The byte at which tensor entry i starts. -/
def Loading.tenAt (x : Loading) (i : Nat) : Nat := x.ten.off + 128 * i
/-- Kind of a tensor: 0 scratch, 1 dist, 2 stack, 3 acc. -/
def Loading.kind (x : Loading) (i : Nat) : Nat := modAt x.m (x.tenAt i + 2) 1
/-- Format code of a tensor. -/
def Loading.fmtC (x : Loading) (i : Nat) : Nat := modAt x.m (x.tenAt i + 3) 1
/-- Flag n of a tensor: 0 alias, 1 block-scaled, 2 drizzle, 3 const, 4 slice. -/
def Loading.flag (x : Loading) (i n : Nat) : Bool := modAt x.m (x.tenAt i + 4) 1 / 2 ^ n % 2 = 1
/-- Dimensions of a tensor. -/
def Loading.ndim (x : Loading) (i : Nat) : Nat := modAt x.m (x.tenAt i + 6) 1
/-- Base of a tensor. -/
def Loading.base (x : Loading) (i : Nat) : Nat := modAt x.m (x.tenAt i + 8) 8
/-- Length of dimension d; 1 at or beyond ndim (R246). -/
def Loading.len (x : Loading) (i d : Nat) : Nat := if d < x.ndim i then modAt x.m (x.tenAt i + 16 + 4 * d) 4 else 1
/-- Stride of dimension d, 1 to 4. -/
def Loading.str (x : Loading) (i d : Nat) : Int := (BitVec.ofNat 64 (modAt x.m (x.tenAt i + 40 + 8 * (d - 1)) 8)).toInt
/-- The scratchpad or device memory place of a tensor is the module's. -/
def Loading.placed (x : Loading) (i : Nat) : Bool := x.base i ≠ 2 ^ 64 - 1
/-- Element width in bits; 0 for a reserved format. -/
def Loading.width (x : Loading) (i : Nat) : Nat := match Fmt.ofCode (x.fmtC i) with | some f => f.bits | none => 0
/-- Bytes of an innermost row. -/
def Loading.rowBytes (x : Loading) (i : Nat) : Nat := (x.len i 0 * x.width i + 7) / 8
/-- Where the rows of a tensor start (R246). -/
def Loading.rows (x : Loading) (i : Nat) : List Int :=
  [4, 3, 2, 1].foldl (fun l d => (List.range (x.len i d)).flatMap (fun (k : Nat) => l.map (fun (b : Int) => b + (k : Int) * x.str i d))) [(x.base i : Int)]

/-- Whether the bytes of two tensors meet. -/
def Loading.meets (x : Loading) (i j : Nat) : Bool :=
  (x.rows i).any (fun a => (x.rows j).any (fun b => a < b + x.rowBytes j && b < a + x.rowBytes i))

/-- Whether an instruction of kernel k names tensor i. -/
def Loading.names (x : Loading) (k i : Nat) : Bool :=
  (rangeFrom (x.kFirst k) (x.kCount k)).any (fun n => [1, 2, 3, 4, 5].any (fun j => x.opnd n j = i))

/-- Whether two kernels have a tile in common. -/
def Loading.shareTile (x : Loading) (k j : Nat) : Bool :=
  let f (k o : Nat) : Nat := modAt x.m (x.kerAt k + o) 1
  f k 4 < f j 4 + f j 6 && f j 4 < f k 4 + f k 6 && f k 5 < f j 5 + f j 7 && f j 5 < f k 5 + f k 7

/-- Whether two tensors lie in one memory: device memory, or the scratchpad of some tile that has a copy of both (R273). -/
def Loading.sameSpace (x : Loading) (i j : Nat) : Bool :=
  (x.kind i = 2 && x.kind j = 2) ||
  (x.kind i = 0 && x.kind j = 0 &&
    (List.range x.ker.cnt).any (fun k => x.names k i && (List.range x.ker.cnt).any (fun l => x.names l j && x.shareTile k l)))

/-- Whether some mm names tensor i as an exponent vector, which may start anywhere (R247). -/
def Loading.exponents (x : Loading) (i : Nat) : Bool :=
  (List.range x.code.cnt).any (fun n => x.op n = 0x20 && (x.opnd n 4 = i || x.opnd n 5 = i))

/-- The checks of R273 to R275 on tensor entry i. -/
def Loading.tensorOk (x : Loading) (i : Nat) : Bool :=
  let m := x.m
  let a := x.tenAt i
  let ref (o : Nat) : Bool := modAt m (a + o) 2 < x.ten.cnt || modAt m (a + o) 2 = 0xFFFF
  let dims := rangeFrom 1 (x.ndim i - 1)
  modAt m a 2 = i && i ≤ 1023 && x.kind i ≤ 3 && x.fmtC i ≤ 12 && modAt m (a + 4) 1 < 32 && 1 ≤ x.ndim i && x.ndim i ≤ 5 &&
  (x.kind i ≠ 3 || (x.ndim i = 2 && modAt m (a + 5) 1 ≤ 2)) &&
  modZero m (a + 7) (a + 8) && modZero m (a + 36) (a + 40) && modZero m (a + 80) (a + 128) &&
  ref 72 && ref 74 && ref 76 && ref 78 &&
  (!x.flag i 1 || modAt m (a + 72) 2 ≠ 0xFFFF) && (!x.flag i 2 || modAt m (a + 74) 2 ≠ 0xFFFF) &&
  (x.kind i ≠ 0 || !x.placed i || x.exponents i || (x.base i % 64 = 0 && dims.all (fun d => x.str i d % 64 = 0))) &&
  (x.kind i ≠ 2 || !x.placed i || x.flag i 2 ||
    (x.rows i).all (fun r => 0 ≤ r && r + x.rowBytes i ≤ memEnd &&
      (x.rowBytes i = 0 ||
        (rangeFrom (r.toNat / 2 ^ 37) ((r.toNat + x.rowBytes i - 1) / 2 ^ 37 + 1 - r.toNat / 2 ^ 37)).all
          (fun k => partOfStack x.mode k = x.part)))) &&
  !(List.range i).any (fun j => x.placed i && x.placed j && !x.flag i 2 && !x.flag j 2 && !(x.flag i 0 && x.flag j 0) &&
    x.sameSpace i j && x.meets i j)

/-! ### Pieces, constants and the stash plan (R253 to R257, R276, R277) -/

/-- Field of a piece's word w. -/
def Loading.piece (x : Loading) (s : Sect) (i w lo n : Nat) : Nat := modAt x.m (s.off + 64 * i + 8 * w) 8 / 2 ^ lo % 2 ^ n
/-- Origin of a piece in dimension d. -/
def Loading.pOrg (x : Loading) (s : Sect) (i d : Nat) : Nat := x.piece s i (1 + d / 2) (32 * (d % 2)) 32
/-- Extent of a piece in dimension d; 1 at or beyond its ndim. -/
def Loading.pExt (x : Loading) (s : Sect) (i d : Nat) : Nat :=
  if d < x.piece s i 0 16 3 then x.piece s i (4 + d / 2) (32 * (d % 2)) 32 else 1
/-- The tensor of a piece. -/
def Loading.pTid (x : Loading) (s : Sect) (i : Nat) : Nat := x.piece s i 0 0 16

/-- The checks of R253 to R255 on piece i: its fields, its place in the tensor and the partition, disjoint from those before. -/
def Loading.pieceOk (x : Loading) (s : Sect) (i : Nat) : Bool :=
  let t := x.pTid s i
  let dims := [0, 1, 2, 3, 4]
  x.piece s i 0 19 1 = 0 && x.piece s i 0 24 8 = 0 && x.piece s i 0 41 23 = 0 && x.piece s i 3 32 32 = 0 && x.piece s i 6 55 9 = 0 &&
  x.piece s i 7 0 64 = 0 && t < x.ten.cnt && x.piece s i 0 16 3 = x.ndim t && x.piece s i 0 20 4 ≤ 12 &&
  partOfTile x.mode (x.piece s i 0 32 8) = x.part &&
  dims.all (fun d => 1 ≤ x.pExt s i d && (x.ndim t ≤ d || x.pOrg s i d + x.pExt s i d ≤ x.len t d)) && x.pExt s i 0 ≤ 16777215 &&
  (x.piece s i 0 40 1 = 0 || x.pOrg s i 0 % 32 = 0) && (!x.flag t 2 || x.pOrg s i 0 % 64 = 0) &&
  !(List.range i).any (fun j => x.pTid s j = t && dims.all (fun d =>
    x.ndim t ≤ d || (x.pOrg s i d < x.pOrg s j d + x.pExt s j d && x.pOrg s j d < x.pOrg s i d + x.pExt s i d)))

/-- Whether the pieces of every dist tensor together cover its shape (R255): disjoint pieces inside the shape whose elements are as many. -/
def Loading.covered (x : Loading) : Bool :=
  let vol (f : Nat → Nat) : Nat := f 0 * f 1 * f 2 * f 3 * f 4
  (List.range x.ten.cnt).all (fun t => x.kind t ≠ 1 ||
    vol (x.len t) = (match sectOf x.sects 4 with
      | some s => (((List.range s.cnt).filter (fun i => x.pTid s i = t)).map (fun i => vol (x.pExt s i))).sum
      | none => 0))

/-- Where the records of a CONST section start (R276). -/
def constRecs (m : List Byte) : Nat → Nat → List Nat
  | 0, _ => []
  | n + 1, a => a :: constRecs m n (a + 16 + (modAt m (a + 4) 4 + 15) / 16 * 16)

/-- The checks of R276 on record i of a CONST section. -/
def Loading.constOk (x : Loading) (s : Sect) (i : Nat) : Bool :=
  match (constRecs x.m s.cnt s.off)[i]? with
  | some a => a + 16 + modAt x.m (a + 4) 4 ≤ s.off + s.size && modAt x.m a 2 < x.ten.cnt && modZero x.m (a + 2) (a + 4) &&
      modZero x.m (a + 8) (a + 16)
  | none => true

/-- The checks on entry i of a STASH section. -/
def Loading.stashOk (x : Loading) (s : Sect) (i : Nat) : Bool :=
  let a := s.off + 32 * i
  modAt x.m a 2 < x.ten.cnt && modAt x.m (a + 2) 1 ≤ 3 && modAt x.m (a + 3) 1 ≤ 9 && modZero x.m (a + 24) (a + 32)

/-- Whether the stash plan has an entry for a tensor and a record (R290). -/
def Loading.planned (x : Loading) (tid j : Nat) : Bool :=
  match sectOf x.sects 7 with
  | some s => (List.range s.cnt).any (fun i => modAt x.m (s.off + 32 * i) 2 = tid && modAt x.m (s.off + 32 * i + 4) 4 = j)
  | none => false

/-! ### Instructions (R280 to R290) -/

/-- The loops that are open before each instruction of a kernel, innermost first, from the opcodes. -/
def loopStacks : List Nat → Nat → List Nat → List (List Nat)
  | [], _, _ => []
  | op :: r, i, st => st :: loopStacks r (i + 1) (if op = 2 then i :: st else if op = 3 then st.tail else st)

/-- The kernel that instruction k belongs to. -/
def Loading.kernelOf (x : Loading) (k : Nat) : Option Nat :=
  (List.range x.ker.cnt).find? (fun i => x.kFirst i ≤ k && k < x.kFirst i + x.kCount i)

/-- The checks of R280 to R283 that need the kernel: loop depth, matching endloop, targets, the levels of sget. -/
def Loading.flowOk (x : Loading) (k : Nat) : Bool :=
  match x.kernelOf k with
  | none => true
  | some i =>
    let st := loopStacks ((rangeFrom (x.kFirst i) (x.kCount i)).map x.op) 0 []
    let here := st.getD (k - x.kFirst i) []
    match x.op k with
    | 0x02 => here.length < 8
    | 0x03 => here ≠ []
    | 0x04 | 0x05 | 0x06 => x.insn k 96 32 < x.kCount i && st.getD (x.insn k 96 32) [] = here
    | 0x11 => x.mod k < 8 || x.mod k - 8 < here.length
    | _ => true

/-- Formats and accumulator mode of an mm (R53, R55, R56, R109, R110). -/
def mmModeOk (pm amode : Nat) (fa fb : Fmt) (sca scb : Bool) : Bool :=
  if pm = 1 || pm = 2 then
    let ok (f : Fmt) : Bool := f = .fp32 || f = .bf16 || f = .fp16
    ok fa && ok fb && amode = 0 && !sca && !scb
  else if pm = 3 || pm = 4 then
    let ok (f : Fmt) : Bool := f = .fp64 || f = .fp32
    ok fa && ok fb && amode = 2 && !sca && !scb
  else
    (!sca || scalable fa) && (!scb || scalable fb) &&
    match densePair fa fb with
    | 1 => amode = 0 || amode = 1
    | 2 => if sca || scb then amode = 0 || amode = 1 else amode = 2
    | _ => false

/-- The checks of R53 to R56, R109, R110, R148 and R284 on an mm whose operands name tensors. -/
def Loading.mmOk (x : Loading) (k : Nat) : Bool :=
  let o := x.opnd k 1
  let a := x.opnd k 2
  let b := x.opnd k 3
  let pm := x.insn k 21 3
  let sh := x.mod k / 2 % 2 = 1
  let slice := pm = 3 || pm = 4
  match Fmt.ofCode (x.fmtC a), Fmt.ofCode (x.fmtC b) with
  | some fa, some fb =>
    x.kind o = 3 && x.insn k 8 4 = x.fmtC a && x.insn k 12 4 = x.fmtC b &&
    x.len a 0 = x.len b 0 && x.len a 1 = x.len o 1 && x.len b 1 = x.len o 0 &&
    mmModeOk pm (modAt x.m (x.tenAt o + 5) 1) fa fb (x.flag a 1) (x.flag b 1) && (x.flag o 4 == slice) &&
    (!sh || pm = 0) && (slice || (x.opnd k 4 = 0xFFF && x.opnd k 5 = 0xFFF)) &&
    (!x.flag a 2 || (pm = 0 && !sh && !x.flag a 1 && dzFmtOk fa && fb.bits ≤ fa.bits)) && (!x.flag b 2 || pm = 0)
  | _, _ => false

/-- The vector operation of a vop and its sub field (R285); `none`: reserved. -/
def vopOfMod (n : Nat) : Option (VOp × Nat) :=
  if n < 0x0F then
    (([VOp.add, .sub, .mul, .fma, .fms, .neg, .abs, .max, .min, .and, .or, .xor, .shl, .shr, .mac] : List VOp)[n]?).map (fun o => (o, 0))
  else if 0x10 ≤ n && n ≤ 0x15 then some (.cmp, n - 0x10)
  else if n = 0x18 then some (.sel, 0)
  else if n = 0x19 then some (.mov, 0)
  else if n = 0x1A then some (.perm, 0)
  else if 0x21 ≤ n && n ≤ 0x29 then some (.segSum, n - 0x20)
  else if 0x31 ≤ n && n ≤ 0x39 then some (.segMax, n - 0x30)
  else if 0x41 ≤ n && n ≤ 0x49 then some (.segMin, n - 0x40)
  else if n = 0x50 then some (.rng, 0)
  else if n = 0x51 then some (.drop, 0)
  else none

/-- The element formats of R237. -/
def quantFmt (c : Nat) : Bool := c = 2 || c = 3 || c = 4 || c = 5 || c = 7

/-- The formats of a special function (R207, R208): source, destination, function; `func` is none for softmax and rstat. -/
def sfnFmtOk (fa fb : Nat) (func : Option Nat) (soft : Bool) : Bool :=
  (sfFmt fa).isSome && (sfFmt fb).isSome && (fb ≠ 9 || fa = 9) && (!soft || (fa ≠ 9 && fb ≠ 9)) &&
  match func with
  | some f => f ≤ 0x0E && (fa ≠ 9 || f = 0 || f = 2 || f = 4 || f = 5 || f = 6)
  | none => true

/-- The operands of an instruction that are written tensors (R276). -/
def Loading.written (x : Loading) (k : Nat) : List Nat :=
  match x.op k with
  | 0x13 | 0x20 | 0x21 | 0x30 | 0x31 | 0x35 | 0x36 | 0x37 | 0x38 | 0x40 | 0x41 | 0x42 | 0x4A | 0x50 | 0x6A => [1]
  | 0x48 => if x.mod k / 2 % 2 = 1 then [1, 4] else [1, 2]
  | 0x49 => [1, 2]
  | 0x60 => [1, 5]
  | 0x61 => [4]
  | _ => []

/-- The unit bit of the capability word that an instruction uses (R9, R272), as a mask. -/
def Loading.uses (x : Loading) (k : Nat) : W64 :=
  let pm := x.insn k 21 3
  match x.op k with
  | 0x20 => if pm = 1 || pm = 2 then 4 else if pm = 3 || pm = 4 then 8 else if x.opnd k 2 < 0x400 && x.flag (x.opnd k 2) 2 then 16 else 0
  | 0x39 | 0x3A | 0x3B => 32
  | 0x60 => 1
  | 0x61 => 2
  | _ => 0

/-- The conditions of the last column of R280 that one instruction's word and the tensor table decide. -/
def Loading.rowOk (x : Loading) (k : Nat) : Bool :=
  let mod := x.mod k
  let imm := x.insn k 96 32
  let fa := x.insn k 8 4
  let fb := x.insn k 12 4
  let o1 := x.opnd k 1
  let o2 := x.opnd k 2
  let o3 := x.opnd k 3
  let isT (c : Nat) : Bool := c < 0x400
  let integer (i : Nat) : Bool := match Fmt.ofCode (x.fmtC i) with | some f => !f.isFloat | none => false
  let fits (c f : Nat) : Bool := !isT c || x.kind c = 3 || x.fmtC c = f
  let row (c : Nat) : Bool := !isT c || (!x.flag c 1 && !x.flag c 2)
  let short (c : Nat) : Bool := !isT c || x.len c 0 ≤ 65536
  match x.op k with
  | 0x05 | 0x06 => mod % 8 ≤ 5 && mod / 8 % 4 ≤ 2
  | 0x10 => mod ≤ 13 && (mod = 0 || o3 ≠ 0xFFF)
  | 0x11 => mod ≠ 7
  | 0x12 => integer o2 && fa = x.fmtC o2
  | 0x13 => integer o1
  | 0x20 => x.mmOk k
  | 0x21 => x.flag o2 4 && !(fb ≤ 7 || fb = 10 || fb = 11)
  | 0x30 => match vopOfMod mod, Fmt.ofCode fa with
    | some (op, sub), some f => f = .e2m1 || f = .int4 || vfmtOk op f sub
    | _, _ => false
  | 0x31 => fits o2 fa && fits o1 fb
  | 0x32 => mod ≤ 8
  | 0x35 | 0x36 => x.flag o1 2
  | 0x38 => x.flag o2 2 && !x.flag o1 2 && x.ndim o1 = x.ndim o2 && [0, 1, 2, 3, 4].all (fun d => x.len o1 d = x.len o2 d) &&
      x.fmtC o1 = x.fmtC o2
  | 0x39 | 0x3A => 2 ≤ mod && mod ≤ 4
  | 0x40 => sfnFmtOk fa fb (some mod) false && fits o2 fa && fits o1 fb && row o1 && row o2
  | 0x41 => sfnFmtOk fa fb none true && fits o2 fa && fits o1 fb && row o1 && row o2 && short o2
  | 0x42 => sfnFmtOk fa fb none false && fits o2 fa && row o1 && row o2 && short o2
  | 0x43 => imm % 64 = 0
  | 0x48 => !isT o1 || quantFmt (x.fmtC o1)
  | 0x49 => quantFmt fb
  | 0x50 => mod ≤ 2 && 1 ≤ imm && imm ≤ 65535
  | 0x59 => mod ≤ 1
  | 0x5A => 1 ≤ imm && imm ≤ 65535
  | 0x60 => mod % 8 < 4 && x.kind o1 = 2 && x.kind (x.opnd k 5) = 0 && x.fmtC (x.opnd k 5) = 11
  | 0x61 => x.fmtC (x.opnd k 4) = 11
  | 0x69 => x.planned o2 imm
  | 0x6A => x.planned o1 imm
  | 0x70 => mod ≤ 1
  | _ => true

/-- The status of instruction k by the checks of R278 to R290: 0, BAD_OP 6 or BAD_FIELD 5. -/
def Loading.insnCode (x : Loading) (k : Nat) : Nat :=
  match opRow (x.op k) with
  | none => 6
  | some (kinds, used) =>
    let ops := [1, 2, 3, 4, 5].map (x.opnd k)
    let hasImm := used / 128 % 2 = 1 || ops.contains 0x8C0
    let zero (bit lo n : Nat) : Bool := used / bit % 2 = 1 || x.insn k lo n = 0
    let shapeOk : Bool :=
      x.insn k 92 4 = 0 && ops.zipIdx.all (fun y => operandKind y.1 &&& kinds.getD y.2 128 ≠ 0) &&
      ops.all (fun c => 0x400 ≤ c || c < x.ten.cnt) && zero 1 8 4 && zero 2 12 4 && zero 4 16 3 && zero 8 19 1 && zero 16 20 1 &&
      zero 32 21 3 && zero 64 24 8 && (hasImm || x.insn k 96 32 = 0) && x.insn k 16 3 ≤ 4 && x.insn k 21 3 ≤ 4 && x.insn k 8 4 ≤ 12 &&
      (x.op k = 0x21 || x.insn k 12 4 ≤ 12)
    let sliceRead : Bool := x.op k ≠ 0x21 && ([2, 3, 4, 5].any (fun j => x.opnd k j < 0x400 && x.kind (x.opnd k j) = 3 && x.flag (x.opnd k j) 4))
    let constWrite : Bool := (x.written k).any (fun j => x.opnd k j < 0x400 && x.flag (x.opnd k j) 3)
    if !shapeOk || sliceRead || constWrite || x.uses k &&& ~~~x.feats ≠ 0 || !x.rowOk k || !x.flowOk k then 5 else 0

/-! ### The load (R268) -/

/-- The bits that req and opt may set (R272). -/
def featMask : W64 := 0x0FFF0F000000007F#64

/-- A failure of a load: status, section, index (R266, R267). -/
abbrev LoadFail := Nat × Nat × Nat

/-- The section index of a type. -/
def Loading.sectIx (x : Loading) (t : Nat) : Nat := (x.sects.findIdx? (·.typ = t)).getD 0xFFFF

/-- Whether entry i of a section of type t passes its checks. -/
def Loading.entryOk (x : Loading) (t : Nat) (s : Sect) (i : Nat) : Bool :=
  (match t with
    | 2 => x.kernelOk i
    | 3 => x.tensorOk i
    | 4 => x.pieceOk s i
    | 5 => x.constOk s i
    | 6 => x.paramOk s i
    | 7 => x.stashOk s i
    | _ => true) && !Config.moduleCheck x.m x.cap x.mode t i

/-- The first failing entry of the sections of some types, in that order. -/
def Loading.entryFail (x : Loading) (l : List Nat) : Option LoadFail :=
  l.findSome? (fun t => (sectOf x.sects t).bind (fun s =>
    ((List.range s.cnt).find? (fun i => !x.entryOk t s i)).map (fun i => (5, x.sectIx t, i))))

/-- A failure that names no entry of its own: the place in the record is the translator's. -/
def Loading.failAt (x : Loading) (st : Nat) : LoadFail :=
  let r := Config.failPlace x.m st
  (st, r.1.toNat, r.2.toNat)

/-- Steps 6 to 8 of R268. -/
def Loading.fail (x : Loading) : Option LoadFail :=
  match x.entryFail [2, 3, 6, 4] with
  | some f => some f
  | none =>
    if !x.covered then some (x.failAt 5)
    else match x.entryFail [5, 7] with
      | some f => some f
      | none =>
        match (List.range x.code.cnt).find? (fun k => x.insnCode k ≠ 0 || !x.entryOk 1 x.code k) with
        | some k => some (if x.insnCode k ≠ 0 then x.insnCode k else 5, x.sectIx 1, k)
        | none => if Config.noSpace x.m x.cap x.mode then some (x.failAt 7) else none

/-- The checks of R268 (R5, R295) on a module that has been read, in their order; `none`: all passed. -/
def moduleFail (fx : Bool) (mode p : Nat) (checked : Bool) (m : List Byte) : Option LoadFail :=
  let cap := capWord fx
  let req : W64 := BitVec.ofNat 64 (modAt m 8 8)
  let opt : W64 := BitVec.ofNat 64 (modAt m 16 8)
  let l := sections m
  let n := l.length
  let hdrOk := modAt m 5 1 < 2 && modAt m 24 4 = m.length && modZero m 28 64 && modZero m 112 128 && 3 ≤ n && n ≤ 64
  if modAt m 0 4 ≠ 0x4D43504E then some (1, 0xFFFF, 0)
  else if modAt m 4 1 = 0 ∨ 1 < modAt m 4 1 then some (2, 0xFFFF, 0)
  else if leBytes 48 (Config.sha384 (m.drop 128)).toNat ≠ (m.drop 64).take 48 then some (3, 0xFFFF, 0)
  else if (req ||| opt) &&& ~~~featMask ≠ 0 || req &&& opt ≠ 0 || !hdrOk then some (5, 0xFFFF, 0)
  else if req &&& ~~~cap ≠ 0 || (checked && !cap[42]) then some (4, 0xFFFF, 0)
  else match firstBad (sectOk m l) l with
  | some i => some (5, i, 0)
  | none =>
    match sectOf l 1, sectOf l 2, sectOf l 3 with
    | some code, some ker, some ten => (Loading.mk m l cap (req ||| opt) mode p code ker ten).fail
    | _, _, _ => some (5, 0xFFFF, 0)

end Sys2Proof.Machine
end

