-- ==== Sys2Proof/Machine/StreamCore.lean ====
section
/-! DEFINITION. What every stream command shares (R427 to R437): MSI-X messages, the stream table and the hamper, completion and
fault of a command, stream event counters, and the trace buffer that phase records reach (R516, R517). -/

namespace Sys2Proof.Machine

/-! ### Host messages (R427, R439) -/

/-- Send MSI-X vector v (R427): with the link down or the vector masked its pending bit is set. -/
def State.sendMsix (s : State) (v : Nat) : State :=
  let w (i : Nat) : W32 := tget 0 s.pci.msix (4 * v + i)
  if !s.pci.up || (w 3)[0] then { s with pci := { s.pci with msixPend := tset false s.pci.msixPend v true } }
  else s.emit (.msix v ((w 1).append (w 0)) (w 2))

/-- Start of the host window (R319). -/
def hostBase : Nat := 0x300000000000
/-- Whether an address lies in the host window. -/
def isHost (a : Nat) : Bool := hostBase ≤ a && a < 0x400000000000

/-- The stream engine writes bytes at an address of stack memory or of the host window (R428, R436); a poisoned write to the host
window is sent with the EP bit (R528). -/
def State.engineWrite (s : State) (g : Tag) (a : Nat) (d : List PByte) : State × Nat :=
  if isHost a then
    if s.pci.up then (s.emit (.tlpWrite a d), 0) else (s, 2)
  else s.hubWrite g a d

/-! ### Poison at a hub agent (R528) -/

/-- A hub machine check recorded (R528 to R530): flag bit, code, core, address. -/
def State.machineCheck (s : State) (flag code core : Nat) (addr : W64) : State :=
  let b := { s.hub with mcFlags := s.hub.mcFlags ||| (1#6 <<< flag) }
  { s with hub := if b.mcValid then { b with mcOver := true }
    else { b with mcValid := true, mcCode := BitVec.ofNat 8 code, mcCore := BitVec.ofNat 3 core, mcAddr := addr } }

/-- The stream engine has read poison that it cannot carry, at a device address (R528; log entry 50). -/
def State.poisonHub (s : State) (a : Nat) : State := s.machineCheck 5 6 0 (BitVec.ofNat 64 a)

/-! ### Stream table and hamper (R429, R432) -/

/-- The code of a stream state. -/
def StreamSt.code : StreamSt → Nat
  | .closed => 0 | .idle => 1 | .active => 2 | .waiting => 3 | .faulted => 4

/-- The stream state of a code; a code that R429 does not name reads as CLOSED. -/
def streamStOf : Nat → StreamSt
  | 1 => .idle | 2 => .active | 3 => .waiting | 4 => .faulted | _ => .closed

/-- Bytes 0 to 63 of a table entry (R429). -/
def StreamEnt.bytes (e : StreamEnt) : List Byte :=
  [e.flags, BitVec.ofNat 8 e.st.code, e.owner, e.lsize] ++ leBytes 2 e.msix.toNat ++ [0, 0] ++ leBytes 8 e.ring.toNat ++
  leBytes 8 e.cplad.toNat ++ leBytes 4 e.head.toNat ++ leBytes 4 e.tail.toNat ++ leBytes 4 e.fault.toNat ++
  leBytes 4 e.fidx.toNat ++ leBytes 8 e.nlaunch.toNat ++ List.replicate 16 0

/-- The entry that 64 bytes of the table spell. -/
def entryOfBytes (d : List PByte) : StreamEnt :=
  let at_ (i n : Nat) : Nat := leAt d i n
  { flags := BitVec.ofNat 8 (at_ 0 1), st := streamStOf (at_ 1 1), owner := BitVec.ofNat 8 (at_ 2 1)
    lsize := BitVec.ofNat 8 (at_ 3 1), msix := BitVec.ofNat 16 (at_ 4 2), ring := BitVec.ofNat 64 (at_ 8 8)
    cplad := BitVec.ofNat 64 (at_ 16 8), head := BitVec.ofNat 32 (at_ 24 4), tail := BitVec.ofNat 32 (at_ 28 4)
    fault := BitVec.ofNat 32 (at_ 32 4), fidx := BitVec.ofNat 32 (at_ 36 4), nlaunch := BitVec.ofNat 64 (at_ 40 8) }

/-- The owner's partition and context (R429). -/
def StreamEnt.part (e : StreamEnt) : Nat := e.owner.toNat / 16 % 4
/-- The owner's context. -/
def StreamEnt.ctx (e : StreamEnt) : Nat := e.owner.toNat % 16
/-- The tag of a stream's work (R452). -/
def StreamEnt.tag (e : StreamEnt) : Tag := ⟨false, e.part, e.ctx⟩

/-- The address of stream i's entry. -/
def State.entryAddr (s : State) (i : Nat) : Nat := s.stream.tbase.toNat + 256 * i

/-- Stream i's entry: the hamper copy whenever one exists, else the table's (R432). A poisoned table entry reads as faulted with POISONED
(R528). -/
def State.entry (s : State) (i : Nat) : StreamEnt :=
  match s.stream.hamper.find? (·.1 = i) with
  | some x => x.2
  | none =>
    let d := s.memRead (s.entryAddr i) 64
    if anyPois d then { entryOfBytes d with st := .faulted, fault := 0x10 } else entryOfBytes d

/-- Whether stream i is in the hamper. -/
def State.inHamper (s : State) (i : Nat) : Bool := s.stream.hamper.any (·.1 = i)

/-- An entry that must stay in the hamper (R432). -/
def StreamEnt.pinned (e : StreamEnt) : Bool :=
  e.st = .active || e.st = .waiting || e.st = .faulted || e.run.isSome

/-- The last entry of the list that may be evicted. -/
def lastFree : List (Nat × StreamEnt) → Option (Nat × StreamEnt)
  | [] => none
  | x :: xs => match lastFree xs with
    | some y => some y
    | none => if x.2.pinned then none else some x

/-- Stream i brought into the hamper as its most recently used entry (R432): a free place is taken, or the least recently used entry
that is not pinned goes to the table; `none` when all 512 are pinned. -/
def State.fetchEntry (s : State) (i : Nat) : Option State :=
  let st := s.stream
  match st.hamper.find? (·.1 = i) with
  | some x => some { s with stream := { st with hamper := x :: st.hamper.filter (·.1 ≠ i) } }
  | none =>
    let e := s.entry i
    let s := if anyPois (s.memRead (s.entryAddr i) 64) then s.poisonHub (s.entryAddr i) else s
    if st.hamper.length < 512 then some { s with stream := { st with hamper := (i, e) :: st.hamper } }
    else match lastFree st.hamper with
      | none => none
      | some v =>
        let s := s.memWrite (s.entryAddr v.1) (clean v.2.bytes)
        some { s with stream := { st with hamper := (i, e) :: st.hamper.filter (·.1 ≠ v.1) } }

/-- The hamper copy of stream i replaced; a stream that is not in the hamper is left alone. -/
def State.setEntry (s : State) (i : Nat) (e : StreamEnt) : State :=
  { s with stream := { s.stream with hamper := s.stream.hamper.map (fun x => if x.1 = i then (i, e) else x) } }

/-! ### Completion and faults (R430, R436, R437) -/

/-- Field of a command: `n` bytes from byte `i` (R435). -/
def cmdAt (c : StreamCmd) (i n : Nat) : Nat := c.toNat / 2 ^ (8 * i) % 2 ^ (8 * n)

/-- The completion record (R436): head, tag, fault, low half of nlaunch. -/
def recordBytes (e : StreamEnt) (tag : Nat) : List Byte :=
  leBytes 4 e.head.toNat ++ leBytes 4 tag ++ leBytes 4 e.fault.toNat ++ leBytes 4 e.nlaunch.toNat

/-- The record written at cplad when the entry asks for one (R429, R436). -/
def State.writeRecord (s : State) (e : StreamEnt) (tag : Nat) : State :=
  if e.flags[0] && e.cplad ≠ 0 then (s.engineWrite e.tag e.cplad.toNat (clean (recordBytes e tag))).1 else s

/-- The stream's vector sent (R436). -/
def State.streamVector (s : State) (e : StreamEnt) : State := if e.msix.toNat < 2048 then s.sendMsix e.msix.toNat else s

/-- The state that a stream takes between commands (R430): CLOSED when a close waits, else IDLE or ACTIVE. -/
def StreamEnt.settle (e : StreamEnt) : StreamEnt :=
  if e.closing then { e with st := .closed, run := none, closing := false, resuming := false }
  else { e with st := if e.tail = e.head then .idle else .active, run := none, resuming := false }

/-- The running command of stream i completes (R430, R436): head advances, a LAUNCH counts, the record and the vector follow. -/
def State.completeCmd (s : State) (i : Nat) (c : StreamCmd) : State :=
  let e := s.entry i
  let e := { e with head := e.head + 1, nlaunch := if cmdAt c 0 1 = 1 then e.nlaunch + 1 else e.nlaunch }
  let s := s.setEntry i e.settle
  let s := if (cmdAt c 1 1) % 2 = 1 then s.writeRecord e (cmdAt c 4 4) else s
  if cmdAt c 1 1 / 2 % 2 = 1 then s.streamVector e else s

/-- Stream i faults (R430, R436, R437): code in the low byte, `hi` in bits 31:24. A close or a resume that waits takes effect after. -/
def State.faultStream (s : State) (i : Nat) (code hi : Nat) : State :=
  let e := s.entry i
  let tag := match e.run with | some x => cmdAt x.1 4 4 | none => 0
  let e := { e with st := .faulted, fault := BitVec.ofNat 32 (hi * 2 ^ 24 + code), fidx := e.head, run := none }
  let after := if e.closing then { e with st := .closed, closing := false, resuming := false }
    else if e.resuming then
      { e with st := if e.tail = e.fidx + 1 then .idle else .active, head := e.fidx + 1, fault := 0, resuming := false }
    else e
  let s := s.setEntry i after
  (s.writeRecord e tag).streamVector e

/-- Stream i's started command goes on with `r` (R430). -/
def State.setRun (s : State) (i : Nat) (c : StreamCmd) (r : RunCmd) (st : StreamSt) : State :=
  s.setEntry i { s.entry i with st := st, run := some (c, r) }

/-! ### Stream event counters (R435) -/

/-- The tag with which the engine reaches its own tables. -/
def fwTag : Tag := ⟨true, 0, 0⟩

/-- The address of stream event counter j of a context. -/
def State.evAddr (s : State) (p c j : Nat) : Nat := (tget 0 s.stream.evbase (16 * p + c)).toNat + 8 * j

/-- A counter's value; `none` when it cannot be read (log entry 40). -/
def State.evGet (s : State) (p c j : Nat) : Option W64 :=
  let r := s.hubRead fwTag (s.evAddr p c j) 8
  if r.1 = 0 then some (BitVec.ofNat 64 (leNatP r.2)) else none

/-- A counter set or added to, modulo 2^64. -/
def State.evPut (s : State) (p c j : Nat) (set : Bool) (v : W64) : State :=
  match s.evGet p c j with
  | none => s
  | some x => (s.hubWrite fwTag (s.evAddr p c j) (clean (leBytes 8 (if set then v else x + v).toNat))).1

/-- Whether what a tile sends is a phase record, which waits for its own command. -/
def TileOut.isPhase : TileOut → Bool
  | .phase _ _ _ => true
  | .hsig _ _ => false

/-- An hsig of tile t reaches the counter of its context (R303, R435). -/
def State.hsigArrives (s : State) (t : Nat) : TileOut → State
  | .hsig ev v => s.evPut (partOfTile s.partMode t) (s.ctxOf t) ev.toNat false v
  | .phase _ _ _ => s

/-- The hsig additions of tile t reach the counters of its context (R303, R435). -/
def State.drainHsig (s : State) (t : Nat) : State :=
  let outs := (s.tile t).outs
  let s := outs.foldl (fun s o => s.hsigArrives t o) s
  if outs.all TileOut.isPhase then s else s.modTile t (fun x => { x with outs := x.outs.filter TileOut.isPhase })

/-- A tile works, and what its sequencer sent to the hub arrives. -/
def State.tileWork (s : State) (t : Nat) (f : TileEnv → Tile → Tile) : State := (s.runTile t f).drainHsig t

/-! ### Trace buffer (R509, R516, R517) -/

/-- Records that the trace buffer holds (R517). -/
def trcSize : Nat := 65536

/-- A phase-stop record arrives (R509, R516, R517): the buffer is claimed for phase export and not frozen; `own`: the record comes
from the claim's context or the hub. -/
def State.traceRecord (s : State) (own : Bool) (m : PhaseMsg) : State :=
  let b := s.trc
  if b.clmTrc &&& 0xF#32 ≠ 1 || b.frozen then s
  else if !own then { s with trc := { b with xctx := if b.xctx = 0xFFFF then b.xctx else b.xctx + 1 } }
  else if b.held = trcSize && !b.wrap then { s with trc := { b with full := if b.full = 0xFFFF then b.full else b.full + 1 } }
  else
    let timer : Nat := m.timer.val + (if m.hub then 8 else 0)
    let tile : Nat := if m.hub then 0 else m.tile.val
    let v : Nat := m.cycles.toNat + m.tag.toNat * 2 ^ 64 + timer * 2 ^ 80 + tile * 2 ^ 88 + b.seq.toNat * 2 ^ 96
    { s with trc := { b with
      buf := tset 0 b.buf b.next (BitVec.ofNat 128 v)
      next := (b.next + 1) % trcSize, held := min trcSize (b.held + 1), seq := b.seq + 1 } }

/-- Whether tile t runs the context that claimed the trace buffer (R509). -/
def State.ownsTrace (s : State) (t : Nat) : Bool :=
  let c := s.trc.clmTrc
  c.getLsbD 23 || ((c.toNat / 2 ^ 20) % 4 = partOfTile s.partMode t && (c.toNat / 2 ^ 16) % 16 = s.ctxOf t)

/-- The EVT_IO pin as use 1 and use 3 drive it (R508): low while hub timer 0 runs, or while a tile is halted by a trap. -/
def State.evtIoOut (s : State) : Bool :=
  match (s.trc.clmEvt &&& 0xF#32).toNat with
  | 1 => !(tget PhTimer.zero s.trc.tph 0).run
  | 3 => !(s.tiles.any (fun p => p.2.seq.st = .halted && p.2.seq.trapHalt))
  | _ => true

end Sys2Proof.Machine
end

