-- ==== Sys2Proof/Machine/StratusOps.lean ====
section
/-! DEFINITION. The stratus unit's work (R351 to R375): the descriptor and its checks, the learning rate, the averaged-moment rule
over blocks of 32 elements, layer grain, and the result words. -/

namespace Sys2Proof.Machine

/-! ### Descriptor, schedule and layers (R353, R355, R363) -/

/-- A number of `n` bytes at place `i` of a list of bytes. -/
def leOf (d : List Byte) (i n : Nat) : Nat := leNat ((d.drop i).take n)
/-- An FP32 field. -/
def f32Of (d : List Byte) (i : Nat) : FVal := decF .fp32 (leOf d i 4)
/-- Whether a value is finite. -/
def FVal.finite : FVal → Bool
  | .fin _ _ _ => true
  | _ => false
/-- Whether a value is finite and not below zero. -/
def FVal.nonneg (v : FVal) : Bool := v.finite && (v.isZero || !v.neg?)

/-- grain of a descriptor: 0 block, 1 trust ratio, 2 whitened. -/
def grainOf (d : List Byte) : Nat := leOf d 0 1 / 2 % 4
/-- A flag bit of a descriptor: 3 sr, 4 srm, 5 wcopy, 6 gclr. -/
def dflag (d : List Byte) (i : Nat) : Bool := leOf d 0 1 / 2 ^ i % 2 = 1
/-- The elements of the shard. -/
def shardN (d : List Byte) : Nat := leOf d 8 8

/-- A layer of the layer table (R363): first element, rows, columns, table index. -/
structure Layer where
  e0 : Nat
  r : Nat
  c : Nat
  i : Nat
  deriving DecidableEq, Repr

/-- The elements of a layer. -/
def Layer.size (l : Layer) : Nat := l.r * l.c
/-- Whether an element lies in a layer. -/
def Layer.has (l : Layer) (e : Nat) : Bool := l.e0 ≤ e && e < l.e0 + l.size

/-- The layers of a table. -/
def layersOf (d tab : List Byte) : List Layer :=
  if grainOf d = 0 then []
  else (List.range (leOf d 124 2)).map (fun i => ⟨leOf tab (64 * i) 8, leOf tab (64 * i + 8) 4, leOf tab (64 * i + 12) 4, i⟩)

/-- The arrays of a shard that the group uses: base and length in bytes. -/
def shardArrays (d : List Byte) : List (Nat × Nat) :=
  let n := shardN d
  let nb := (n + 31) / 32
  [(leOf d 24 8, 4 * n), (leOf d 32 8, 4 * n), (leOf d 40 8, n), (leOf d 48 8, n), (leOf d 56 8, nb), (leOf d 64 8, nb)] ++
  (if dflag d 5 then [(leOf d 72 8, 2 * n)] else [])

/-- Whether a range lies in stack k. -/
def inStack (k a n : Nat) : Bool := k * 2 ^ 37 ≤ a && a + n ≤ (k + 1) * 2 ^ 37

/-- No two ranges of a list share a byte. -/
def disjoint : List (Nat × Nat) → Bool
  | [] => true
  | x :: xs => xs.all (fun y => x.1 + x.2 ≤ y.1 || y.1 + y.2 ≤ x.1) && disjoint xs

/-- The descriptor's own fields obey R353. -/
def groupDescOk (k : Nat) (d : List Byte) : Bool :=
  let z (i n : Nat) : Bool := leOf d i n = 0
  !dflag d 7 && grainOf d ≠ 3 && z 1 7 && 1 ≤ shardN d && z 127 1 &&
  (shardArrays d).all (fun x => x.1 % 64 = 0 && x.1 < 2 ^ 41 && inStack k x.1 x.2) && disjoint (shardArrays d) &&
  leOf d 80 8 % 64 = 0 && inStack k (leOf d 80 8) 16 &&
  (grainOf d = 0 || (leOf d 88 8 % 64 = 0 && 1 ≤ leOf d 124 2 && leOf d 124 2 ≤ 4096 && inStack k (leOf d 88 8) (64 * leOf d 124 2))) &&
  (f32Of d 96).nonneg && flt (f32Of d 96) (.ofNat 1) && (f32Of d 100).nonneg && flt (f32Of d 100) (.ofNat 1) &&
  (f32Of d 104).nonneg && (f32Of d 108).nonneg && (f32Of d 112).finite

/-- The entries of a schedule: step and rate (R355). -/
def schedEntries (tab : List Byte) : List (Nat × FVal) :=
  (List.range (leOf tab 0 4)).map (fun j => (leOf tab (16 + 16 * j) 8, decF .fp64 (leOf tab (24 + 16 * j) 8)))

/-- Steps that increase strictly. -/
def increasing : List (Nat × FVal) → Bool
  | [] => true
  | [_] => true
  | x :: y :: l => x.1 < y.1 && increasing (y :: l)

/-- The schedule table obeys R355. -/
def schedOk (k : Nat) (d tab : List Byte) : Bool :=
  let n := leOf tab 0 4
  1 ≤ n && n ≤ 256 && leOf tab 4 1 ≤ 1 && leOf tab 5 11 = 0 && inStack k (leOf d 80 8) (16 + 16 * n) &&
  increasing (schedEntries tab) && (schedEntries tab).all (fun x => x.2.finite)

/-- Layers in order, not overlapping, within the shard. -/
def layersOrdered (n : Nat) : Nat → List Layer → Bool
  | _, [] => true
  | lo, l :: ls => lo ≤ l.e0 && l.e0 + l.size ≤ n && layersOrdered n (l.e0 + l.size) ls

/-- The layer table obeys R363. -/
def layersOk (d tab : List Byte) : Bool :=
  let ls := layersOf d tab
  layersOrdered (shardN d) 0 ls &&
  ls.all (fun l => l.e0 % 32 = 0 && 1 ≤ l.r && 1 ≤ l.c && (grainOf d ≠ 2 || l.c ≤ 128) &&
    leOf tab (64 * l.i + 24) 1 < 4 && leOf tab (64 * l.i + 25) 39 = 0)

/-- The learning rate of step t (R356). -/
def learnRate (tab : List Byte) (t : Nat) : FVal :=
  let es := schedEntries tab
  let mode := leOf tab 4 1
  let n64 (x : Nat) : FVal := r64 (.ofNat x)
  let rec go : List (Nat × FVal) → FVal
    | [] => .fin false 0 0
    | [x] => x.2
    | x :: y :: l =>
      if t < x.1 then x.2
      else if y.1 ≤ t then go (y :: l)
      else if mode = 0 then x.2
      else add64 x.2 (mul64 (sub64 y.2 x.2) (div64 (n64 (t - x.1)) (n64 (y.1 - x.1))))
  go es

/-! ### The checks of R370 -/

/-- The address of descriptor g of context c on unit k (R352). -/
def State.groupAddr (s : State) (k c g : Nat) : Nat := (tget 0 (s.unit k).gtBase c).toNat + 128 * g

/-- What a unit finds when it checks a group (R370): it holds no valid descriptor, a result code with the mark that the descriptor
itself was sound, or the tables to work with. -/
inductive StratChk where
  | none_
  | fail (code : Nat) (descSound : Bool)
  | ok (desc sched layers : List Byte)
  deriving DecidableEq, Repr

/-- The plain bytes of a read. -/
def plain (d : List PByte) : List Byte := d.map (·.1)

/-- The checks of R370 and R373 on unit k for group g of context c of partition p, with the expected step. Layer
grain on a part without it ends with CAP_ABSENT before the shard is read (R6). -/
def State.stratCheck (s : State) (k p c g : Nat) (step : W64) : StratChk :=
  let cnt := min 4096 (tget 0 (s.unit k).gtCnt c).toNat
  if cnt = 0 then .none_
  else if (s.stack k).halted then .fail 5 false
  else if partOfStack s.partMode k ≠ p then .fail 4 false
  else if cnt ≤ g then .fail 3 false
  else
    let a := s.groupAddr k c g
    let d := s.memRead a 128
    if !inStack k a 128 || anyPois d then .fail 3 false
    else
      let d := plain d
      if !dflag d 0 then .none_
      else if !groupDescOk k d then .fail 3 false
      else
        let sh := s.memRead (leOf d 80 8) (16 + 16 * min 256 (leAt (s.memRead (leOf d 80 8) 4) 0 4))
        let ly := if grainOf d = 0 then [] else s.memRead (leOf d 88 8) (64 * leOf d 124 2)
        if anyPois sh || anyPois ly || !schedOk k d (plain sh) || !layersOk d (plain ly) then .fail 3 true
        else if !(shardArrays d).all (fun x => s.inRanges ⟨false, p, c⟩ x.1 x.2) then .fail 4 true
        else if grainOf d ≠ 0 && !s.fx then .fail 2 true
        else if BitVec.ofNat 64 (leOf d 16 8) + 1 ≠ step then .fail 1 true
        else .ok d (plain sh) (plain ly)

/-! ### Blocks of 32 elements (R357 to R362) -/

/-- The generator of a unit advanced once: the 16 random bits and the unit's next state (R359). -/
def stratDraw (x : W64) : Nat × W64 :=
  let y := rngStep x
  ((y * 0x2545f4914f6cdd1d#64).toNat / 2 ^ 48, y)

/-- pow(β, t) of R357, within 1 ulp of FP64; β itself for t = 1, and 0 for β = 0. -/
def powOf (b : FVal) (t : Nat) : FVal :=
  let bits := BitVec.ofNat 64 (encF .fp64 0 false 0 b).1
  match b with
  | .fin s m e =>
    if m = 0 then .fin false 0 0
    else if t = 1 then b
    else
      let y := powE s m e t
      let (i, j) := leftOpen .fp64 y.lo y.hi y.e
      let exact := y.lo = y.hi && (encF .fp64 1 false 0 (.fin false y.lo y.e)).1 = j
      let (i, j) := if exact then (i - 1, j + 1) else (i, j)
      decF .fp64 (openBits .fp64 y.s false true (i + Config.powPick bits t % (j - i + 1)) 0).1
  | _ => decF .fp64 (Config.powValue bits t).toNat

/-- The moments and directions of one element (R357): descriptor, step, gradient, old moments; m, v, mh, vh, ua. -/
def momentsOf (d : List Byte) (t : Nat) (g m v : FVal) : FVal × FVal × FVal × FVal × FVal :=
  let one : FVal := .ofNat 1
  let b1 := f32Of d 96
  let b2 := f32Of d 100
  let g := mul64 (f32Of d 112) g
  let m := add64 (mul64 b1 m) (mul64 (sub64 one b1) g)
  let v := add64 (mul64 b2 v) (mul64 (sub64 one b2) (mul64 g g))
  let mh := div64 m (sub64 one (powOf b1 t))
  let vh := div64 v (sub64 one (powOf b2 t))
  (m, v, mh, vh, div64 mh (add64 (sqrt64 vh) (f32Of d 104)))

/-- The new master weight before rounding (R357). -/
def weightOf (d : List Byte) (eta dir w : FVal) : FVal :=
  sub64 w (mul64 eta (add64 dir (mul64 (f32Of d 108) w)))

/-- The E8M0 scale of a block under the ceiling rule for E4M3 (R237), or of its special contents (R239). -/
def ceilScale (vs : List FVal) : Nat :=
  let mag (v : FVal) : FVal := v.abs
  if vs.any (fun v => match v with | .inf _ => true | _ => false) then 0xFF
  else
    let a := (vs.filter FVal.finite).foldl (fun a v => if flt a (mag v) then mag v else a) (.fin false 0 0)
    match a with
    | .fin _ m e =>
      if m = 0 then 127
      else
        let L : Int := e + bitLen m - 1
        let kk : Int := if ltScaled 448 (L - 8) m e then L - 7 else L - 8
        (max 0 (min 254 (kk + 127))).toNat
    | _ => 127

/-- A value quantised to E4M3 under scale S (R238): code and whether it was clamped. -/
def quantE4 (rm r S : Nat) (v : FVal) : Nat × Bool :=
  let x : FVal := match v with
    | .fin sg m e => if m = 0 then .fin sg 0 0 else .fin sg m (e + 127 - S)
    | y => y
  if S = 0xFF then (if v = .nan then 0x7F else 0, false)
  else let q := encF .e4m3 rm true r x; (q.1, (q.2 &&& fSat) ≠ 0 || (q.2 &&& fOvf) ≠ 0)

/-- What the update leaves of one element: weight bits and clamp, moments before quantisation, the value for the gradient array (none:
unchanged), random bits for the two moments, poison, not updated. -/
structure ElemOut where
  w : Nat
  m : FVal
  v : FVal
  g : Option Nat
  r1 : Nat
  r2 : Nat
  pois : Bool
  nonfin : Bool
  sat : Bool
  deriving DecidableEq, Repr

/-- A block as read: elements' weight, gradient, moment codes with poison, and the scales. -/
def State.readElem (s : State) (d : List Byte) (e : Nat) : (Nat × Bool) × (Nat × Bool) × FVal × FVal × Bool :=
  let rd (a n : Nat) : Nat × Bool := let x := s.memRead a n; (leNatP x, anyPois x)
  let w := rd (leOf d 24 8 + 4 * e) 4
  let g := rd (leOf d 32 8 + 4 * e) 4
  let m := rd (leOf d 40 8 + e) 1
  let v := rd (leOf d 48 8 + e) 1
  let sm := rd (leOf d 56 8 + e / 32) 1
  let sv := rd (leOf d 64 8 + e / 32) 1
  (w, g, (scaleVal (decF .e4m3 m.1) sm.1).1, (scaleVal (decF .e4m3 v.1) sv.1).1, w.2 || g.2 || m.2 || v.2 || sm.2 || sv.2)

/-- The update of one element (R357 to R362): `lay`: it lies in a layer, whose weight waits for phase 2; `g0`: a gradient that replaces
the array's (R373); `x` the generator; `bad`: its check failed (R375). -/
def State.elemUpd (s : State) (d : List Byte) (t : Nat) (eta : FVal) (lay : Bool) (g0 : Option (Nat × Bool)) (bad : Bool) (e : Nat)
    (x : W64) : ElemOut × W64 :=
  let rd := s.readElem d e
  let w := rd.1
  let g := g0.getD rd.2.1
  let m := rd.2.2.1
  let v := rd.2.2.2.1
  let pois := rd.2.2.2.2 || g.2 || bad
  let gv := decF .fp32 g.1
  let wv := decF .fp32 w.1
  let non := !gv.finite || !m.finite || !v.finite || (!lay && !wv.finite)
  let mo := momentsOf d t gv m v
  let keep := if g0.isSome && !lay && !dflag d 6 then some g.1 else none
  let clr := if dflag d 6 && !lay then some 0 else keep
  let stored := if lay then some (encF .fp32 0 false 0 (if grainOf d = 1 then mo.2.2.2.2 else mo.2.2.1)).1 else clr
  let rmw := if dflag d 3 then 4 else 0
  if lay || non then
    let a := stratDraw x
    let b := stratDraw a.2
    (⟨w.1, if non then m else mo.1, if non then v else mo.2.1, stored, a.1, b.1, pois, non, false⟩, b.2)
  else
    let c := stratDraw x
    let a := stratDraw c.2
    let b := stratDraw a.2
    let q := encF .fp32 rmw true c.1 (weightOf d eta mo.2.2.2.2 wv)
    (⟨q.1, mo.1, mo.2.1, stored, a.1, b.1, pois, false, (q.2 &&& fSat) ≠ 0⟩, b.2)

/-- The elements of a block updated in order. -/
def State.elemsUpd (s : State) (d : List Byte) (t : Nat) (eta : FVal) (ls : List Layer) (g0 : Nat → Option (Nat × Bool))
    (bad : Nat → Bool) : List Nat → W64 → List ElemOut × W64
  | [], x => ([], x)
  | e :: es, x =>
    let a := s.elemUpd d t eta (ls.any (·.has e)) (g0 e) (bad e) e x
    let r := s.elemsUpd d t eta ls g0 bad es a.2
    (a.1 :: r.1, r.2)

/-- The flags of a result word (R371). -/
def strFlags (sat pois non fall : Bool) : W32 :=
  (if sat then 0x800#32 else 0) ||| (if pois then 0x400#32 else 0) ||| (if non then 0x200#32 else 0) ||| (if fall then 0x100#32 else 0)

/-- Bytes of a value with a poison mark. -/
def markBytes (n v : Nat) (p : Bool) : List PByte := (leBytes n v).map (·, p)

/-- What goes to the working copy of element e (R360, R361): the new weight in BF16; an element that is not updated keeps what stands there. -/
def State.workCopy (s : State) (d : List Byte) (e w : Nat) (pois kept : Bool) : List PByte :=
  if kept then (s.memRead (leOf d 72 8 + 2 * e) 2).map (fun x => (x.1, x.2 || pois))
  else markBytes 2 (encF .bf16 0 true 0 (decF .fp32 w)).1 pois

/-- Block b of the shard updated and written (R357 to R362): the state, the generator, the flags. -/
def State.blockUpd (s : State) (d : List Byte) (t : Nat) (eta : FVal) (ls : List Layer) (g0 : Nat → Option (Nat × Bool))
    (bad : Nat → Bool) (b : Nat) (x : W64) : State × W64 × W32 :=
  let n := shardN d
  let cnt := min 32 (n - 32 * b)
  let es := rangeFrom (32 * b) cnt
  let r := s.elemsUpd d t eta ls g0 bad es x
  let os := r.1
  let oldS (base : Nat) : Nat × Bool := let y := s.memRead (base + b) 1; (leNatP y, anyPois y)
  let scale (base : Nat) (vs : List FVal) : Nat := if (oldS base).1 = 0xFF then 0xFF else ceilScale vs
  let S1 := scale (leOf d 56 8) (os.map (·.m))
  let S2 := scale (leOf d 64 8) (os.map (·.v))
  let rmm := if dflag d 4 then 4 else 0
  let q1 := os.map (fun o => quantE4 rmm o.r1 S1 o.m)
  let q2 := os.map (fun o => quantE4 rmm o.r2 S2 o.v)
  let codes (qs : List (Nat × Bool)) : List PByte := (qs.zip os).flatMap (fun z => markBytes 1 z.1.1 z.2.pois)
  let lay (e : Nat) : Bool := ls.any (·.has e)
  let ws := (es.zip os).flatMap (fun z =>
    if lay z.1 then s.memRead (leOf d 24 8 + 4 * z.1) 4 else markBytes 4 z.2.w z.2.pois)
  let gs := (es.zip os).flatMap (fun z =>
    match z.2.g with | some v => markBytes 4 v z.2.pois | none => s.memRead (leOf d 32 8 + 4 * z.1) 4)
  let wc := (es.zip os).flatMap (fun z =>
    if lay z.1 then s.memRead (leOf d 72 8 + 2 * z.1) 2
    else s.workCopy d z.1 z.2.w z.2.pois z.2.nonfin)
  let s1 := s.memWrite (leOf d 40 8 + 32 * b) (codes q1)
  let s1 := s1.memWrite (leOf d 48 8 + 32 * b) (codes q2)
  let s1 := s1.memWrite (leOf d 56 8 + b) (markBytes 1 S1 (oldS (leOf d 56 8)).2)
  let s1 := s1.memWrite (leOf d 64 8 + b) (markBytes 1 S2 (oldS (leOf d 64 8)).2)
  let s1 := if os.any (fun o => o.g.isSome) then s1.memWrite (leOf d 32 8 + 128 * b) gs else s1
  let s1 := if es.all lay then s1 else s1.memWrite (leOf d 24 8 + 128 * b) ws
  let s1 := if dflag d 5 && !es.all lay then s1.memWrite (leOf d 72 8 + 64 * b) wc else s1
  (s1, r.2, strFlags (os.any (·.sat) || (q1 ++ q2).any (·.2)) (os.any (·.pois)) (os.any (·.nonfin)) false)

/-- Blocks updated in order. -/
def State.blocksUpd (s : State) (d : List Byte) (t : Nat) (eta : FVal) (ls : List Layer) (bad : Nat → Bool) :
    List Nat → W64 → W32 → State × W64 × W32
  | [], x, f => (s, x, f)
  | b :: bs, x, f =>
    let r := s.blockUpd d t eta ls (fun _ => none) bad b x
    r.1.blocksUpd d t eta ls bad bs r.2.1 (f ||| r.2.2)

/-! ### Layer grain (R364 to R367) -/

/-- A sum in FP64 in element order. -/
def sum64 (l : List FVal) : FVal := l.foldl add64 (.fin false 0 0)

/-- A place of a matrix held as a list of rows. -/
def matAt (a : List (List FVal)) (i j : Nat) : FVal := (a.getD i []).getD j (.fin false 0 0)

/-- A = Hᵀ H + δ tr(Hᵀ H) I (R366), formed in row order. -/
def gram (c : Nat) (H : List (List FVal)) (delta : FVal) : List (List FVal) :=
  let G := (List.range c).map (fun i => (List.range c).map (fun j =>
    H.foldl (fun acc h => add64 acc (mul64 (h.getD i (.fin false 0 0)) (h.getD j (.fin false 0 0)))) (.fin false 0 0)))
  let dt := mul64 delta (sum64 ((List.range c).map (fun i => matAt G i i)))
  (List.range c).map (fun i => (List.range c).map (fun j => if i = j then add64 (matAt G i j) dt else matAt G i j))

/-- Column j of the Cholesky factor given the columns before it (R366): `none` when its pivot is not positive or not finite (R367).
Columns are lists from row 0. -/
def cholCol (c : Nat) (A : List (List FVal)) (L : List (List FVal)) (j : Nat) : Option (List FVal) :=
  let dot (i k : Nat) : FVal := L.foldl (fun acc col => sub64 acc (mul64 (col.getD i (.fin false 0 0)) (col.getD k (.fin false 0 0)))) (matAt A i k)
  let p := dot j j
  if !p.finite || p.isZero || p.neg? then none
  else
    let r := sqrt64 p
    some ((List.range c).map (fun i => if i < j then .fin false 0 0 else if i = j then r else div64 (dot i j) r))

/-- The Cholesky factor's columns (R366). -/
def cholesky (c : Nat) (A : List (List FVal)) : List Nat → List (List FVal) → Option (List (List FVal))
  | [], L => some L
  | j :: js, L => match cholCol c A L j with
    | none => none
    | some col => cholesky c A js (L ++ [col])

/-- Forward substitution L d = h (R366): the entries of d so far, in order. -/
def forwardSub (L : List (List FVal)) (h : List FVal) : List Nat → List FVal → List FVal
  | [], dn => dn
  | i :: is, dn =>
    let x := (List.range dn.length).foldl (fun acc k => sub64 acc (mul64 (matAt L k i) (dn.getD k (.fin false 0 0)))) (h.getD i (.fin false 0 0))
    forwardSub L h is (dn ++ [div64 x (matAt L i i)])

/-- The FP32 values that phase 1 left in a layer's gradient array. -/
def State.layerVals (s : State) (d : List Byte) (l : Layer) : List FVal :=
  (rangeFrom l.e0 l.size).map (fun e => decF .fp32 (leNatP (s.memRead (leOf d 32 8 + 4 * e) 4)))

/-- Whether an element of a layer is poisoned after phase 1 (R362). -/
def State.layerPois (s : State) (d : List Byte) (l : Layer) : Bool :=
  (rangeFrom l.e0 l.size).any (fun e =>
    anyPois (s.memRead (leOf d 24 8 + 4 * e) 4) || anyPois (s.memRead (leOf d 32 8 + 4 * e) 4))

/-- The directions of a layer's elements in phase 2 (R365 to R367): for the block rule by fallback the direction is ua, recomputed for
the whitened rule from mh and the quantised second moment. Answers the directions and whether a whitened layer fell back. -/
def State.layerDirs (s : State) (d tab : List Byte) (t : Nat) (l : Layer) : List FVal × Bool :=
  let h := s.layerVals d l
  let fall : List FVal := (rangeFrom l.e0 l.size).zip h |>.map (fun z =>
    let v := (s.readElem d z.1).2.2.2.1
    let b2 := f32Of d 100
    div64 z.2 (add64 (sqrt64 (div64 v (sub64 (.ofNat 1) (powOf b2 t)))) (f32Of d 104)))
  if grainOf d = 1 then
    if s.layerPois d l then (h, false)
    else
      let fin := h.filter FVal.finite
      let nu := sqrt64 (sum64 (fin.map (fun v => mul64 v v)))
      let wn2 : FVal :=
        if leOf tab (64 * l.i + 24) 1 % 2 = 1 then decF .fp64 (leOf tab (64 * l.i + 16) 8)
        else sum64 ((rangeFrom l.e0 l.size).map (fun e => let w := decF .fp32 (leNatP (s.memRead (leOf d 24 8 + 4 * e) 4)); mul64 w w))
      let nw := sqrt64 wn2
      let qm := f32Of d 120
      let q0 := div64 nw nu
      let q : FVal := if nw.isZero || nu.isZero then .ofNat 1 else if !qm.isZero && flt qm q0 then qm else q0
      (h.map (fun u => mul64 q u), false)
  else
    let rows := (List.range l.r).map (fun i => (h.drop (i * l.c)).take l.c)
    let delta : FVal := if (f32Of d 116).isZero then decF .fp64 0x3E45798EE2308C3A else f32Of d 116
    match (if s.layerPois d l then none else cholesky l.c (gram l.c rows delta) (List.range l.c) []) with
    | none => (fall, true)
    | some L => (rows.flatMap (fun r => (forwardSub L r (List.range l.c) []).map (fun x => mul64 (f32Of d 120) x)), false)

/-- Phase 2 of a layer (R364 to R367): weights, working copies, cleared gradients, the layer table; answers state, generator, flags. -/
def State.layerPhase2 (s : State) (d tab : List Byte) (t : Nat) (eta : FVal) (bad : Bool) (l : Layer) (x : W64) : State × W64 × W32 :=
  let dr := s.layerDirs d tab t l
  let rmw := if dflag d 3 then 4 else 0
  let step := fun (acc : List (Nat × Bool × Bool × Bool) × W64) (z : Nat × FVal) =>
    let wb := s.memRead (leOf d 24 8 + 4 * z.1) 4
    let gb := s.memRead (leOf d 32 8 + 4 * z.1) 4
    let w := decF .fp32 (leNatP wb)
    let p := anyPois wb || anyPois gb || bad
    if !w.finite || !z.2.finite then (acc.1 ++ [(leNatP wb, p, true, false)], acc.2)
    else
      let c := stratDraw acc.2
      let q := encF .fp32 rmw true c.1 (weightOf d eta z.2 w)
      (acc.1 ++ [(q.1, p, false, decide ((q.2 &&& fSat) ≠ 0))], c.2)
  let r := ((rangeFrom l.e0 l.size).zip dr.1).foldl step ([], x)
  let os := r.1
  let s1 := s.memWrite (leOf d 24 8 + 4 * l.e0) (os.flatMap (fun o => markBytes 4 o.1 o.2.1))
  let s1 := if dflag d 5 then
      s1.memWrite (leOf d 72 8 + 2 * l.e0) (((rangeFrom l.e0 l.size).zip os).flatMap (fun z => s.workCopy d z.1 z.2.1 z.2.2.1 z.2.2.2.1))
    else s1
  let s1 := if dflag d 6 then s1.memWrite (leOf d 32 8 + 4 * l.e0) (os.flatMap (fun o => markBytes 4 0 o.2.1)) else s1
  let ta := leOf d 88 8 + 64 * l.i
  let fl := (if grainOf d = 1 then 1 else leOf tab (64 * l.i + 24) 1 % 2) + (if dr.2 then 2 else 0)
  let s1 := s1.memWrite (ta + 24) (clean (leBytes 1 fl))
  let s1 := if grainOf d = 1 then
      let wn := sum64 (os.map (fun o => let w := decF .fp32 o.1; mul64 w w))
      s1.memWrite (ta + 16) (clean (leBytes 8 (encF .fp64 0 false 0 wn).1))
    else s1
  (s1, r.2, strFlags (os.any (·.2.2.2)) (os.any (·.2.1)) (os.any (·.2.2.1)) dr.2)

/-- Phase 2 of several layers in table order. -/
def State.layersPhase2 (s : State) (d tab : List Byte) (t : Nat) (eta : FVal) (bad : Nat → Bool) :
    List Layer → W64 → W32 → State × W64 × W32
  | [], x, f => (s, x, f)
  | l :: ls, x, f =>
    let r := s.layerPhase2 d tab t eta (bad l.i) l x
    r.1.layersPhase2 d tab t eta bad ls r.2.1 (f ||| r.2.2)

/-! ### Passes and results (R368 to R372) -/

/-- Elements whose check failed: number lane + 512 × row (R375). -/
def ckElem (ck : List CheckFail) (e : Nat) : Bool := ck.any (fun c => c.stage.val < 4 && c.lane.val + 512 * c.row.val = e)
/-- Layers for which a check of A, L or D failed. -/
def ckLayer (ck : List CheckFail) (i : Nat) : Bool := ck.any (fun c => 4 ≤ c.stage.val && c.row.val = i)

/-- A whole pass over a shard on unit k (R364, R370): the state with the shard updated and its step set, and the flags. -/
def State.stratPass (s : State) (k : Nat) (run : StratRun) : State × W32 :=
  let d := run.desc
  let t := run.step.toNat
  let eta := learnRate run.sched t
  let ls := layersOf d run.layers
  let nb := (shardN d + 31) / 32
  let r := s.blocksUpd d t eta ls (ckElem run.ck) (List.range nb) (s.unit k).rng 0
  let r2 := r.1.layersPhase2 d run.layers t eta (ckLayer run.ck) ls r.2.1 r.2.2
  let s1 := r2.1
  let s1 := s1.memWrite (s1.groupAddr k run.ctx run.group + 16) (clean (leBytes 8 t))
  let u := s1.unit k
  let cnt := run.ck.length
  (s1.setUnit k { u with
    rng := r2.2.1, prog := BitVec.ofNat 63 (shardN d), phase2 := u.phase2 || ls ≠ []
    errcnt := BitVec.ofNat 16 (min 0xFFFF (u.errcnt.toNat + cnt)) }, r2.2.2)

/-- The result byte of the descriptor and STRAT_LAST written (R371). -/
def State.stratLast (s : State) (k c g : Nat) (word : W32) (sound : Bool) : State :=
  let s := if sound then s.memWrite (s.groupAddr k c g + 126) (clean (leBytes 1 (word.toNat % 256))) else s
  s.setUnit k { s.unit k with last := word }

/-- The word of one unit for its shard (R371): its code, flags, and its own bit when the code is not OK. -/
def unitWord (k code : Nat) (flags : W32) : W32 :=
  (flags &&& 0xF00#32) ||| (if code = 0 then 0 else 0x10000#32 <<< k) ||| BitVec.ofNat 32 code

/-- The combined result word of R371: codes by their maximum, flags by OR, a bit for each unit that did not report OK; BAD_GROUP when no
unit holds a valid descriptor. -/
def combineWords (l : List (Nat × W32)) (anyValid : Bool) : W32 :=
  let code := l.foldl (fun c x => max c (x.2.toNat % 256)) 0
  let code := if code = 0 && !anyValid then 3 else code
  let flags := l.foldl (fun f x => f ||| (x.2 &&& 0xF00#32)) 0
  let bits := l.foldl (fun f x => if x.2.toNat % 256 ≠ 0 then f ||| (0x10000#32 <<< x.1) else f) 0
  flags ||| bits ||| BitVec.ofNat 32 code

/-- The status of a collective or update goes to its requester (R288, R289, R371, R435): words at a tile's tensor with 1 added to its
event, or at a result address with the stream's command completed or faulted by `code`, which is 0 for success. -/
def State.answer (s : State) (r : ReplyTo) (words : List W32) (code : Nat) : State :=
  let bytes := clean (words.flatMap (fun w => leBytes 4 w.toNat))
  match r with
  | .tile t off ev =>
    s.modTile t.val (fun x => evInc (if x.power = .noon then spWrite x off bytes else x) ev.val 1)
  | .stream i addr =>
    let e := s.entry i.val
    match e.run with
    | none => s
    | some c =>
      let s := (s.engineWrite e.tag addr bytes).1
      if code = 0 then s.completeCmd i.val c.1 else s.faultStream i.val code 0

/-- Unit k has finished its part of update `id` (R371): the combined word is written once every unit has. -/
def State.unitDone (s : State) (id k : Nat) (word : W32) (valid : Bool) : State :=
  match s.upds.find? (·.id = id) with
  | none => s
  | some j =>
    let j := { j with results := j.results ++ [(k, word)], anyValid := j.anyValid || valid }
    if j.results.length < 12 then { s with upds := s.upds.map (fun x => if x.id = id then j else x) }
    else
      let w := combineWords j.results j.anyValid
      let code := w.toNat % 256
      let s := { s with upds := s.upds.filter (·.id ≠ id) }
      s.answer j.reply [w] (if code = 0 then 0 else if code = 2 then 4 else 0xB)

/-- An update is queued on the twelve units (R368, R370); `none` while some queue is full. -/
def State.queueUpdate (s : State) (p c g : Nat) (step : W64) (reply : ReplyTo) : Option State :=
  if (List.range 12).any (fun k => 32 ≤ (s.unit k).queue.length) then none
  else
    let id := s.nextId
    let s := (List.range 12).foldl (fun s k => s.setUnit k { s.unit k with queue := (s.unit k).queue ++ [.pass id p c g step] }) s
    some { s with nextId := id + 1, upds := s.upds ++ [⟨id, p, c, reply, [], false⟩] }

/-- The stack's share of a stratus pass charged to its partition's regulator (R340, R369). -/
def State.chargeStack (s : State) (k cls bytes : Nat) : State :=
  let b := s.stack k
  if (tget 0 b.reg cls) &&& 0x3FF#32 = 0 then s
  else s.setStack k { b with bucket := tset 0 b.bucket cls (tget 0 b.bucket cls - 4 * (bytes : Int)) }

/-- The bytes that one element moves, times 32 (R369): the block rule, or both phases. -/
def elemTraffic (d : List Byte) : Nat :=
  (if grainOf d = 0 then 516 + (if dflag d 6 then 128 else 0) else 772) + (if dflag d 5 then 64 else 0)

/-! ### Fused chunks (R373, R374) -/

/-- The 32-element units that a chunk covers. -/
def chunkUnits (c : StratChunk) : List Nat :=
  rangeFrom (c.first / 32) ((c.vals.length + 31) / 32)

/-- The gradient after adding a chunk's element (R373). -/
def addGrad (g c : Nat × Bool) : Nat × Bool :=
  ((encF .fp32 0 false 0 (fadd false (decF .fp32 g.1) (decF .fp32 c.1)).1).1, g.2 || c.2)

/-- The element's gradient as it stands and the chunk's value for it. -/
def State.gradAt (s : State) (d : List Byte) (e : Nat) : Nat × Bool :=
  let x := s.memRead (leOf d 32 8 + 4 * e) 4
  (leNatP x, anyPois x)

/-- The value of a chunk for element e. -/
def chunkVal (c : StratChunk) (e : Nat) : Nat × Bool :=
  let v := c.vals.getD (e - c.first) (0, false)
  (v.1.toNat, v.2)

/-- The final blocks of a chunk updated (R373): phase 1 with the given gradients. -/
def State.finalBlocks (s : State) (d : List Byte) (t : Nat) (eta : FVal) (ls : List Layer) (g0 : Nat → Option (Nat × Bool)) :
    List Nat → W64 → W32 → State × W64 × W32
  | [], x, f => (s, x, f)
  | b :: bs, x, f =>
    let r := s.blockUpd d t eta ls g0 (fun _ => false) b x
    r.1.finalBlocks d t eta ls g0 bs r.2.1 (f ||| r.2.2)

/-- A chunk of the shape that R373 asks for: a run of elements of the shard from a multiple of 32. -/
def chunkOk (d : List Byte) (c : StratChunk) : Bool :=
  c.first % 32 = 0 && c.vals ≠ [] && c.first + c.vals.length ≤ shardN d &&
  (c.vals.length % 32 = 0 || c.first + c.vals.length = shardN d)

/-- A fused chunk served by unit k (R373, R374): operation 0 ADD, 1 FINAL_ADD, 2 FINAL_SET. A chunk of no fused pass, or of another shape,
changes nothing. -/
def State.serveChunk (s : State) (k op : Nat) (c : StratChunk) : State :=
  let u := s.unit k
  let ctx := c.ctx.val
  let grp := c.group.toNat
  match u.fused.find? (fun f => f.ctx = ctx && f.group = grp) with
  | none => s
  | some f =>
    let d := f.desc
    if !chunkOk d c || (s.stack k).halted then s
    else
      let es := rangeFrom c.first c.vals.length
      let sum := fun (e : Nat) => addGrad (s.gradAt d e) (chunkVal c e)
      let put (s : State) (f : FusedRun) : State :=
        let u := s.unit k
        s.setUnit k { u with fused := u.fused.map (fun x => if x.ctx = ctx && x.group = grp then f else x) }
      if op = 0 then
        let bytes := es.flatMap (fun e => let v := sum e; markBytes 4 v.1 v.2)
        put (s.memWrite (leOf d 32 8 + 4 * c.first) bytes) { f with accepted := true }
      else
        let t := f.step.toNat
        let eta := learnRate f.sched t
        let ls := layersOf d f.layers
        let g0 := fun (e : Nat) => some (if op = 1 then sum e else chunkVal c e)
        let r := s.finalBlocks d t eta ls g0 (chunkUnits c) u.rng f.flags
        let cov := f.covered ++ (chunkUnits c).filter (fun b => !f.covered.contains b)
        let ready := ls.filter (fun l => !f.done2.contains l.i &&
          (rangeFrom (l.e0 / 32) ((l.e0 + l.size + 31) / 32 - l.e0 / 32)).all cov.contains)
        let r2 := r.1.layersPhase2 d f.layers t eta (fun _ => false) ready r.2.1 r.2.2
        let s1 := r2.1
        let u1 := s1.unit k
        let s1 := s1.setUnit k { u1 with rng := r2.2.1, prog := BitVec.ofNat 63 (min (32 * cov.length) (shardN d))
                                         phase2 := u1.phase2 || ready ≠ [] }
        let f := { f with covered := cov, done2 := f.done2 ++ ready.map (·.i), accepted := true, flags := r2.2.2 }
        if cov.length < (shardN d + 31) / 32 then put s1 f
        else
          let s1 := s1.memWrite (s1.groupAddr k ctx grp + 16) (clean (leBytes 8 t))
          put (s1.stratLast k ctx grp f.flags true) f

/-- The fused chunks at the head of a unit's queue, served while no pass runs (R368, R374). -/
def State.serveQueue (s : State) (k : Nat) : Nat → State
  | 0 => s
  | n + 1 =>
    let u := s.unit k
    match u.run, u.queue with
    | none, .chunk op c :: q => ((s.setUnit k { u with queue := q }).serveChunk k op c).serveQueue k n
    | _, _ => s

/-- A chunk reaches unit k: it is served at once when the unit is free, and waits in the queue otherwise (R368). -/
def State.offerChunk (s : State) (k op : Nat) (c : StratChunk) : State :=
  let u := s.unit k
  if u.run.isNone && u.queue = [] && !(s.stack k).selfRefresh then s.serveChunk k op c
  else s.setUnit k { u with queue := u.queue ++ [.chunk op c] }

/-- A unit takes the pass at the head of its queue (R354, R370): the checks and the tables, with the check failures that the pass will meet. A
unit whose stack refreshes itself without being halted waits (R377). -/
def State.stratStart (s : State) (k : Nat) (ck : List CheckFail) : State :=
  let u := s.unit k
  let b := s.stack k
  match u.run, u.queue with
  | none, .pass id p c g step :: q =>
    if b.selfRefresh && !b.halted then s
    else
      let s := s.setUnit k { u with queue := q, ctx := BitVec.ofNat 4 c, group := BitVec.ofNat 12 g, prog := 0, phase2 := false }
      match s.stratCheck k p c g step with
      | .none_ => (s.unitDone id k 0 false).serveQueue k q.length
      | .fail code sound =>
        ((s.stratLast k c g (unitWord k code 0) sound).unitDone id k (unitWord k code 0) true).serveQueue k q.length
      | .ok d sc ly => s.setUnit k { s.unit k with run := some ⟨id, c, g, step, d, sc, ly, ck⟩ }
  | _, _ => s

/-- The running pass ends (R354, R370, R371): the shard with its step, the traffic charged to the partition's class, the results. -/
def State.stratFinish (s : State) (k : Nat) : State :=
  match (s.unit k).run with
  | none => s
  | some run =>
    let r := s.stratPass k run
    let word := unitWord k 0 r.2
    let s := r.1.chargeStack k (partOfStack s.partMode k) (shardN run.desc * elemTraffic run.desc / 32)
    let s := s.setUnit k { s.unit k with run := none }
    let s := (s.stratLast k run.ctx run.group word true).unitDone run.id k word true
    s.serveQueue k (s.unit k).queue.length

/-- The unit abandons its pass because its stack enters Storm (R372): `m` elements keep their new values, the step stays, the unit reports
ABANDONED. -/
def State.stratAbandon (s : State) (k m : Nat) : State :=
  match (s.unit k).run with
  | none => s
  | some run =>
    let d := run.desc
    let t := run.step.toNat
    let ls := layersOf d run.layers
    let nb := min (m / 32) ((shardN d + 31) / 32)
    let r := s.blocksUpd d t (learnRate run.sched t) ls (ckElem run.ck) (List.range nb) (s.unit k).rng 0
    let word := unitWord k 5 r.2.2
    let s := r.1
    let u := s.unit k
    let s := s.setUnit k { u with rng := r.2.1, run := none, prog := BitVec.ofNat 63 (min (32 * nb) (shardN d)) }
    (s.stratLast k run.ctx run.group word true).unitDone run.id k word true

end Sys2Proof.Machine
end

