-- ==== Sys2Proof/Machine/ConvoyOps.lean ====
section
/-! DEFINITION. Fabric ports and the convoy engine at work (R395 to R419): cells and replay, groups and their start checks, READY,
the routes of chunks, failure and slowness, and the ending of a collective. -/

namespace Sys2Proof.Machine

/-! ### Ports (R395 to R398) -/

/-- An event latch of the interrupt controller set (R473). -/
def State.latch (s : State) (i : Nat) : State := { s with icu := { s.icu with evlatch := s.icu.evlatch ||| (1#18 <<< i) } }

/-- Ports that the part has (R399). -/
def fabMask (fx : Bool) : BitVec 12 := if fx then 0xFFF#12 else 0x0FF#12

/-- Whether port n is a unit of the part. -/
def State.portHere (s : State) (n : Nat) : Bool := (fabMask s.fx).getLsbD n

/-- Whether a payload travels as a CTRL cell. -/
def CellPay.isCtrl : CellPay → Bool
  | .ctrl _ => true
  | _ => false

/-- The pois field of a data cell: bit j for 32-byte sector j (R395). -/
def poisBits (d : List PByte) : BitVec 8 :=
  (List.range 8).foldl (fun b j => if anyPois ((d.drop (32 * j)).take 32) then b ||| (1#8 <<< j) else b) 0

/-- The cell that carries a payload next on a port. -/
def PortBlk.cellOf (p : PortBlk) (pay : CellPay) : Cell :=
  { seq := p.txSeq, ack := p.rxSeq, crcOk := true, pay := pay
    pois := match pay with | .data _ c => poisBits c.data | _ => 0 }

/-- The first payload to send: CTRL before DATA (R396, R512). -/
def nextPay (q : List CellPay) : Option CellPay := match q.find? CellPay.isCtrl with | some p => some p | none => q.head?

/-- Waiting payloads sent while the replay buffer has room for at most 2,048 cells (R396). -/
def State.pumpPort (s : State) (n : PortIx) : Nat → State
  | 0 => s
  | k + 1 =>
    let p := s.portOf n.val
    if p.st ≠ .up || 2048 ≤ p.unacked.length then s
    else match nextPay p.txq with
      | none => s
      | some pay =>
        let c := p.cellOf pay
        let s := s.setPort n.val { p with txSeq := p.txSeq + 1, unacked := p.unacked ++ [c], txq := p.txq.erase pay }
        (s.emit (.cell n c)).pumpPort n k

/-- A payload handed to a port in UP; on another port it goes nowhere. -/
def State.sendPay (s : State) (n : PortIx) (pay : CellPay) : State :=
  let p := s.portOf n.val
  if p.st ≠ .up then s
  else (s.setPort n.val { p with txq := p.txq ++ [pay] }).pumpPort n (p.txq.length + 1)

/-! ### Groups (R400 to R402) -/

/-- The ports that lead to a neighbour: direction 0 successor or X+, 1 predecessor or X−, 2 Y+, 3 Y− (R400). -/
def dirPorts (fx : Bool) (alg : Nat) (dir : Nat) : BitVec 12 :=
  match alg, fx, dir with
  | 0, true, 0 => 0x03F | 0, true, _ => 0xFC0
  | 0, false, 0 => 0x00F | 0, false, _ => 0x0F0
  | 1, true, 0 => 0x007 | 1, true, 1 => 0x038 | 1, true, 2 => 0x1C0 | 1, true, _ => 0xE00
  | 1, false, 0 => 0x003 | 1, false, 1 => 0x00C | 1, false, 2 => 0x030 | 1, false, _ => 0x0C0
  | _, _, _ => 0xFFF

/-- The rank one step along a direction (R400). -/
def stepRank (alg p a b r dir : Nat) : Nat :=
  let up (x n : Nat) : Nat := (x + 1) % n
  let dn (x n : Nat) : Nat := (x + n - 1) % n
  if alg = 0 then (if dir = 0 then up r p else dn r p)
  else
    let x := r % a
    let y := r / a
    match dir with
    | 0 => up x a + a * y
    | 1 => dn x a + a * y
    | 2 => x + a * up y b
    | _ => x + a * dn y b

/-- The neighbours of a member: direction and rank (R400). -/
def neighbours (alg p a b r : Nat) : List (Nat × Nat) :=
  match alg with
  | 0 => [(0, stepRank 0 p a b r 0), (1, stepRank 0 p a b r 1)]
  | 1 => [0, 1, 2, 3].map (fun d => (d, stepRank 1 p a b r d))
  | _ => ((List.range p).filter (· ≠ r)).map (fun x => (0, x))

/-- The neighbours of a collective. -/
def Coll.nbrs (c : Coll) : List (Nat × Nat) := neighbours c.alg.toNat c.p c.a c.b c.rank

/-- The role of a rank. -/
def Coll.role (c : Coll) (r : Nat) : Role := c.roles.getD r ⟨0, 0⟩

/-- The ports that a collective uses for a neighbour. -/
def Coll.ports (c : Coll) (fx : Bool) (dir r : Nat) : BitVec 12 :=
  if c.alg = 2 then (c.role r).mask
  else let m := dirPorts fx c.alg.toNat dir &&& (c.role r).mask; if m = 0 then (c.role r).mask else m

/-- The fabric ports. -/
def allPorts : List PortIx := List.finRange 12

/-- The UP ports of a mask. -/
def State.upPorts (s : State) (m : BitVec 12) : List PortIx :=
  allPorts.filter (fun n => m.getLsbD n.val && (s.portOf n.val).st = .up)

/-- The descriptor of group g of context c (R401): 64 bytes, or none outside the table. -/
def State.cvyDesc (s : State) (c g : Nat) : Option (List Byte) :=
  if (min 1024 (tget 0 s.cvy.gtCnt c).toNat) ≤ g then none
  else
    let r := s.hubRead fwTag ((tget 0 s.cvy.gtBase c).toNat + 64 * g) 64
    if r.1 = 0 then some (plain r.2) else none

/-- The role map of a descriptor (R401). -/
def State.roleMap (s : State) (d : List Byte) : List Role :=
  (List.range (leOf d 2 2)).map (fun r =>
    let x := s.memRead (leOf d 16 8 + 8 * r) 8
    ⟨BitVec.ofNat 16 (leAt x 0 2), BitVec.ofNat 12 (leAt x 2 2 % 4096)⟩)

/-- A collective with its group's fields latched (R402). -/
def Coll.latch (c : Coll) (d : List Byte) (roles : List Role) : Coll :=
  { c with
    alg := BitVec.ofNat 2 (leOf d 0 1 / 2), epoch := BitVec.ofNat 8 (leOf d 1 1), p := leOf d 2 2, fgid := BitVec.ofNat 32 (leOf d 4 4)
    rank := leOf d 8 2, a := leOf d 10 2, b := leOf d 12 2, roles := roles }

/-- The field checks of R400 and R401. -/
def cvyDescOk (d : List Byte) : Bool :=
  let p := leOf d 2 2
  let a := leOf d 10 2
  let b := leOf d 12 2
  let alg := leOf d 0 1 / 2 % 4
  leOf d 0 1 % 2 = 1 && leOf d 0 1 < 8 && leOf d 8 2 < p && leOf d 14 2 = 0 && leOf d 16 8 % 64 = 0 && leOf d 16 8 < 2 ^ 41 &&
  leOf d 24 4 ≤ 10000 && leOf d 28 36 = 0 &&
  (match alg with
    | 0 => 2 ≤ p && p ≤ 64 && a = 0 && b = 0
    | 1 => 4 ≤ p && p ≤ 64 && 2 ≤ a && 2 ≤ b && a * b = p
    | 2 => 2 ≤ p && p ≤ 4096 && a = 0 && b = 0
    | _ => false)

/-- Whether a range lies in the partition's stacks and the context's ranges (R405, R452). -/
def State.rangeInPart (s : State) (p c a n : Nat) : Bool :=
  a + n ≤ memEnd && (n = 0 || (rangeFrom (a / 2 ^ 37) ((a + n - 1) / 2 ^ 37 + 1 - a / 2 ^ 37)).all (fun k => partOfStack s.partMode k = p)) &&
  s.inRanges ⟨false, p, c⟩ a n

/-- The start checks of R402; `none`: BAD_GROUP. -/
def State.startCheck (s : State) (c : Coll) : Option Coll :=
  match s.cvyDesc c.ctx c.req.group.toNat with
  | none => none
  | some d =>
    if !cvyDescOk d then none
    else
      let c := c.latch d (s.roleMap d)
      let x := s.memRead (leOf d 16 8) (8 * c.p)
      let inPart := leOf d 16 8 + 8 * c.p ≤ memEnd &&
        (rangeFrom (leOf d 16 8 / 2 ^ 37) ((leOf d 16 8 + 8 * c.p - 1) / 2 ^ 37 + 1 - leOf d 16 8 / 2 ^ 37)).all
          (fun k => partOfStack s.partMode k = c.part)
      let nbrOk (y : Nat × Nat) : Bool :=
        let r := c.role y.2
        r.mask ≠ 0 && (r.mask &&& ~~~(fabMask s.fx)) = 0 &&
        allPorts.all (fun n => !r.mask.getLsbD n.val || ((s.portOf n.val).st = .up && (s.portOf n.val).peerId = r.dev))
      if !inPart || anyPois x || (c.role c.rank).dev ≠ s.cvy.devid || !c.nbrs.all nbrOk then none else some c

/-- The ranges of stack memory of a collective (R405, R419): its tensor, or for a parameter group the weights, moments, scales,
working copies and steps of every shard. -/
def State.collRanges (s : State) (c : Coll) : List (Nat × Nat) :=
  match c.req.kind.val, c.req.pgroup with
  | 2, some g =>
    (List.range 12).flatMap (fun k =>
      let a := s.groupAddr k c.ctx g.toNat
      let d := plain (s.memRead a 128)
      if g.toNat < (tget 0 (s.unit k).gtCnt c.ctx).toNat && dflag d 0 then
        let n := shardN d
        let nb := (n + 31) / 32
        [(leOf d 24 8, 4 * n), (leOf d 40 8, n), (leOf d 48 8, n), (leOf d 56 8, nb), (leOf d 64 8, nb)] ++
        (if dflag d 5 then [(leOf d 72 8, 2 * n)] else []) ++ [(a + 16, 8)]
      else [])
  | _, _ => [(c.req.tensor, c.req.bytes)]

/-- The bytes of a collective. -/
def Coll.bytes (c : Coll) : Nat := c.ranges.foldl (fun n r => n + r.2) 0

/-- The element size of a sum: FP32 4, BF16 2 (R405). -/
def Coll.esz (c : Coll) : Nat := if c.req.elem = 0 then 2 else 4

/-- The rules of R405 on the tensor; element codes are those of R108: 0 BF16, and FP32. -/
def State.tensorOk (s : State) (c : Coll) : Bool :=
  let k := c.req.kind.val
  let f := Fmt.ofCode c.req.elem.toNat
  let group := k = 2 && c.req.pgroup.isSome
  c.ranges.all (fun r => r.1 + r.2 ≤ memEnd && (group || s.rangeInPart c.part c.ctx r.1 r.2)) &&
  (k = 1 || k = 2 || ((f = some .fp32 || (f = some .bf16 && k = 0)) && c.req.bytes % c.esz = 0))

/-! ### Chunks and their routes (R407, R419) -/

/-- A chunk of a collective: half (0 clockwise), owner's rank, place and length in the collective's bytes. -/
structure ChunkD where
  half : Nat
  owner : Nat
  off : Nat
  len : Nat
  deriving DecidableEq, Repr

/-- A range of bytes cut into chunks of at most 64 KiB of whole units. -/
def cutChunks (half owner unit off len : Nat) : List ChunkD :=
  let m := 65536 / unit * unit
  (List.range ((len + m - 1) / m)).map (fun i => ⟨half, owner, off + i * m, min m (len - i * m)⟩)

/-- The shares of one half: P shares that differ by at most one unit (R407). -/
def halfChunks (half p unit total u0 u : Nat) : List ChunkD :=
  (List.range p).flatMap (fun r =>
    let lo := u0 + r * (u / p) + min r (u % p)
    let n := u / p + (if r < u % p then 1 else 0)
    let o := lo * unit
    cutChunks half r unit o (min (n * unit) (total - o)))

/-- The segments of 64 KiB of a reconcile (R419). -/
def Coll.segs (c : Coll) : Nat := (c.bytes + 65535) / 65536

/-- The chunks of a collective in index order. A reconcile has one chunk per segment, then the CRC list, then the bitmap. -/
def Coll.chunks (c : Coll) : List ChunkD :=
  match c.req.kind.val with
  | 1 => cutChunks 0 c.req.root.toNat 1 0 c.bytes
  | 2 =>
    (List.range c.segs).map (fun i => ⟨0, c.req.root.toNat, 65536 * i, min 65536 (c.bytes - 65536 * i)⟩) ++
    [⟨0, c.req.root.toNat, 0, 8 * c.segs⟩, ⟨0, c.req.root.toNat, 0, (c.segs + 7) / 8⟩]
  | _ =>
    let unit := 32 * c.esz
    let U := (c.bytes + unit - 1) / unit
    let h := (U + 1) / 2
    halfChunks 0 c.p unit c.bytes 0 h ++ halfChunks 1 c.p unit c.bytes h (U - h)

/-- Dimensions of a half in the order of its reduction (R407): direction of travel, size, position of a rank. -/
def Coll.dims (c : Coll) (half r : Nat) : List (Nat × Nat × Nat) :=
  match c.alg.toNat with
  | 0 => [(half, c.p, r)]
  | _ => if half = 0 then [(0, c.a, r % c.a), (2, c.b, r / c.a)] else [(3, c.b, r / c.a), (1, c.a, r % c.a)]

/-- The next rank in a direction. -/
def Coll.next (c : Coll) (dir : Nat) : Nat := stepRank c.alg.toNat c.p c.a c.b c.rank dir
/-- The rank before in a direction. -/
def Coll.prev (c : Coll) (dir : Nat) : Nat :=
  stepRank c.alg.toNat c.p c.a c.b c.rank (match dir with | 0 => 1 | 1 => 0 | 2 => 3 | _ => 2)

/-- Whether direction `dir` counts upward. -/
def upward (dir : Nat) : Bool := dir % 2 = 0

/-- Whether a rank at position `pos` starts the reduction of a dimension of size `n` towards position `t`. -/
def startsAt (dir n pos t : Nat) : Bool := if upward dir then pos = (t + 1) % n else pos = (t + n - 1) % n

/-- What the reduction of a chunk at this member comes to (R407): it waits, sends its sum to a rank, or holds the final sum. -/
inductive Red where
  | wait
  | send (r : Nat)
  | fin
  deriving DecidableEq, Repr

/-- The reduction through the dimensions: `got` says from which ranks contributions of the chunk have arrived. -/
def Coll.reduce (c : Coll) (got : Nat → Bool) : List ((Nat × Nat × Nat) × (Nat × Nat × Nat)) → Red
  | [] => .fin
  | (me, ow) :: rest =>
    if !startsAt me.1 me.2.1 me.2.2 ow.2.2 && !got (c.prev me.1) then .wait
    else if me.2.2 ≠ ow.2.2 then .send (c.next me.1)
    else c.reduce got rest

/-- The state of the reduction of a chunk (R407); the direct algorithm sends every contribution to the owner. -/
def Coll.red (c : Coll) (i : Nat) (ch : ChunkD) : Red :=
  let got := fun (r : Nat) => c.got.any (fun g => g.1 = i && !g.2.1 && g.2.2 = r)
  if c.alg = 2 then
    if c.rank ≠ ch.owner then .send ch.owner
    else if ((List.range c.p).filter (fun r => r ≠ c.rank && got r)).length + 1 = c.p then .fin else .wait
  else c.reduce got ((c.dims ch.half c.rank).zip (c.dims ch.half ch.owner))

/-- Ranks to which this member passes the final bytes of a chunk (R407). -/
def Coll.spread (c : Coll) (ch : ChunkD) : List Nat :=
  if c.alg = 2 then (if c.rank = ch.owner then (List.range c.p).filter (· ≠ c.rank) else [])
  else
    let ds := (c.dims ch.half c.rank).zip (c.dims ch.half ch.owner)
    let rec go : List ((Nat × Nat × Nat) × (Nat × Nat × Nat)) → List Nat
      | [] => []
      | (me, ow) :: rest =>
        let nx := if upward me.1 then (me.2.2 + 1) % me.2.1 else (me.2.2 + me.2.1 - 1) % me.2.1
        (if nx = ow.2.2 then [] else [c.next me.1]) ++ (if me.2.2 = ow.2.2 then go rest else [])
    go ds

/-- Bytes of a collective from its ranges. -/
def State.vread (s : State) : List (Nat × Nat) → Nat → Nat → List PByte
  | [], _, _ => []
  | (a, n) :: rs, off, len =>
    if n ≤ off then s.vread rs (off - n) len
    else
      let k := min len (n - off)
      s.memRead (a + off) k ++ (if k = len then [] else s.vread rs 0 (len - k))

/-- Bytes of a collective written to its ranges. -/
def State.vwrite (s : State) : List (Nat × Nat) → Nat → List PByte → State
  | [], _, _ => s
  | (a, n) :: rs, off, d =>
    if n ≤ off then s.vwrite rs (off - n) d
    else
      let k := min d.length (n - off)
      let s := s.memWrite (a + off) (d.take k)
      if k = d.length then s else s.vwrite rs 0 (d.drop k)

/-- CRC-64 with the ECMA-182 polynomial (R419), a bit at a time. -/
def crcBit (b : Bool) (c : W64) : W64 := let c' := c <<< 1; if c.msb ≠ b then c' ^^^ 0x42F0E1EBA9EA3693#64 else c'
/-- The CRC over one byte. -/
def crcByte (c : W64) (x : Byte) : W64 := [7, 6, 5, 4, 3, 2, 1, 0].foldl (fun c i => crcBit (x.getLsbD i) c) c
/-- The CRC of bytes. -/
def crc64 (d : List Byte) : W64 := d.foldl crcByte 0

/-- The CRCs of every segment of a reconcile's bytes. -/
def State.segCrcs (s : State) (c : Coll) : List Byte :=
  (List.range c.segs).flatMap (fun i => leBytes 8 (crc64 (plain (s.vread c.ranges (65536 * i) (min 65536 (c.bytes - 65536 * i))))).toNat)

/-- A set of segments as a bitmap. -/
def bitmapOf (n : Nat) (l : List Nat) : List Byte :=
  (List.range ((n + 7) / 8)).map (fun j => (List.range 8).foldl (fun b i => if l.contains (8 * j + i) then b ||| (1#8 <<< i) else b) 0)
/-- The segments of a bitmap. -/
def setOfBitmap (d : List Byte) : List Nat :=
  (List.range (8 * d.length)).filter (fun i => (d.getD (i / 8) 0).getLsbD (i % 8))

/-- The bytes that this member sends for a chunk. -/
def State.chunkData (s : State) (c : Coll) (i : Nat) (ch : ChunkD) (gather : Bool) : List PByte :=
  match c.sums.find? (·.1 = i) with
  | some x => x.2
  | none =>
    if c.req.kind = 2 && i = c.segs + 1 then clean (bitmapOf c.segs (if gather then c.union else c.differ))
    else if c.req.kind = 2 && i = c.segs then clean (s.segCrcs c)
    else s.vread c.ranges ch.off ch.len

/-! ### Messages (R404, R406, R410) -/

/-- The heading of this member's messages. -/
def Coll.msg (c : Coll) : ConvoyMsg := ⟨c.fgid, c.epoch, c.seq, BitVec.ofNat 16 c.rank⟩

/-- The READY of a collective (R406). -/
def Coll.ready (c : Coll) : ReadyInfo := ⟨c.req.kind, c.bytes, c.req.root, c.req.step.truncate 32⟩

/-- A payload sent to a rank over one of the neighbour's UP ports, spread by `i`. -/
def State.sendRank (s : State) (c : Coll) (r i : Nat) (pay : CellPay) : State :=
  let dir := match c.nbrs.find? (·.2 = r) with | some x => x.1 | none => 0
  match s.upPorts (c.ports s.fx dir r) with
  | [] => s
  | n :: ns => s.sendPay ((n :: ns).getD (i % (ns.length + 1)) n) pay

/-- The cells of a chunk message (R395): 256 bytes each. -/
def chunkCells (m : ConvoyMsg) (i : Nat) (gather : Bool) (d : List PByte) : List CellPay :=
  (List.range (max 1 ((d.length + 255) / 256))).map (fun j => .data m ⟨i, gather, 256 * j, (d.drop (256 * j)).take 256⟩)

/-- A chunk sent to a rank. -/
def State.sendChunk (s : State) (c : Coll) (r i : Nat) (ch : ChunkD) (gather : Bool) : State :=
  (chunkCells c.msg i gather (s.chunkData c i ch gather)).foldl (fun s p => s.sendRank c r i p) s

/-- The running collective of a fabric group. -/
def State.collOf (s : State) (fgid : W32) : Option Coll := s.cvy.run.find? (·.fgid = fgid)

/-- A running collective replaced. -/
def State.setColl (s : State) (c : Coll) : State :=
  { s with cvy := { s.cvy with run := s.cvy.run.map (fun x => if x.id = c.id then c else x) } }

/-- A fabric group's descriptor found by its id: context, group, bytes (R401, R404). -/
def State.groupByFgid (s : State) (fgid : W32) : Option (Nat × Nat × List Byte) :=
  (List.range 16).findSome? (fun c =>
    (List.range (min 1024 (tget 0 s.cvy.gtCnt c).toNat)).findSome? (fun g =>
      match s.cvyDesc c g with
      | some d => if leOf d 0 1 % 2 = 1 && leOf d 4 4 = fgid.toNat then some (c, g, d) else none
      | none => none))

/-- A stand-in collective for messages of a group that runs none: its roles and neighbours as the descriptor has them. -/
def State.groupColl (s : State) (fgid : W32) : Option Coll :=
  match s.collOf fgid with
  | some c => some c
  | none => (s.groupByFgid fgid).map (fun x =>
      ({ id := 0, part := 0, ctx := x.1, reply := .stream 0 0
         req := ⟨0, false, 0, BitVec.ofNat 32 x.2.1, 0, 0, 0, 0, none⟩ } : Coll).latch x.2.2 (s.roleMap x.2.2))

/-- A control message flooded to every neighbour but those that the given port leads to (R410); its identifier is kept. -/
def State.flood (s : State) (c : Coll) (from_ : Option PortIx) (ident : W32) (p : CtrlPay) : State :=
  let s := { s with cvy := { s.cvy with seen := (ident :: s.cvy.seen).take 256 } }
  (c.nbrs.map (·.2)).eraseDups.foldl (fun s r =>
    let skip := match from_ with | some n => (c.role r).mask.getLsbD n.val | none => false
    if skip then s else s.sendRank c r 0 (.ctrl p)) s

/-- A fresh identifier of a control message of this device. -/
def State.newIdent (s : State) : W32 × State :=
  ((s.cvy.devid.zeroExtend 32 <<< 16) ||| (s.cvy.nextIdent &&& 0xFFFF#32), { s with cvy := { s.cvy with nextIdent := s.cvy.nextIdent + 1 } })

/-! ### The ending of a collective (R409, R416) -/

/-- Status word of R416. -/
def collStatus (c : Coll) (code : Nat) (rank : BitVec 16) : W32 :=
  BitVec.ofNat 32 (rank.toNat * 2 ^ 16 + code) ||| (if c.retried then 0x400#32 else 0) ||| (if c.pois then 0x200#32 else 0) |||
  (if c.slowSeen then 0x100#32 else 0)

/-- The fused passes of a collective's group. -/
def State.fusedOf (s : State) (c : Coll) : List (Nat × FusedRun) :=
  (List.range 12).flatMap (fun k => ((s.unit k).fused.filter (fun f => f.ctx = c.ctx && (c.req.pgroup.map (·.toNat)) = some f.group)).map (k, ·))

/-- The second status word (R409): the stratus result of kind 3, or the segments that differed for kind 2. -/
def State.secondWord (s : State) (c : Coll) (code : Nat) : W32 :=
  match c.req.kind.val with
  | 2 => BitVec.ofNat 32 c.differ.length
  | 3 =>
    let fs := s.fusedOf c
    if code = 0 then combineWords (fs.map (fun x => (x.1, x.2.flags))) true
    else
      let acc := fs.filter (·.2.accepted)
      if acc = [] then 0 else combineWords (acc.map (fun x => (x.1, 5))) true
  | _ => 0

/-- A collective ends with a code and a rank (R416): it leaves the engine, its fused passes end, its words and its event or stream
completion are written. -/
def State.endColl (s : State) (c : Coll) (code : Nat) (rank : BitVec 16) (second : Option W32) : State :=
  let w2 := second.getD (s.secondWord c code)
  let c := if code = 0 && c.retryUsed then { c with retried := true } else c
  let s := { s with cvy := { s.cvy with run := s.cvy.run.filter (·.id ≠ c.id), queue := s.cvy.queue.filter (·.id ≠ c.id) } }
  let s := if c.req.kind = 3 then (s.fusedOf c).foldl (fun s x =>
      let u := s.unit x.1
      s.setUnit x.1 { u with fused := u.fused.filter (fun f => !(f.ctx = x.2.ctx && f.group = x.2.group)) }) s else s
  let st := collStatus c code rank
  let two := match c.reply with | .tile _ _ _ => c.req.kind = 2 || c.req.kind = 3 | .stream _ _ => true
  s.answer c.reply (if two then [st, w2] else [st]) (if code = 0 then 0 else 0xC)

/-- No rank (R416). -/
def noRank : BitVec 16 := 0xFFFF

/-- This member aborts a collective on all members (R410) and ends it with the code and the rank. -/
def State.abortColl (s : State) (c : Coll) (code : Nat) (rank : BitVec 16) (second : Option W32) : State :=
  let i := s.newIdent
  let s := i.2.flood c none i.1 (.abort c.msg ⟨i.1, rank, BitVec.ofNat 8 code, 0⟩)
  s.endColl c code rank second

/-! ### Chunks flow (R406, R407) -/

/-- What is due of chunk i at this member: sends to ranks whose READY has agreed, each once. -/
def State.pumpChunk (s : State) (c : Coll) (i : Nat) (ch : ChunkD) : State × Coll :=
  let isRed := c.req.kind = 0 || c.req.kind = 3 || (c.req.kind = 2 && i = c.segs + 1 && c.final.contains c.segs)
  let go (x : State × Coll) (r : Nat) (gather : Bool) : State × Coll :=
    if x.2.readyIn.contains r && !x.2.sent.contains (i, gather, r) then
      (x.1.sendChunk x.2 r i ch gather, { x.2 with sent := (i, gather, r) :: x.2.sent })
    else x
  if c.final.contains i then
    if c.req.kind = 2 && i < c.segs && !c.union.contains i then (s, c)
    else (c.spread ch).foldl (fun x r => go x r true) (s, c)
  else if isRed then
    match c.red i ch with
    | .send r => go (s, c) r false
    | _ => (s, c)
  else (s, c)

/-- Everything that is due of a running collective sent (R407). -/
def State.pumpColl (s : State) (c : Coll) : State :=
  let chs := c.chunks
  let x := (List.range chs.length).foldl (fun (x : State × Coll) i => x.1.pumpChunk x.2 i (chs.getD i ⟨0, 0, 0, 0⟩)) (s, c)
  x.1.setColl x.2

/-- Whether every chunk of a collective is final here and everything it owes is sent. -/
def Coll.done (c : Coll) : Bool :=
  let chs := c.chunks
  (List.range chs.length).all (fun i =>
    c.final.contains i &&
    ((c.req.kind = 2 && i < c.segs && !c.union.contains i) ||
      (c.spread (chs.getD i ⟨0, 0, 0, 0⟩)).all (fun r => c.sent.contains (i, true, r))))

/-- Values of FP32 or BF16 bytes added element by element, rounded under RNE (R407). -/
def addBytes (esz : Nat) (x y : List PByte) : List PByte :=
  let f : Fmt := if esz = 2 then .bf16 else .fp32
  (List.range (min x.length y.length / esz)).flatMap (fun i =>
    let a := (x.drop (esz * i)).take esz
    let b := (y.drop (esz * i)).take esz
    let v := (encF f 0 false 0 (fadd false (decF f (leNatP a)) (decF f (leNatP b))).1).1
    (leBytes esz v).map (·, anyPois a || anyPois b))

/-- FP32 values of bytes, with poison. -/
def fp32Vals (d : List PByte) : List (W32 × Bool) :=
  (List.range (d.length / 4)).map (fun i => let x := (d.drop (4 * i)).take 4; (BitVec.ofNat 32 (leNatP x), anyPois x))

/-- A chunk of a kind 3 collective handed to the units of the stacks that hold it (R373, R407). -/
def State.fuseChunk (s : State) (c : Coll) (op off : Nat) (d : List PByte) : State :=
  let base := c.req.tensor + off
  let k0 := base / 2 ^ 37
  let k1 := (base + d.length - 1) / 2 ^ 37
  (rangeFrom k0 (k1 + 1 - k0)).foldl (fun s k =>
    let lo := max base (k * 2 ^ 37)
    let hi := min (base + d.length) ((k + 1) * 2 ^ 37)
    match (s.fusedOf c).find? (·.1 = k) with
    | none => s
    | some x =>
      let g := leOf x.2.desc 32 8
      let part := (d.drop (lo - base)).take (hi - lo)
      s.offerChunk k op ⟨⟨c.ctx % 16, by omega⟩, BitVec.ofNat 32 x.2.group, (lo - g) / 4, fp32Vals part⟩) s

/-- A chunk arrives for a running collective of the same epoch and sequence (R407, R412, R419). -/
def State.takeChunk (s : State) (c : Coll) (from_ : Nat) (ci : ChunkInfo) : State :=
  let i := ci.index
  match c.chunks[i]? with
  | none => s
  | some ch =>
    if c.got.contains (i, ci.gather, from_) || ci.data.length ≠ ch.len then s
    else
      let c := { c with got := (i, ci.gather, from_) :: c.got, pois := c.pois || anyPois ci.data }
      let c :=
        { c with final := if ci.gather && !c.final.contains i then i :: c.final else c.final }
      if c.req.kind = 2 then
        if i = c.segs then
          let mine := s.segCrcs c
          let diff := (List.range c.segs).filter (fun j =>
            (mine.drop (8 * j)).take 8 ≠ ((plain ci.data).drop (8 * j)).take 8 ||
            anyPois (s.vread c.ranges (65536 * j) (min 65536 (c.bytes - 65536 * j))))
          s.pumpColl { c with differ := (c.differ ++ diff).eraseDups, sums := c.sums ++ [(i, ci.data)] }
        else if i = c.segs + 1 then
          let bits := setOfBitmap (plain ci.data)
          if ci.gather then
            s.pumpColl { c with union := bits, final := c.final ++ (List.range c.segs).filter (fun j => !bits.contains j) }
          else
            let c := { c with union := (c.union ++ bits).eraseDups }
            match c.red i ch with
            | .fin =>
              let u := (c.union ++ c.differ).eraseDups
              s.pumpColl { c with union := u, final := i :: (List.range c.segs) ++ c.final }
            | _ => s.pumpColl { c with differ := (c.differ ++ bits).eraseDups }
        else (s.vwrite c.ranges ch.off ci.data).pumpColl c
      else if ci.gather then
        if c.req.kind = 3 then (s.fuseChunk c 2 ch.off ci.data).pumpColl { c with sums := (i, ci.data) :: c.sums }
        else (s.vwrite c.ranges ch.off ci.data).pumpColl c
      else
        let prev := match c.sums.find? (·.1 = i) with | some x => x.2 | none => s.vread c.ranges ch.off ch.len
        let sum := addBytes c.esz prev ci.data
        match c.red i ch with
        | .fin =>
          if c.req.kind = 3 then
            (s.fuseChunk c 1 ch.off ci.data).pumpColl { c with final := i :: c.final, sums := (i, sum) :: c.sums }
          else (s.vwrite c.ranges ch.off sum).pumpColl { c with final := i :: c.final }
        | _ =>
          if c.req.kind = 3 then (s.fuseChunk c 0 ch.off ci.data).pumpColl { c with sums := (i, sum) :: c.sums }
          else (s.vwrite c.ranges ch.off sum).pumpColl c

/-- The comparison of a READY with this member's collective (R406): 0 agrees, else the status code. -/
def Coll.readyCode (c : Coll) (m : ConvoyMsg) (r : ReadyInfo) : Nat :=
  if m.seq ≠ c.seq then 3
  else if r.step ≠ c.req.step.truncate 32 then 2
  else if r.kind ≠ c.req.kind || r.bytes ≠ c.bytes || ((r.kind = 1 || r.kind = 2) && r.root ≠ c.req.root) then 4
  else 0

/-- A READY taken by a running collective (R406): it agrees and chunks may flow, or the collective is aborted on all members. -/
def State.takeReady (s : State) (c : Coll) (m : ConvoyMsg) (r : ReadyInfo) : State :=
  let k := c.readyCode m r
  if k ≠ 0 then s.abortColl c k (BitVec.ofNat 16 c.rank) none
  else s.pumpColl { c with readyIn := m.from_.toNat :: c.readyIn }

/-- REFUSE goes back to the origin of a READY or CHUNK of another epoch, on the port it came from (R404). -/
def State.refuseBack (s : State) (n : PortIx) (m : ConvoyMsg) (epoch : Byte) : State := s.sendPay n (.ctrl (.refuse m epoch))

/-- The epoch with which a group's messages are compared (R404): that latched by its running collective, else the descriptor's. -/
def State.epochOf (s : State) (fgid : W32) : Option Byte := (s.groupColl fgid).map (·.epoch)

/-- A READY arrives (R404, R406): refused, taken, or held until the collective starts. -/
def State.readyMsg (s : State) (n : PortIx) (m : ConvoyMsg) (r : ReadyInfo) : State :=
  match s.epochOf m.fgid with
  | none => s
  | some e =>
    if m.epoch ≠ e then s.refuseBack n m e
    else
      let hold := { s with cvy := { s.cvy with
        held := s.cvy.held.filter (fun h => !(h.1.fgid = m.fgid && h.1.from_ = m.from_)) ++ [(m, r)] } }
      match s.collOf m.fgid with
      | none => hold
      | some c => if c.readyIn.contains m.from_.toNat then hold else s.takeReady c m r

/-- A CHUNK arrives (R404, R407, R412). -/
def State.chunkMsg (s : State) (n : PortIx) (m : ConvoyMsg) (ci : ChunkInfo) : State :=
  match s.epochOf m.fgid with
  | none => s
  | some e =>
    if m.epoch ≠ e then s.refuseBack n m e
    else match s.collOf m.fgid with
      | none => s
      | some c => if m.seq ≠ c.seq then s else s.takeChunk c m.from_.toNat ci

/-- A REFUSE arrives (R404): the collective fails with ROLE_STALE, or retries once under the descriptor's new epoch. -/
def State.refuseMsg (s : State) (m : ConvoyMsg) (rank : Nat) : State :=
  match s.collOf m.fgid with
  | none => s
  | some c =>
    let fail := s.endColl c 1 (BitVec.ofNat 16 rank) none
    if m.seq ≠ c.seq then s
    else if !c.req.retry || c.retryUsed then fail
    else match s.cvyDesc c.ctx c.req.group.toNat with
      | none => fail
      | some d =>
        if BitVec.ofNat 8 (leOf d 1 1) = c.epoch then fail
        else
          let c := { c.latch d (s.roleMap d) with retryUsed := true }
          (s.setColl c).sendRank c rank 0 (.ctrl (.ready c.msg c.ready))

/-- Whether a control message is stale or a repeat (R404, R410): the state after the check and whether it goes on. -/
def State.ctrlGate (s : State) (m : ConvoyMsg) (ident : W32) : State × Bool :=
  match s.epochOf m.fgid with
  | none => (s, false)
  | some e =>
    if m.epoch ≠ e then
      ({ s with cvy := { s.cvy with stale := if s.cvy.stale = 0xFF then s.cvy.stale else s.cvy.stale + 1 } }, false)
    else (s, !s.cvy.seen.contains ident)

/-- A control message forwarded (R410). -/
def State.forward (s : State) (n : PortIx) (m : ConvoyMsg) (ident : W32) (p : CtrlPay) : State :=
  match s.groupColl m.fgid with
  | none => s
  | some c => s.flood c (some n) ident p

/-- An ABORT arrives (R410). -/
def State.abortMsg (s : State) (n : PortIx) (m : ConvoyMsg) (c : CtrlInfo) : State :=
  let g := s.ctrlGate m c.ident
  if !g.2 then g.1
  else
    let s := g.1.forward n m c.ident (.abort m c)
    match s.collOf m.fgid with
    | none => s
    | some x => if x.seq = m.seq then s.endColl x c.code.toNat c.rank none else s

/-- A MEMBER_FAIL takes effect here (R414): every collective of the group ends, the rank is marked. -/
def State.memberFailed (s : State) (fgid : W32) (epoch : Byte) (rank : BitVec 16) : State :=
  let s := { s with cvy := { s.cvy with failed := (fgid, epoch, rank) :: s.cvy.failed } }
  let cs := s.cvy.run.filter (·.fgid = fgid)
  cs.foldl (fun s c => s.endColl c 6 rank none) s

/-- A MEMBER_FAIL arrives (R414). -/
def State.memberFailMsg (s : State) (n : PortIx) (m : ConvoyMsg) (c : CtrlInfo) : State :=
  let g := s.ctrlGate m c.ident
  if !g.2 then g.1 else (g.1.forward n m c.ident (.memberFail m c)).memberFailed m.fgid m.epoch c.rank

/-- A SLOW notice arrives (R415). -/
def State.slowMsg (s : State) (n : PortIx) (m : ConvoyMsg) (c : CtrlInfo) : State :=
  let g := s.ctrlGate m c.ident
  if !g.2 then g.1
  else
    let s := g.1.forward n m c.ident (.slow m c)
    let s := { s with cvy := { s.cvy with slow := if s.cvy.slow = 0xFF then s.cvy.slow else s.cvy.slow + 1 } }
    match s.collOf m.fgid with
    | none => s
    | some x => s.setColl { x with slowSeen := true }

/-- MEMBER_FAIL injected into a group (R412, R413). -/
def State.injectFail (s : State) (c : Coll) (rank : BitVec 16) : State :=
  let i := s.newIdent
  i.2.flood c none i.1 (.memberFail c.msg ⟨i.1, rank, 0, 0⟩)

/-! ### Requests and starts (R402, R405, R409, R414) -/

/-- A collective is requested: it is queued, or `none` while 64 wait (R405). -/
def State.queueColl (s : State) (p c : Nat) (req : CollReq) (reply : ReplyTo) : Option State :=
  if 64 ≤ s.cvy.queue.length then none
  else
    let key := 1024 * c + req.group.toNat % 1024
    let seq := tget 0 s.cvy.seqs key
    let x : Coll := { id := s.nextId, part := p, ctx := c, req := req, reply := reply, seq := seq }
    some { s with nextId := s.nextId + 1, cvy := { s.cvy with queue := s.cvy.queue ++ [x], seqs := tset 0 s.cvy.seqs key (seq + 1) } }

/-- The first queued collective that may start: fewer than 8 run, and none of its group runs (R405). -/
def CvyBlk.pick (v : CvyBlk) : Option Coll :=
  if 8 ≤ v.run.length then none
  else v.queue.find? (fun c => !v.run.any (fun x => x.ctx = c.ctx && x.req.group = c.req.group))

/-- The units' checks of a kind 3 collective (R373, R409): the units with the fused pass set up, or the failing word. -/
def State.setupFused (s : State) (c : Coll) (g : Nat) : Nat → State × List (Nat × W32) × Bool
  | 0 => (s, [], false)
  | k + 1 =>
    let r := s.setupFused c g k
    match r.1.stratCheck k c.part c.ctx g c.req.step with
    | .none_ => r
    | .fail code sound => (r.1.stratLast k c.ctx g (unitWord k code 0) sound, r.2.1 ++ [(k, unitWord k code 0)], true)
    | .ok d sc ly =>
      let u := r.1.unit k
      let f : FusedRun := ⟨c.ctx, g, c.req.step, d, sc, ly, [], [], false, 0⟩
      (r.1.setUnit k { u with fused := u.fused ++ [f], ctx := BitVec.ofNat 4 c.ctx, group := BitVec.ofNat 12 g, prog := 0, phase2 := false },
        r.2.1, true)

/-- A collective that has passed its checks starts: READY to each neighbour, held READY messages taken (R406). -/
def State.runColl (s : State) (c : Coll) : State :=
  let isRoot := BitVec.ofNat 16 c.rank = c.req.root
  let n := c.chunks.length
  let fin := match c.req.kind.val with
    | 1 => if isRoot then List.range n else []
    | 2 => if isRoot then [c.segs] else []
    | _ => []
  let diff := if c.req.kind = 2 && isRoot then
      (List.range c.segs).filter (fun j => anyPois (s.vread c.ranges (65536 * j) (min 65536 (c.bytes - 65536 * j)))) else []
  let c := { c with final := fin, differ := diff }
  let s := { s with cvy := { s.cvy with
    queue := s.cvy.queue.filter (·.id ≠ c.id), run := s.cvy.run ++ [c], held := s.cvy.held.filter (fun h => h.1.fgid ≠ c.fgid) } }
  (c.nbrs.map (·.2)).eraseDups.foldl (fun s r => s.sendRank c r 0 (.ctrl (.ready c.msg c.ready))) s

/-- READY messages held for a fabric group reach the collective that has started on it (R406). -/
def State.takeHeld (s : State) (c : Coll) (held : List (ConvoyMsg × ReadyInfo)) : State :=
  held.foldl (fun s h => match s.collOf c.fgid with
    | some x => if h.1.epoch = x.epoch then s.takeReady x h.1 h.2 else s
    | none => s) s

/-- A collective whose start checks pass runs (R405, R406, R409); one of kind 3 with a parameter group first checks its fused pass. -/
def State.goColl (s : State) (c : Coll) : State :=
  let held := s.cvy.held.filter (fun h => h.1.fgid = c.fgid)
  match c.req.kind.val, c.req.pgroup with
  | 3, some g =>
    let r := s.setupFused c g.toNat 12
    if r.2.1 ≠ [] || !r.2.2 then
      let w := combineWords r.2.1 r.2.2
      let s := { r.1 with cvy := { r.1.cvy with queue := r.1.cvy.queue.filter (·.id ≠ c.id), run := r.1.cvy.run ++ [c] } }
      s.abortColl c 11 (BitVec.ofNat 16 c.rank) (some w)
    else (r.1.runColl c).takeHeld c held
  | _, _ => (s.runColl c).takeHeld c held

/-- The engine starts a queued collective (R402, R405, R406, R409, R414). -/
def State.startColl (s : State) : State :=
  match s.cvy.pick with
  | none => s
  | some c0 =>
    match s.startCheck c0 with
    | none => s.endColl c0 9 noRank none
    | some c =>
      let c := { c with ranges := s.collRanges c }
      if !s.tensorOk c then s.endColl c 10 noRank none
      else match s.cvy.failed.find? (fun f => f.1 = c.fgid && f.2.1 = c.epoch) with
        | some f => s.endColl c 6 f.2.2 none
        | none => s.goColl c

/-! ### Loss, heat (R412, R413, R415) -/

/-- The cells that carry again the chunk messages of payloads in a replay buffer (R412): each message whole, or as far as the buffer
holds it when its collective has ended. -/
def State.resend (s : State) (pays : List CellPay) : List CellPay :=
  let keys := (pays.filterMap (fun x => match x with | .data m c => some (m, c.index, c.gather) | _ => none)).eraseDups
  keys.flatMap (fun k =>
    match s.cvy.run.find? (fun c => c.msg = k.1) with
    | some c => match c.chunks[k.2.1]? with
      | some ch => chunkCells k.1 k.2.1 k.2.2 (s.chunkData c k.2.1 ch k.2.2)
      | none => []
    | none => pays.filter (fun x => match x with | .data m c => (m, c.index, c.gather) = k | _ => false))

/-- A port enters LOST (R398, R412): its chunk messages are sent again on another UP port to the same device; without one, collectives with
that neighbour end with LINK_LOST and every group that contains the device hears MEMBER_FAIL. -/
def State.portLost (s : State) (n : PortIx) : State :=
  let p := s.portOf n.val
  let s := s.setPort n.val { p with st := .lost, unacked := [], txq := [], parts := [] }
  let s := s.latch n.val
  let others := allPorts.filter (fun m => m ≠ n && (s.portOf m.val).st = .up && (s.portOf m.val).peerId = p.peerId)
  match others with
  | m :: _ => (s.resend (p.unacked.map (·.pay) ++ p.txq)).foldl (fun s x => s.sendPay m x) s
  | [] =>
    let uses (c : Coll) : Option Nat := (c.nbrs.find? (fun x => (c.role x.2).dev = p.peerId)).map (·.2)
    let s := s.cvy.run.foldl (fun s c => match uses c with
      | some r => s.endColl c 7 (BitVec.ofNat 16 r) none
      | none => s) s
    (List.range 16).foldl (fun s c =>
      (List.range (min 1024 (tget 0 s.cvy.gtCnt c).toNat)).foldl (fun s g =>
        match s.cvyDesc c g with
        | none => s
        | some d =>
          if leOf d 0 1 % 2 = 0 then s
          else match s.groupColl (BitVec.ofNat 32 (leOf d 4 4)) with
            | none => s
            | some x => match x.roles.findIdx? (fun r => r.dev = p.peerId) with
              | none => s
              | some r => s.injectFail x (BitVec.ofNat 16 r)) s) s

/-- A stack of this device enters Storm (R413): the partition's collectives end with STACK_HALT, and their groups hear MEMBER_FAIL naming
this device. -/
def State.stormColls (s : State) (k : Nat) : State :=
  let p := partOfStack s.partMode k
  let running := s.cvy.run.filter (·.part = p)
  let queued := s.cvy.queue.filter (·.part = p)
  let s := running.foldl (fun s c => s.endColl c 8 noRank none) s
  let s := queued.foldl (fun s c => s.endColl c 8 noRank none) s
  let groups := (running ++ queued.filterMap s.startCheck).map (fun c => (c.fgid, c))
  groups.foldl (fun s x => s.injectFail x.2 (BitVec.ofNat 16 x.2.rank)) s

/-- Whether a collective's bytes, or its group's arrays, lie in stack k. -/
def Coll.touches (c : Coll) (k : Nat) : Bool :=
  c.ranges.any (fun r => 0 < r.2 && r.1 / 2 ^ 37 ≤ k && k ≤ (r.1 + r.2 - 1) / 2 ^ 37)

/-- SLOW notices of stack k at a level to every running collective that lies in it (R415). -/
def State.slowNotices (s : State) (k : Nat) (level : BitVec 2) : State :=
  (s.cvy.run.filter (fun c => c.touches k)).foldl (fun s c =>
    let i := s.newIdent
    let s := i.2.flood c none i.1 (.slow c.msg ⟨i.1, BitVec.ofNat 16 c.rank, BitVec.ofNat 8 k, level.zeroExtend 8⟩)
    match s.collOf c.fgid with
    | some x => s.setColl { x with slowSeen := true }
    | none => s) s

end Sys2Proof.Machine
end

