-- ==== Sys2Proof/Machine/StackOps.lean ====
section
/-! DEFINITION. The stack controllers (11): placement, error correction, row remapping, fault records, requests and regulators, scrub,
thermal levels, retirement. -/

namespace Sys2Proof.Machine

/-! ### Placement (R323, R324) -/

/-- Row id of a stack offset (R324). -/
def rowIdOf (o : Nat) : Nat :=
  (o / 2 ^ 8 % 64) * 2 ^ 21 + (o / 2 ^ 20 % 4) * 2 ^ 19 + (o / 2 ^ 14 % 4) * 2 ^ 17 + (o / 2 ^ 16 % 4) * 2 ^ 15 + o / 2 ^ 22 % 2 ^ 15

/-- The pair (pc, sid) of a row id, as one number. -/
def pairOf (row : Nat) : Nat := row / 2 ^ 19

/-- The bank of a row id: pc, sid, bank group and bank. -/
def bankOfRow (row : Nat) : Nat := row / 2 ^ 15

/-- The stack offset of granule g of a row (R323). -/
def granuleOf (row g : Nat) : Nat :=
  (row % 2 ^ 15) * 2 ^ 22 + (row / 2 ^ 19 % 4) * 2 ^ 20 + g * 2 ^ 18 + (row / 2 ^ 15 % 4) * 2 ^ 16 + (row / 2 ^ 17 % 4) * 2 ^ 14 +
  (row / 2 ^ 21 % 64) * 2 ^ 8

/-- The four 64 KiB pages that hold bytes of a row of stack k (R324). -/
def pagesOfRow (k row : Nat) : List W32 :=
  [0, 1, 2, 3].map (fun g => BitVec.ofNat 32 ((k * 2 ^ 37 + granuleOf row g) / 65536))

/-- The unused page slots of a record (R337). -/
def noPages : List W32 := List.replicate 4 0xFFFFFFFF#32

/-! ### Fault records (R335 to R337) -/

/-- Whether a record asks for pages to be retired. -/
def FltRec.retire (r : FltRec) : Bool := r.flags[0]

/-- The 64 bytes of a record of stack k (R337). -/
def FltRec.bytes (r : FltRec) (k : Nat) : List Byte :=
  [r.typ, BitVec.ofNat 8 k, r.flags, r.aux] ++ leBytes 4 r.rowid.toNat ++ leBytes 8 r.addr.toNat ++ leBytes 8 r.time.toNat ++
  r.pages.flatMap (fun p => leBytes 4 p.toNat) ++ List.replicate 24 0

/-- One more, but no more than `m`. -/
def satInc {w : Nat} (x : BitVec w) : BitVec w := if x = BitVec.allOnes w then x else x + 1

/-- A record enters the queue, or is dropped and counted (R335). -/
def StkBlk.pushRec (b : StkBlk) (r : FltRec) : StkBlk :=
  if r.retire then
    if 16 ≤ b.flt.length then { b with lostRet := satInc b.lostRet } else { b with flt := b.flt ++ [r] }
  else if 12 ≤ b.flt.length then { b with lostOther := satInc b.lostOther }
  else { b with flt := b.flt ++ [r] }

/-- A record of stack k written; its time is a free value (log entry 41). -/
def State.stkRec (s : State) (k typ flags aux row addr : Nat) (pages : List W32) : State :=
  let r : FltRec := ⟨BitVec.ofNat 8 typ, BitVec.ofNat 8 flags, BitVec.ofNat 8 aux, BitVec.ofNat 32 row, BitVec.ofNat 64 addr, s.free, pages⟩
  (s.modStack k (fun b => b.pushRec r)).drawn 1

/-! ### Row remapping (R330 to R334) -/

/-- A remap entry (R350): spare index and row id. -/
def rmapWord (spare row : Nat) : W64 := BitVec.ofNat 64 (2 ^ 63 + spare % 4 * 2 ^ 32 + row % 2 ^ 32)

/-- Whether a row is remapped. -/
def StkBlk.remapped (b : StkBlk) (row : Nat) : Bool := b.rmap.any (fun e => e.2.toNat % 2 ^ 32 = row)

/-- A spare of the row's pair that no entry uses; which of them is the device's choice (log entry 42). -/
def StkBlk.freeSpare (b : StkBlk) (draws row : Nat) : Option Nat :=
  chosen 0 draws ([0, 1, 2, 3].filter (fun i => !b.rmap.any (fun e => pairOf (e.2.toNat % 2 ^ 32) = pairOf row && e.2.toNat / 2 ^ 32 % 4 = i)))

/-- A remap entry that is not in use; which of them is the device's choice (log entry 42). -/
def StkBlk.freeEntry (b : StkBlk) (draws : Nat) : Nat := (chosen 1 draws ((List.range 1024).filter (fun e => tget 0 b.rmap e = 0))).getD 0

/-- A candidate row of stack k (R330, R331, R333): remapped with its records, or NOSPARE. `ue`: the candidate arose from an uncorrectable
error; `scrub`: found by scrub. -/
def State.candidate (s : State) (k row addr : Nat) (ue scrub : Bool) : State :=
  let b := s.stack k
  let sc := if scrub then 2 else 0
  match b.freeSpare s.draws row with
  | some i =>
    let s := if ue then s.stkRec k 3 (4 + sc) 0 row addr (BitVec.ofNat 32 (addr / 65536) :: List.replicate 3 0xFFFFFFFF#32) else s
    let s := s.modStack k (fun b => { b with rmap := tset 0 b.rmap (b.freeEntry s.draws) (rmapWord i row) })
    s.stkRec k 1 sc i row addr noPages
  | none =>
    let s := s.modStack k (fun b => { b with noSpare := row :: b.noSpare })
    s.stkRec k 5 (if ue then 5 + sc else sc) 0 row addr (if ue then pagesOfRow k row else noPages)

/-- The count of a row in the tracking table after one more corrected error, and the table (R330). -/
def trackCe (l : List (Nat × Nat)) (row : Nat) : Nat × List (Nat × Nat) :=
  let n := (match l.find? (·.1 = row) with | some x => x.2 | none => 0) + 1
  (n, ((row, n) :: l.filter (·.1 ≠ row)).take 64)

/-- A corrected error in the sector at an address of stack k (R328, R330, R332). -/
def State.corrected (s : State) (k addr : Nat) (scrub : Bool) : State :=
  let row := rowIdOf (addr % 2 ^ 37)
  let b := s.stack k
  let s := s.setStack k { b with cecnt := satInc b.cecnt }
  if b.remapped row || b.noSpare.contains row then
    if b.ceRep.contains row then s
    else (s.modStack k (fun b => { b with ceRep := row :: b.ceRep })).stkRec k 2 (if scrub then 2 else 0) 0 row addr noPages
  else
    let t := trackCe b.ce row
    let s := s.modStack k (fun b => { b with ce := t.2 })
    if b.cethr ≠ 0 && b.cethr.toNat ≤ t.1 then s.candidate k row addr false scrub else s

/-- An uncorrectable error in the sector at an address of stack k (R327, R328, R330 to R333): the sector is poisoned, its bytes are free
values. -/
def State.uncorrectable (s : State) (k addr : Nat) (scrub : Bool) : State :=
  let row := rowIdOf (addr % 2 ^ 37)
  let b := s.stack k
  let junk := (List.range 4).flatMap (fun i => leBytes 8 (Config.freeValue (s.draws + i)).toNat)
  let s := (s.memWrite addr (junk.map (·, true))).drawn 4
  let s := s.setStack k { b with uecnt := satInc b.uecnt }
  if b.remapped row || b.noSpare.contains row then
    s.stkRec k 4 (5 + (if scrub then 2 else 0)) 0 row addr (pagesOfRow k row)
  else s.candidate k row addr true scrub

/-- What the controller finds in the sector at an address, with errors in `symbols` symbols (R325): none, one that it corrects, one that
it detects, or a larger one that may be detected or miscorrected. A poisoned sector is left as it is (R327). -/
def State.sectorErr (s : State) (k addr symbols : Nat) (scrub : Bool) : State :=
  if tget false s.memPois (addr / 32) then s
  else match symbols with
    | 0 => s
    | 1 => s.corrected k addr scrub
    | 2 => s.uncorrectable k addr scrub
    | _ =>
      let u := s.free
      let s := s.drawn 1
      if u[0] then s.uncorrectable k addr scrub
      else
        let d := Config.miscorrected k (addr / 32) s.draws
        let s := (s.memWrite addr (clean (leBytes 32 d.toNat))).drawn 1
        s.corrected k addr scrub

/-- The errors of the sectors that an access of `n` bytes at `a` reads: `ecc` lists sectors, counted from the first that the access touches,
with their failing symbols. -/
def State.accessErrs (s : State) (k a n : Nat) (whole : Nat → Bool) : List (Nat × Nat) → State
  | [] => s
  | e :: es =>
    let w := a / 32 + e.1
    let s := if 32 * w < a + n && !whole w then s.sectorErr k (32 * w) e.2 false else s
    s.accessErrs k a n whole es

/-! ### Requests and regulators (R321, R322, R340 to R342, R510) -/

/-- The regulator class of a tag (R340). -/
def clsOf (g : Tag) : Nat := if g.fw then 4 else g.part

/-- A request reaches its stack controller (R321, R338, R340, R345, R349, R452): it is refused, or served at once by the retirement table,
or queued under its class. -/
def State.stackArrive (s : State) (r : Req) : State :=
  let g := s.tagOf r.src
  let c := s.memCheck g r.addr (opLen r.op)
  let z := match r.op with | .read n => List.replicate n ((0 : Byte), c = 5) | .write _ => []
  if c ≠ 0 then s.respond r c z
  else s.modStack (r.addr / 2 ^ 37) (fun b => { b with queue := b.queue ++ [⟨r, clsOf g, 0⟩] })

/-- Whether two requests overlap in bytes and come from one source (R322). -/
def reqOrdered (x y : Req) : Bool :=
  x.src = y.src && x.addr < y.addr + (opLen y.op) && y.addr < x.addr + (opLen x.op)

/-- Whether the request `x` may issue before the older ones `l` (R322, R510): none of one source overlaps it, and those of its
pseudo-channel are passed by a request to the open row only, and at most 8 times. -/
def mayPass (b : StkBlk) (x : StkReq) (l : List StkReq) : Bool :=
  let row := rowIdOf (x.req.addr % 2 ^ 37)
  let isOpen := tget (2 ^ 32) b.openRow (bankOfRow row) = row
  l.all (fun y => !reqOrdered y.req x.req &&
    (y.req.addr / 256 % 64 ≠ x.req.addr / 256 % 64 || (isOpen && y.passed < 8)))

/-- The bytes that a request is charged: 32 for each sector that it touches (R340). -/
def reqCharge (r : Req) : Nat := 32 * (sectorsOf r.addr (opLen r.op)).length

/-- A request is performed on the DRAM (R325 to R328) and its answer goes back. -/
def State.stackPerform (s : State) (k : Nat) (r : Req) (ecc : List (Nat × Nat)) : State :=
  match r.op with
  | .read n =>
    let s := s.accessErrs k r.addr n (fun _ => false) ecc
    let d := s.memRead r.addr n
    s.respond r (if anyPois d then 5 else 0) d
  | .write d =>
    let n := d.length
    let s := s.accessErrs k r.addr n (fun w => decide (r.addr ≤ 32 * w ∧ 32 * w + 32 ≤ r.addr + n)) ecc
    (s.memWrite r.addr d).respond r 0 []

/-- Whether class c of a stack may issue (R340): it is unregulated, or its bucket is not negative. -/
def StkBlk.eligible (b : StkBlk) (c : Nat) : Bool := (tget 0 b.reg c) &&& 0x3FF#32 = 0 || 0 ≤ tget 0 b.bucket c

/-- Request number `nth` of a class issues (R340, R510). -/
def State.stackIssue (s : State) (k cls nth : Nat) (ecc : List (Nat × Nat)) : State :=
  let b := s.stack k
  let mine := b.queue.filter (·.cls = cls)
  match mine[nth]? with
  | none => s
  | some x =>
    if !b.eligible cls || b.selfRefresh || !mayPass b x (mine.take nth) then s
    else
      let row := rowIdOf (x.req.addr % 2 ^ 37)
      let older := mine.take nth
      let queue := (b.queue.erase x).map (fun y =>
        if older.contains y && y.req.addr / 256 % 64 = x.req.addr / 256 % 64 then { y with passed := y.passed + 1 } else y)
      let s := s.setStack k { b with queue := queue, openRow := tset (2 ^ 32) b.openRow (bankOfRow row) row }
      (s.chargeStack k cls (reqCharge x.req)).stackPerform k x.req ecc

/-- The exponent λ of R342. -/
def lambdaOf (level : BitVec 2) : Nat := if level = 1 then 1 else if level = 2 then 2 else 0

/-- A bucket gains r_eff × 250 B, up to its size (R340, R342); quarter bytes. -/
def refillOne (b : StkBlk) (c : Nat) : StkBlk :=
  let r := tget 0 b.reg c
  let rate := r.toNat % 1024
  let size : Int := 4 * (((r.toNat / 65536 % 1024 + 1) * 4096 : Nat) : Int)
  if rate = 0 then b
  else { b with bucket := tset 0 b.bucket c (min size (tget 0 b.bucket c + ((rate * 1000 / 2 ^ lambdaOf b.level : Nat) : Int))) }

/-- Every 100 ns (R340); in Storm the regulators are closed (R344). -/
def StkBlk.refill (b : StkBlk) : StkBlk := if b.halted then b else [0, 1, 2, 3, 4].foldl refillOne b

/-! ### Scrub (R329, R330) -/

/-- A step of the patrol scrub with errors in `symbols` symbols of the sector (R327, R329, R340). -/
def State.scrubOne (s : State) (k symbols : Nat) : State :=
  let b := s.stack k
  if !b.scrubEn || !b.ready || b.selfRefresh || !b.eligible 4 then s
  else
    let addr := k * 2 ^ 37 + b.scrubPos.toNat
    let s := s.setStack k { b with scrubPos := b.scrubPos + 32 }
    (s.chargeStack k 4 32).sectorErr k (addr / 32 * 32) symbols true

/-! ### Thermal levels (R343 to R347) -/

/-- A threshold of STK_THR: 0 haze, 1 overcast, 2 storm. -/
def thrOf (thr : W32) (i : Nat) : Int := ((thr.toNat / 2 ^ (8 * i) % 256 : Nat) : Int)
/-- The hysteresis of STK_THR. -/
def hystOf (thr : W32) : Int := ((thr.toNat / 2 ^ 24 % 16 : Nat) : Int)

/-- The highest level whose threshold a sample reaches (R343). -/
def levelOf (thr : W32) (t : Int) : BitVec 2 :=
  if thrOf thr 2 ≤ t then 3 else if thrOf thr 1 ≤ t then 2 else if thrOf thr 0 ≤ t then 1 else 0

/-- The level after a sample (R343, R346): Storm is left by STK_CTRL.resume alone. -/
def nextLevel (thr : W32) (old : BitVec 2) (t : Int) : BitVec 2 :=
  let new := levelOf thr t
  if old = 3 then 3
  else if old < new then new
  else if old = 1 ∧ t < thrOf thr 0 - hystOf thr then 0
  else if old = 2 ∧ t < thrOf thr 1 - hystOf thr then 1
  else old

/-- The stack halts (R345, R372, R413): queued requests complete with GATED, the DRAM refreshes itself, the stratus unit abandons its
pass after a free number of elements, collectives end. -/
def State.enterStorm (s : State) (k : Nat) : State :=
  let q := (s.stack k).queue
  let s := s.modStack k (fun b => { b with halted := true, selfRefresh := true, queue := [] })
  let s := q.foldl (fun s x => s.respond x.req 2 (match x.req.op with | .read n => List.replicate n (0, false) | .write _ => [])) s
  let n := s.free.toNat
  ((s.drawn 1).stratAbandon k n).stormColls k

/-- A change of level (R343, R415): the record, the level, the peers. -/
def State.setLevel (s : State) (k : Nat) (new : BitVec 2) : State :=
  let old := (s.stack k).level
  if new = old then s
  else
    let s := s.modStack k (fun b => { b with level := new })
    let s := s.stkRec k 6 0 (4 * old.toNat + new.toNat) 0 0 noPages
    if new = 3 then s.enterStorm k else s.slowNotices k new

/-- A sample of the hottest die (R343, R347). -/
def State.stackSample (s : State) (k : Nat) (t : Int) : State :=
  let b := s.stack k
  let v := BitVec.ofInt 8 (max (-128) (min 127 t))
  let tmax := match b.tmax with | some m => if m.toInt < v.toInt then v else m | none => v
  let s := s.setStack k { b with temp := v, tmax := some tmax }
  let s := if 110 < t then { s with pin := { s.pin with thermtrip := true } } else s
  s.setLevel k (nextLevel b.thr b.level t)

/-- STK_CTRL.resume (R346). -/
def State.stackResume (s : State) (k : Nat) : State :=
  let b := s.stack k
  let t := b.temp.toInt
  if b.halted && t < thrOf b.thr 1 - hystOf b.thr then
    (s.setStack k { b with halted := false, selfRefresh := false }).setLevel k (levelOf b.thr t)
  else s

/-- A write of STK_THR (R347). -/
def StkBlk.thrWrite (b : StkBlk) (v : W32) : StkBlk :=
  let v := v &&& 0x0FFFFFFF#32
  if thrOf v 0 < thrOf v 1 && thrOf v 1 < thrOf v 2 && thrOf v 2 ≤ 110 && 1 ≤ hystOf v then { b with thr := v } else b

/-! ### Retirement (R334, R338) -/

/-- A write of STK_RETADD of stack k (R338). -/
def StkBlk.retire (b : StkBlk) (k : Nat) (v : W32) : StkBlk :=
  let p : BitVec 25 := v.truncate 25
  if v.toNat / 2 ^ 21 ≠ k then { b with retBad := true }
  else if b.ret.contains p then b
  else if 4096 ≤ b.ret.length then { b with retFull := true }
  else { b with ret := b.ret ++ [p] }

/-- A write of STK_RMLOAD (R334): an entry is restored while the stack is not ready, into a free place; one that is not valid, or
whose row or spare is in use already, is ignored (log entry 42). -/
def StkBlk.rmLoad (b : StkBlk) (draws : Nat) (v : W64) : StkBlk :=
  let row := v.toNat % 2 ^ 32
  let spare := v.toNat / 2 ^ 32 % 4
  if b.ready || !v[63] || b.remapped row || 2 ^ 27 ≤ row ||
      b.rmap.any (fun e => pairOf (e.2.toNat % 2 ^ 32) = pairOf row && e.2.toNat / 2 ^ 32 % 4 = spare) then b
  else { b with rmap := tset 0 b.rmap (b.freeEntry draws) (rmapWord spare row) }

/-- A due refresh of a bank (R348): postponed, at most 8 times and only while the bank has queued requests, or performed with those
postponed before. -/
def StkBlk.refresh (b : StkBlk) (bank : Nat) (postpone : Bool) : StkBlk :=
  if b.selfRefresh then b
  else if postpone && tget 0 b.postponed bank < 8 && b.queue.any (fun x => bankOfRow (rowIdOf (x.req.addr % 2 ^ 37)) = bank) then
    { b with postponed := tset 0 b.postponed bank (tget 0 b.postponed bank + 1) }
  else { b with postponed := tset 0 b.postponed bank 0 }

end Sys2Proof.Machine
end

