-- ==== Sys2Proof/Machine/IcuOps.lean ====
section
/-! DEFINITION. The interrupt controller (17): the input level of every source as its unit drives it, the winner of a target, claim and
complete, and forwarding to the host. -/

namespace Sys2Proof.Machine

/-! ### Sources (R472, R534) -/

/-- The input levels of tile t: 0 fault, 1 machine check, 2 DMA. -/
def Tile.level (t : Tile) (kind : Nat) : Bool :=
  t.power ≠ .night && (match kind with
  | 0 => t.seq.st = .halted && t.seq.faultHalt
  | 1 => t.mx.reserr[31] || t.ve.reserr[31] || t.sf.reserr[31] || (t.seq.st = .halted && t.seq.mcHalt)
  | _ => t.dmaIrq ≠ 0)

/-- The input level of source n (R472). -/
def State.level (s : State) (n : Nat) : Bool :=
  if n = 0 then false
  else if n < 257 then (s.tile (n - 1)).level 0
  else if n < 513 then (s.tile (n - 257)).level 1
  else if n < 769 then (s.tile (n - 513)).level 2
  else if n < 833 then s.sdmaIrq.getLsbD (n - 769)
  else if n < 845 then (s.stack (n - 833)).flt ≠ []
  else if n < 857 then (s.stack (n - 845)).flt.any (fun r => r.retire && (r.typ = 4 || r.typ = 5))
  else if n < 869 then (s.unit (n - 857)).errcnt ≠ 0
  else if n < 881 then s.icu.evlatch.getLsbD (n - 869) && s.portHere (n - 869)
  else if n < 885 then s.icu.evlatch.getLsbD (n - 881 + 12)
  else match n with
    | 885 => s.sec.entFail
    | 886 => s.icu.evlatch[16]
    | 887 => s.icu.evlatch[17]
    | 888 => s.hub.mcFlags ≠ 0
    | 889 => s.pwr.evt ≠ 0
    | _ => false

/-! ### Candidates and winners (R474, R475) -/

/-- The pending state of a source (R474). -/
def State.isPending (s : State) (n : Nat) : Bool := s.level n || tget false s.icu.swp n

/-- The target mask in force: in confidential operation bit 8 acts as 0 (R479). -/
def State.maskBit (s : State) (src target : Nat) : Bool :=
  (tget 0 s.icu.tmask src).getLsbD target && !(target = 8 && s.sec.conf)

/-- Whether a source of a priority is a candidate of a target (R475). -/
def State.candidateOf (s : State) (target src : Nat) (prio : BitVec 4) : Bool :=
  s.isPending src && !tget false s.icu.active src && s.maskBit src target && tget 0 s.icu.thr target < prio

/-- The winner of a target, 0 for none: the highest priority, and the lowest number among equals (R475). -/
def State.winner (s : State) (target : Nat) : Nat :=
  (s.icu.prio.foldl (fun (b : Nat × BitVec 4) e =>
    if b.2 < e.2 && s.candidateOf target e.1 e.2 then e else b) (0, 0)).1

/-- The notification line of a target (R479). -/
def State.notify (s : State) (target : Nat) : Bool := s.winner target ≠ 0

/-! ### Forwarding, claim, complete (R476, R477, R479) -/

/-- The forwarded vector is sent (R479). -/
def State.forwardVec (s : State) : State :=
  if s.icu.hfwdEn && !s.sec.conf then s.sendMsix s.icu.hfwdVec.toNat else s

/-- The endpoint sees the notification line of target 8: a rise sends the vector (R479). -/
def State.seeLine8 (s : State) : State :=
  let now := s.notify 8
  let rise := now && !s.icu.line8
  let s := { s with icu := { s.icu with line8 := now } }
  if rise then s.forwardVec else s

/-- A read of ICU_CLAIMn (R476). -/
def State.icuClaim (s : State) (n : Nat) : Nat × State :=
  let w := s.winner n
  if w = 0 then (0, s)
  else (w, { s with icu := { s.icu with
    active := tset false s.icu.active w true
    owner := tset 0 s.icu.owner w (BitVec.ofNat 4 n)
    swp := tset false s.icu.swp w false } })

/-- A write of ICU_COMPLETEn (R477, R479). -/
def State.icuComplete (s : State) (n src : Nat) : State :=
  if tget false s.icu.active src && (tget 0 s.icu.owner src).toNat = n then
    let was := s.icu.line8
    let s := { s with icu := { s.icu with active := tset false s.icu.active src false } }
    let s := s.seeLine8
    if n = 8 && was && s.icu.line8 then s.forwardVec else s
  else { s with icu := { s.icu with badcomp := satInc s.icu.badcomp } }

/-! ### Registers (R480 to R482) -/

/-- Bits 32 w to 32 w + 31 of a row of source bits; bit 0 of word 0 reads 0 (R481). -/
def wordBits (f : Nat → Bool) (w : Nat) : W64 :=
  BitVec.ofNat 64 ((List.range 32).foldl (fun n i => if 32 * w + i ≠ 0 && f (32 * w + i) then n + 2 ^ i else n) 0)

/-- Word w of a table of source bits replaced; source 0 is left out (R481). -/
def setWordBits (m : Tab Bool) (w : Nat) (f : Nat → Bool → Bool) : Tab Bool :=
  (List.range 32).foldl (fun m i => if 32 * w + i = 0 then m else tset false m (32 * w + i) (f i (tget false m (32 * w + i)))) m

/-- Register r of target n (R483): 0 ICU_THRn, 4 ICU_CLAIMn, which holds the winner, 8 ICU_COMPLETEn, 12 ICU_NOTIFYn. -/
def State.targetReg (s : State) (n r : Nat) : W64 :=
  match r with
  | 0 => (tget 0 s.icu.thr n).zeroExtend 64
  | 4 => BitVec.ofNat 64 (s.winner n)
  | 8 => 0
  | _ => bit (s.notify n) 0

/-- Word w of row k of the source bits (R483): 0 levels, 1 pending states, 5 active bits, else software pending bits. -/
def State.sourceWord (s : State) (k w : Nat) : W64 :=
  match k with
  | 0 => wordBits s.level w
  | 1 => wordBits s.isPending w
  | 5 => wordBits (tget false s.icu.active) w
  | _ => wordBits (tget false s.icu.swp) w

/-- The software pending bits after a write of word w of row k: 2 the bits themselves, 3 set, 4 clear (R474, R480). -/
def pendWord (k : Nat) (m : Tab Bool) (w : Nat) (v : W64) : Tab Bool :=
  match k with
  | 2 => setWordBits m w (fun i _ => v.getLsbD i)
  | 3 => setWordBits m w (fun i o => o || v.getLsbD i)
  | 4 => setWordBits m w (fun i o => o && !v.getLsbD i)
  | _ => m

/-- A target mask after a write of row k: 1 the mask itself, 2 set, 3 clear (R475, R480). -/
def maskWord (k : Nat) (old w : BitVec 10) : BitVec 10 :=
  match k with
  | 1 => w
  | 2 => old ||| w
  | _ => old &&& ~~~w

/-- A write of register r of target n. -/
def State.targetWrite (s : State) (n r : Nat) (v : W64) : State :=
  if r = 0 then { s with icu := { s.icu with thr := tset 0 s.icu.thr n (v.truncate 4) } }
  else if r = 8 then s.icuComplete n (v.toNat % 1024)
  else s

/-- The ICU_ register that starts at an offset, and its value (R483). -/
def icuRead (s : State) (off : Nat) : Option (Bool × W64) :=
  let r (v : W64) : Option (Bool × W64) := some (false, v)
  if off = 0x6000 then r (s.icu.evlatch.zeroExtend 64)
  else if off = 0x6004 then r (bit s.icu.hfwdEn 31 ||| s.icu.hfwdVec.zeroExtend 64)
  else if off = 0x6008 then r (s.icu.badcomp.zeroExtend 64)
  else if off % 4 ≠ 0 then none
  else if off < 0x1000 then
    let n := off / 4
    if n = 0 then none
    else r (bit (tget false s.icu.active n) 12 ||| fld (tget 0 s.icu.owner n).toNat 8 ||| fld (tget 0 s.icu.prio n).toNat 0)
  else if off < 0x4000 then
    let n := off % 0x1000 / 4
    if n = 0 then none else r ((tget 0 s.icu.tmask n).zeroExtend 64)
  else if off < 0x4300 then r (s.sourceWord (off / 0x80 % 8) (off % 0x80 / 4))
  else match arrIx off 0x5000 0x10 10 with
    | some x => r (s.targetReg x.1 x.2)
    | none => none

/-- What a read of an ICU_ register changes (R476, R483). -/
def icuRc (s : State) (off : Nat) : State :=
  if off = 0x6008 then { s with icu := { s.icu with badcomp := 0 } }
  else match arrIx off 0x5000 0x10 10 with
    | some x => if x.2 = 4 then (s.icuClaim x.1).2.seeLine8 else s
    | none => s

/-- A write of an ICU_ register (R477, R480, R481, R483). -/
def icuWrite (s : State) (off : Nat) (v : W64) : State :=
  let c := s.icu
  let s' : State :=
    if off = 0x6000 then { s with icu := { c with evlatch := c.evlatch &&& ~~~(v.truncate 18) } }
    else if off = 0x6004 then { s with icu := { c with hfwdEn := v[31], hfwdVec := v.truncate 11 } }
    else if off < 0x1000 then { s with icu := { c with prio := tset 0 c.prio (off / 4) (v.truncate 4) } }
    else if off < 0x4000 then
      let n := off % 0x1000 / 4
      { s with icu := { c with tmask := tset 0 c.tmask n (maskWord (off / 0x1000) (tget 0 c.tmask n) (v.truncate 10)) } }
    else if off < 0x4300 then { s with icu := { c with swp := pendWord (off / 0x80 % 8) c.swp (off % 0x80 / 4) v } }
    else match arrIx off 0x5000 0x10 10 with
      | some x => s.targetWrite x.1 x.2 v
      | none => s
  s'.seeLine8

end Sys2Proof.Machine
end

