-- ==== Sys2Proof/Machine/DmaOps.lean ====
section
/-! DEFINITION. DMA channels at work (13): the requests of a channel on their way, the answers, and what the endings do outside the
channel; the host window (R428). -/

namespace Sys2Proof.Machine

/-! ### The host window (R428, R459) -/

/-- A request to the host window: GATED while the link is down; a write is posted; a read waits for its completion. -/
def State.hostRequest (s : State) (r : Req) : State :=
  let z := match r.op with | .read n => List.replicate n ((0 : Byte), false) | .write _ => []
  if !s.pci.up then s.respond r 2 z
  else match r.op with
    | .write d => (s.emit (.tlpWrite (r.addr - hostBase) d)).respond r 0 []
    | .read n =>
      let i := s.pci.nextReq
      ({ s with pci := { s.pci with nextReq := i + 1, hostReqs := s.pci.hostReqs ++ [(i, r)] } }).emit (.tlpRead i (r.addr - hostBase) n)

/-- A channel's request leaves: to the host window, or into the mesh or the memory network. -/
def State.sendReq (s : State) (r : Req) : State :=
  if isHost r.addr then s.hostRequest r else { s with transit := s.transit ++ [r] }

/-! ### Channels -/

/-- The channel that an operand names. -/
def State.chanAt (s : State) : Chan → DmaCh
  | .tile t n => tdma (s.tile t.val) n.val
  | .sys n => s.chan n.val

/-- The source under which a channel's requests travel, its number and the most bursts that it keeps in flight (R385). -/
def chanSrc : Chan → Agent × Nat × Nat
  | .tile t n => (.tile t, n.val, 4)
  | .sys n => (.sdma n, n.val, 8)

/-- The stream whose COPY runs on system channel n. -/
def State.copyOf (s : State) (n : Nat) : Option (Nat × StreamCmd) :=
  s.stream.hamper.findSome? (fun x => match x.2.run with
    | some (c, .copy ch) => if ch = n then some (x.1, c) else none
    | _ => none)

/-- A system channel that has gone idle ends the COPY that runs on it (R435, R437). -/
def State.copyEnded (s : State) (n : Nat) : State :=
  let c := s.chan n
  match s.copyOf n with
  | none => s
  | some (i, cmd) =>
    if c.st ≠ .idle then s
    else if c.code = 2 then s.completeCmd i cmd
    else s.faultStream i 7 c.code.toNat

/-- A channel after an event, with what its ending does (R389, R393): the interrupt bit, the increment, the COPY that ran on it. -/
def State.chanEnd (s : State) (ch : Chan) (e : DmaEnd) : State :=
  match ch with
  | .tile t n => s.modTile t.val (fun x => tileDmaEnd x n.val e)
  | .sys n =>
    let s := s.setChan n.val e.c
    let s := if e.inc && !e.c.evoff then
        s.deliverEvt ⟨.sdma n, ⟨e.c.evtile, Nat.mod_lt _ (by omega)⟩, ⟨e.c.ev, Nat.mod_lt _ (by omega)⟩, BitVec.ofNat 16 e.c.inc⟩ else s
    let s := if e.irq then { s with sdmaIrq := s.sdmaIrq ||| (1#64 <<< n.val) } else s
    s.copyEnded n.val

/-- A channel with room in flight issues one request (R385). -/
def State.chanIssue (s : State) (ch : Chan) : State :=
  let x := chanSrc ch
  let r := (s.chanAt ch).issue x.1 x.2.1 x.2.2
  let s := s.chanEnd ch { c := r.1 }
  match r.2 with | some q => s.sendReq q | none => s

/-- The retry delay of a burst's request expires (R388). -/
def State.chanRetry (s : State) (ch : Chan) (burst : Nat) : State :=
  let x := chanSrc ch
  let r := (s.chanAt ch).reissue x.1 x.2.1 burst
  let s := s.chanEnd ch { c := r.1 }
  match r.2 with | some q => s.sendReq q | none => s

/-- Response number i reaches the channel that it is for (R386, R388, R389); one for another channel is left alone. -/
def State.chanResponse (s : State) (ch : Chan) (i : Nat) : State :=
  let x := chanSrc ch
  match s.resps[i]? with
  | none => s
  | some r =>
    if r.req.src ≠ x.1 ∨ r.req.chan ≠ x.2.1 then s
    else
      let f : BitVec 40 := s.free.truncate 40
      (({ s with resps := s.resps.eraseIdx i }).drawn 1).chanEnd ch ((s.chanAt ch).response r f)

/-- Whether a channel's source or destination meets the host window. -/
def DmaCh.hostSide (c : DmaCh) : Bool :=
  let f := c.foot
  decide ((hostBase : Int) ≤ f.1.2) || decide ((hostBase : Int) ≤ f.2.2)

/-- A write of SDMA_CTRLn (R378, R379); in confidential operation a channel without the firmware tag that addresses the host window ends
with BAD (R459). -/
def State.sysCtrl (s : State) (n : Fin 64) (v : W64) : State :=
  let c := s.chan n.val
  let f : BitVec 40 := s.free.truncate 40
  let e := dmaCtrlWrite true v f c
  let e := if s.sec.conf && !c.tag[8] && c.st = .idle && e.c.st = .running && c.hostSide then c.finish 6 else e
  (s.drawn 1).chanEnd (.sys n) e

/-! ### Registers of the system channels (R378, R391, R393) -/

/-- The system DMA register that starts at an offset from 0x0010_0000, and its value. -/
def sdmaRead (s : State) (o : Nat) : Option (Bool × W64) :=
  if o = 0x2000 then some (true, s.sdmaIrq)
  else if o < 0x2000 then
    let c := s.chan (o / 0x80)
    let r := o % 0x80
    if r < 0x40 then (if r % 8 = 0 then some (true, c.word (r / 8)) else none)
    else match r with
      | 0x40 => some (false, c.statReg.zeroExtend 64)
      | 0x48 => some (true, c.res.zeroExtend 64)
      | 0x50 => some (false, c.tag.zeroExtend 64)
      | _ => none
  else none

/-- A write of a system DMA register (R378, R379, R391, R393): state and status. -/
def sdmaWrite (s : State) (g : Tag) (o : Nat) (p : Part) (v : W64) : State × Nat :=
  if o = 0x2000 then ({ s with sdmaIrq := s.sdmaIrq &&& ~~~(p.merge 0 v) }, 0)
  else
    let n := o / 0x80
    let c := s.chan n
    let r := o % 0x80
    if r = 0x38 then (s.sysCtrl ⟨n % 64, Nat.mod_lt _ (by omega)⟩ (p.merge c.ctrl v), 0)
    else if r < 0x38 then
      if c.st = .idle then (s.setChan n (c.setWord true (r / 8) (p.merge (c.word (r / 8)) v)), 0) else (s, 4)
    else match r with
      | 0x40 => (s.setChan n (c.statWrite (v.truncate 32)), 0)
      | 0x50 => (if g.fw then s.setChan n { c with tag := v.truncate 32 &&& 0x1F3#32 } else s, 0)
      | _ => (s, 0)

end Sys2Proof.Machine
end

