-- ==== Sys2Proof/Machine/SecOps.lean ====
section
/-! DEFINITION. The security block (16): fuses, image checks, measurements, the attestation report, the SPDM session, bounce windows and
keys, tile clears. -/

namespace Sys2Proof.Machine

/-! ### Fuses (R441; the numbering of the fields is that of log entry 11) -/

/-- Bytes of a fuse field, lowest first. -/
def fuseBytes (f n : Nat) : List Byte := (List.range n).map (fun i => (Config.fuse f (i / 8)).extractLsb' (8 * (i % 8)) 8)

/-- The number of set bits below bit n. -/
def popcount (v : W64) : Nat → Nat
  | 0 => 0
  | n + 1 => popcount v n + (if v.getLsbD n then 1 else 0)

/-- The fused svn as a count (R441, R445). -/
def State.svn (s : State) : Nat := max (popcount (Config.fuse 12 0) 64) s.sec.svnUp
/-- The fused svn as a thermometer of n bits. -/
def thermo (n : Nat) : W64 := BitVec.ofNat 64 (2 ^ (min n 64) - 1)
/-- The revoked ECDSA slots. -/
def State.erev (s : State) : BitVec 4 := (Config.fuse 11 0).extractLsb' 0 4 ||| s.sec.erevSet
/-- The revoked LMS slots. -/
def State.lrev (s : State) : BitVec 4 := (Config.fuse 11 0).extractLsb' 4 4 ||| s.sec.lrevSet
/-- dbg_lock. -/
def dbgLock : Bool := (Config.fuse 13 0)[0]

/-! ### Firmware images (R442 to R444) -/

/-- Field of an image. -/
def imgAt (img : List Byte) (i n : Nat) : Nat := leNat ((img.drop i).take n)

/-- The code of an image of a kind by the checks of R443; 0: accepted. -/
def State.imageCheck (s : State) (kind : Nat) (img : List Byte) : Nat :=
  let es := imgAt img 5 1
  let ls := imgAt img 6 1
  let bl := imgAt img 16 8
  let zeros (a b : Nat) : Bool := imgAt img a (b - a) = 0
  let body := (img.drop 4096).take bl
  let dig := leBytes 48 (Config.sha384 (img.take 264)).toNat
  let isDigest (f : Nat) (d : List Byte) : Bool := fuseBytes f 48 = leBytes 48 (Config.sha384 d).toNat
  if img.length < 4096 then 8
  else if imgAt img 0 4 ≠ 0x47465A57 || imgAt img 4 1 ≠ kind || 3 < es || 3 < ls || 64 < imgAt img 8 4 || bl % 64 ≠ 0 || 2 ^ 26 < bl ||
      !(zeros 7 8 && zeros 12 16 && zeros 24 64 && zeros 2132 4096) then 1
  else if s.erev.getLsbD es || s.lrev.getLsbD ls then 2
  else if !(isDigest (3 + es) ((img.drop 112).take 96) && isDigest (7 + ls) ((img.drop 208).take 56)) then 3
  else if imgAt img 8 4 < s.svn then 4
  else if body.length < bl then 8
  else if leBytes 48 (Config.sha384 body).toNat ≠ (img.drop 64).take 48 then 5
  else if !Config.ecdsaVerify ((img.drop 112).take 96) (BitVec.ofNat 384 (leNat dig)) ((img.drop 264).take 96) then 6
  else if !Config.lmsVerify ((img.drop 208).take 56) (BitVec.ofNat 384 (leNat dig)) ((img.drop 360).take 1772) then 7
  else 0

/-- An image of the Lookout store: the one staged there, or the factory's. -/
def State.storeImage (s : State) (kind : Nat) (slotB : Bool) : List Byte :=
  let i := tget [] s.lko.images (2 * kind + (if slotB then 1 else 0))
  if i = [] then Config.storeImage kind slotB else i

/-- The attempts at an image: the codes of slots A and B, and whether slot B ran (R444). -/
def State.tryImage (s : State) (kind : Nat) : Nat × Nat × Bool :=
  let a := s.imageCheck kind (s.storeImage kind false)
  if a = 0 then (0, 0, false) else (a, s.imageCheck kind (s.storeImage kind true), true)

/-! ### Measurements and the report (R446, R449) -/

/-- Slot n extended by a digest. -/
def State.extend (s : State) (n : Nat) (d : BitVec 384) : State :=
  let m := tget 0 s.sec.meas n
  { s with sec := { s.sec with meas := tset 0 s.sec.meas n (Config.sha384 (leBytes 48 m.toNat ++ leBytes 48 d.toNat)) } }

/-- Whether a context exists: one of its ranges is not empty (R452; log entry 45). -/
def State.ctxExists (s : State) (p c : Nat) : Bool := (List.range 8).any (fun r => let x := s.crange p c r; x.1 < x.2)

/-- The mask of the contexts of partition p that exist. -/
def State.ctxMask (s : State) (p : Nat) : Nat := (List.range 16).foldl (fun m c => if s.ctxExists p c then m + 2 ^ c else m) 0

/-- Report bytes 64 to 79 (R446, R449): svn, isvn, the slots that ran, revocations, debug state. -/
def State.bootBytes (s : State) : List Byte :=
  let img := s.storeImage 2 s.sec.bootSlot
  leBytes 4 s.svn ++ leBytes 4 s.sec.isvn.toNat ++
  [BitVec.ofNat 8 (imgAt img 5 1 % 4 + 4 * (imgAt img 6 1 % 4) + (if s.sec.bootSlot then 16 else 0)),
   BitVec.ofNat 8 (s.erev.toNat + 16 * s.lrev.toNat),
   BitVec.ofNat 8 ((if dbgLock then 1 else 0) + (if s.sec.debugOpen then 2 else 0) + (if s.pin.jtag then 4 else 0))] ++ List.replicate 5 0

/-- Report bytes 80 to 95: layout, confidential operation, contexts. -/
def State.modeBytes (s : State) : List Byte :=
  [BitVec.ofNat 8 s.partMode, if s.sec.conf then 1 else 0, 0, 0] ++
  ((List.range 4).map s.ctxMask).flatMap (leBytes 2) ++ List.replicate 4 0

/-- A report with a nonce is issued (R449): the counter rises, the signature covers bytes 0 to 927. -/
def State.report (s : State) (nonce : BitVec 256) : List Byte × State :=
  let s := { s with sec := { s.sec with reportSeq := s.sec.reportSeq + 1 } }
  let meas := (List.range 8).flatMap (fun n => leBytes 48 (tget 0 s.sec.meas n).toNat)
  let b := leBytes 4 0x54414357 ++ leBytes 2 1 ++ leBytes 2 1024 ++ leBytes 32 nonce.toNat ++ fuseBytes 1 16 ++
    leBytes 8 (capWord s.fx).toNat ++ s.bootBytes ++ s.modeBytes ++ meas ++ leBytes 4 s.sec.reportSeq.toNat ++ List.replicate 444 0
  let sig := Config.ecdsaSign (Config.hkdf meas (fuseBytes 0 32) []) (Config.sha384 b) s.drawsEnt
  (b ++ leBytes 96 sig.toNat, { s with drawsEnt := s.drawsEnt + 1 })

/-! ### Key generations and windows (R458, R461 to R464) -/

/-- Key slot g mod 2. -/
def SecBlk.slot (b : SecBlk) (i : Nat) : KeySlot := if i % 2 = 0 then b.key0 else b.key1
/-- Key slot g mod 2 replaced. -/
def SecBlk.setSlot (b : SecBlk) (i : Nat) (k : KeySlot) : SecBlk := if i % 2 = 0 then { b with key0 := k } else { b with key1 := k }

/-- Word i of bounce window w. -/
def State.bwin (s : State) (w i : Nat) : W64 := tget 0 s.sec.bwin (4 * w + i)
/-- Whether window w is valid. -/
def State.bwinValid (s : State) (w : Nat) : Bool := (s.bwin w 2)[63]
/-- The number of chunks of window w. -/
def State.bwinChunks (s : State) (w : Nat) : Nat := (s.bwin w 2).toNat % 2 ^ 20
/-- Whether window w is of a partition and context. -/
def State.bwinOwner (s : State) (w p c : Nat) : Bool :=
  (s.bwin w 2).toNat / 2 ^ 36 % 4 = p && (s.bwin w 2).toNat / 2 ^ 32 % 16 = c

/-- Every bounce window cleared. -/
def SecBlk.clearWindows (b : SecBlk) : SecBlk := { b with bwin := [] }

/-- The SPDM session ends (R463): keys destroyed, windows cleared. -/
def State.endSession (s : State) : State :=
  { s with sec := { s.sec.clearWindows with session := .none, key0 := KeySlot.zero, key1 := KeySlot.zero, lastGen := none } }

/-- KEY_INSTALL g (R463): status of R458 and state. -/
def State.keyInstall (s : State) (g : W32) : Nat × State :=
  let b := s.sec
  let ok := match b.lastGen with | none => g = 0 | some l => g = l + 1
  if b.entBad || !ok || (b.slot g.toNat).st = .live then (2, s)
  else (0, { s with sec := { b.setSlot g.toNat { st := .live, gen := g } with lastGen := some g } })

/-- KEY_RETIRE g (R463, R464). -/
def State.keyRetire (s : State) (g : W32) : Nat × State :=
  let k := s.sec.slot g.toNat
  if k.st ≠ .live || k.gen ≠ g then (2, s)
  else if k.inflight ≠ 0 then (3, s)
  else (0, { s with sec := s.sec.setSlot g.toNat { k with st := .retired } })

/-- K_g (R463). -/
def bounceKey (session : Nat) (g : W32) : BitVec 384 :=
  Config.hkdf [] (leBytes 48 (Config.sessionSecret session).toNat)
    ("walzin bounce".toList.map (fun c => BitVec.ofNat 8 c.toNat) ++ leBytes 4 g.toNat)

/-- The window and first chunk that a window-side address names for a context (R461, R462): the start of a chunk of a valid window of the
context, with `n` chunks inside the window. -/
def State.windowOf (s : State) (p c a n : Nat) : Option (Nat × Nat) :=
  (List.range 64).findSome? (fun w =>
    let base := hostBase + (s.bwin w 0).toNat % 2 ^ 44
    if s.bwinValid w && s.bwinOwner w p c && base ≤ a && (a - base) % 4096 = 0 && (a - base) / 4096 < s.bwinChunks w &&
        (a - base) / 4096 + n ≤ s.bwinChunks w then some (w, (a - base) / 4096) else none)

/-- The in-flight count of a generation falls by one as a command of its session ends (R464). -/
def State.cryptEnds (s : State) (slot : Nat) (gen : W32) (session : Nat) : State :=
  let k := s.sec.slot slot
  if s.sec.sessionNo = session && s.sec.session ≠ .none && k.gen = gen then
    { s with sec := s.sec.setSlot slot { k with inflight := k.inflight - 1 } }
  else s

/-- The length of chunk j of `count` bytes (R462). -/
def chunkLen (count j : Nat) : Nat := min 4096 (count - 4096 * j)

/-- The first 16 bytes of a chunk header (R461). -/
def chunkHdr (ctr : W64) (out : Bool) (w : Nat) (gen : W32) (len : Nat) : List Byte :=
  leBytes 8 ctr.toNat ++ leBytes 4 ((if out then 2 ^ 31 else 0) + w) ++ leBytes 4 (gen.toNat % 2 * 2 ^ 31 + len)

/-- SEAL of chunks `js` of a command (R462): the state, and 0 or the fault code with its high byte. -/
def State.sealChunks (s : State) (g : Tag) (src count w ch0 slot session : Nat) : List Nat → State × Nat × Nat
  | [] => (s, 0, 0)
  | j :: js =>
    let n := chunkLen count j
    let r := s.hubRead g (src + 4096 * j) n
    let k := s.sec.slot slot
    if r.1 = 5 then (s.poisonHub (src + 4096 * j), 0x10, 0)
    else if r.1 ≠ 0 then (s, 7, 4)
    else
      let hdr := chunkHdr k.ctr true w k.gen n
      let x := Config.gcmSeal (bounceKey session k.gen) hdr (plain r.2)
      let s := { s with sec := s.sec.setSlot slot { k with ctr := k.ctr + 1 } }
      let s := s.emit (.tlpWrite ((s.bwin w 0).toNat % 2 ^ 44 + 4096 * (ch0 + j)) (clean x.1))
      let s := s.emit (.tlpWrite ((s.bwin w 1).toNat % 2 ^ 44 + 32 * (ch0 + j)) (clean (hdr ++ leBytes 16 x.2.toNat)))
      s.sealChunks g src count w ch0 slot session js

/-- UNSEAL of one chunk whose header and ciphertext the host supplied (R462): the state, and 0 or the fault code with its high byte. -/
def State.unsealChunk (s : State) (g : Tag) (dst count w slot session j : Nat) (hdr ct : List PByte) : State × Nat × Nat :=
  let k := s.sec.slot slot
  let h := plain (hdr.take 32)
  let n := chunkLen count j
  let ctr := BitVec.ofNat 64 (leOf h 0 8)
  let len := leOf h 12 4
  let hi := tget none k.high w
  let body := plain (ct.take n)
  if len / 2 ^ 31 ≠ k.gen.toNat % 2 then (s, if (s.sec.slot (len / 2 ^ 31)).st = .live then 0xE else 8, 0)
  else if leOf h 8 4 ≠ w || len % 2 ^ 31 ≠ n || (match hi with | some x => decide (ctr ≤ x) | none => false) then (s, 0xE, 0)
  else match Config.gcmOpen (bounceKey session k.gen) (h.take 16) body (BitVec.ofNat 128 (leOf h 16 16)) with
    | none => (s, 0xE, 0)
    | some pt =>
      let s := { s with sec := s.sec.setSlot slot { k with high := tset none k.high w (some ctr) } }
      let r := s.hubWrite g (dst + 4096 * j) (clean ((pt ++ List.replicate n 0).take n))
      (r.1, if r.2 = 0 then 0 else 7, if r.2 = 0 then 0 else 4)

/-! ### Tile clears (R454, R456) -/

/-- The scratchpad and bundle store of a tile zeroed (R454). -/
def clearTile (t : Tile) : Tile :=
  { t with sp := [], spPois := [], seq := { t.seq with valid := false, store := [], storeBad := [] } }

/-- SEC_TILECLR.go for a tile (R454, R456): refused while its sequencer is not halted or it is not idle. -/
def State.tileClear (s : State) (t : Nat) : State :=
  let x := s.tile t
  if x.seq.st ≠ .halted || !tileIdle x then { s with sec := { s.sec with clrRefused := true } }
  else
    { (s.setTile t { clearTile x with clearing := true }) with sec := { s.sec with clrBusy := true } }

/-! ### SPDM messages (R448) -/

/-- An SPDM response leaves, when the endpoint is up. -/
def State.spdm (s : State) (code : Nat) (d : List Byte) : State := if s.pci.up then s.emit (.spdm code d) else s
/-- An SPDM error leaves. -/
def State.spdmErr (s : State) (code : Nat) : State := if s.pci.up then s.emit (.spdmError code) else s
/-- A vendor-defined response leaves (R458). -/
def State.vendor (s : State) (status : Nat) (v : W64) : State := s.emit (.vendor status v)

/-- Whether the session is open. -/
def State.inSession (s : State) : Bool := s.sec.session = .open_ && s.pci.up

/-! ### Registers (R471) -/

/-- A SEC_ register that starts at an offset, and its value; a register wider than 64 bits is a row of words. -/
def secRead (s : State) (off : Nat) : Option (Bool × W64) :=
  let b := s.sec
  let word (m : BitVec 384) (i : Nat) : W64 := m.extractLsb' (64 * i) 64
  let st (k : KeySlot) : Nat := match k.st with | .empty => 0 | .live => 1 | .retired => 2
  match off with
  | 0x00 => some (false, bit b.bootDone 31 ||| bit b.bootSlot 30 ||| fld b.failA.toNat 16 ||| fld b.failB.toNat 8 ||| fld b.isvn.toNat 0)
  | 0x08 => some (true, Config.fuse 1 0)
  | 0x10 => some (true, Config.fuse 1 1)
  | 0x18 => some (true, thermo s.svn)
  | 0x20 => some (false, fld s.erev.toNat 0 ||| fld s.lrev.toNat 4 ||| bit dbgLock 8 ||| bit b.debugOpen 9)
  | 0x28 => some (true, b.dbgNonce)
  | 0x30 => some (false, bit b.conf 31 ||| bit (b.session = .open_) 30)
  | 0x38 => some (true, fld (b.key1.inflight % 65536) 48 ||| fld (b.key0.inflight % 65536) 32 ||| fld (st b.key1) 26 ||| fld (st b.key0) 24 |||
      fld (b.key1.gen.toNat % 256) 8 ||| fld (b.key0.gen.toNat % 256) 0)
  | 0x40 => some (false, bit b.entFail 31 ||| bit b.entRun 30)
  | 0x48 => some (false, bit b.clrBusy 30 ||| bit b.clrRefused 29 ||| b.clrTile.zeroExtend 64)
  | 0x430 => some (false, 0)
  | _ =>
    if off % 8 ≠ 0 then none
    else match arrIx off 0x100 0x40 8, arrIx off 0x400 0x30 1, arrIx off 0x4000 0x20 64, arrIx off 0x10000 0x10 512 with
      | some (n, r), _, _, _ => if r < 48 then some (true, word (tget 0 b.meas n) (r / 8)) else none
      | _, some _, _, _ => some (true, 0)
      | _, _, some (w, r), _ => if r < 24 then some (true, tget 0 b.bwin (4 * w + r / 8)) else none
      | _, _, _, some (e, r) => some (true, tget 0 b.crange (2 * e + r / 8))
      | _, _, _, _ => none

/-- The writable bits of word i of a bounce window (R471). -/
def bwinMask (i : Nat) : W64 := if i = 2 then 0x8000003F000FFFFF#64 else 0xFFFFFFFFFFF#64

/-- A write of a SEC_ register (R446, R454, R456, R471). -/
def secWrite (s : State) (off : Nat) (p : Part) (v : W64) : State :=
  let b := s.sec
  match off with
  | 0x40 => { s with sec := { b with entFail := b.entFail && !v[31] } }
  | 0x48 =>
    let s := { s with sec := { b with clrRefused := b.clrRefused && !v[29], clrTile := v.truncate 8 } }
    if v[31] then s.tileClear (v.toNat % 256) else s
  | 0x430 => let n := v.toNat % 8; if 5 ≤ n then s.extend n b.mextData else s
  | _ =>
    match arrIx off 0x400 0x30 1, arrIx off 0x4000 0x20 64, arrIx off 0x10000 0x10 512 with
    | some (_, r), _, _ =>
      let i := r / 8
      let old : W64 := b.mextData.extractLsb' (64 * i) 64
      let mask : BitVec 384 := (0xFFFFFFFFFFFFFFFF#384) <<< (64 * i)
      { s with sec := { b with mextData := (b.mextData &&& ~~~mask) ||| ((p.merge old v).zeroExtend 384 <<< (64 * i)) } }
    | _, some (w, r), _ =>
      let i := 4 * w + r / 8
      { s with sec := { b with bwin := tset 0 b.bwin i (p.merge (tget 0 b.bwin i) v &&& bwinMask (r / 8)) } }
    | _, _, some (e, r) =>
      let i := 2 * e + r / 8
      { s with sec := { b with crange := tset 0 b.crange i (p.merge (tget 0 b.crange i) v &&& 0x1FFFFFF0000#64) } }
    | _, _, _ => s

end Sys2Proof.Machine
end

