-- ==== Sys2Proof/Machine/LaunchOps.lean ====
section
/-! DEFINITION. Tiles waking and kernels starting: Dawn requests and group starts (R487, R495, R496), the context-start duties, the start
and the end of a launch (R291, R454, R507). -/

namespace Sys2Proof.Machine

/-! ### Waking a tile (R487, R495, R496) -/

/-- The PLL groups of a partition. -/
def groupsOf (mode p : Nat) : List Nat := (List.range 16).filter (fun g => partOfDie mode (2 * (g / 8) + g % 4 / 2) = p)

/-- The stopped groups of a partition begin to lock (R487). -/
def State.startGroups (s : State) (p : Nat) : State :=
  (groupsOf s.partMode p).foldl (fun s g =>
    if s.pwr.pgRun.getLsbD g && !s.pwr.pgHeld.getLsbD g then s
    else { s with pwr := { s.pwr with pgLock := s.pwr.pgLock ||| (1#16 <<< g) } }) s

/-- A tile in Dusk or Night is requested to Noon: it enters Dawn, and its partition's groups start if they are stopped (R495). -/
def State.requestNoon (s : State) (t : Nat) : State :=
  let x := s.tile t
  match x.power with
  | .dusk => (s.setTile t { x with power := .dawn, fromNight := false }).startGroups (partOfTile s.partMode t)
  | .night => (s.setTile t { x with power := .dawn, fromNight := true }).startGroups (partOfTile s.partMode t)
  | _ => s

/-- A tile loses its state on the way to Night, but for the router domain: the event counters and what it counted (R101, R495). -/
def nightTile (t : Tile) : Tile :=
  { Tile.reset with seq := { Tile.reset.seq with ev := t.seq.ev, gatedReq := t.seq.gatedReq, xpartEvt := t.seq.xpartEvt } }

/-- The wake of a tile is complete (R88, R202, R496): from Night everything is clear and the generators take entropy. -/
def State.wakeTile (s : State) (t : Nat) : State :=
  let x := s.tile t
  if x.power ≠ .dawn || !s.groupRuns (groupOf t) then s
  else if x.fromNight then
    { (s.setTile t { rngReseedOp false s.drawsEnt x with
        power := .noon, fromNight := false
        ve := { (rngReseedOp false s.drawsEnt x).ve with rngBusy := x.ve.rngBusy } }) with drawsEnt := s.drawsEnt + 512 }
  else s.setTile t { x with power := .noon }

/-! ### Context-start duties (R105, R127, R163, R203, R235, R318, R392, R507, R518) -/

/-- A write of a tile register with the firmware tag. -/
def fwPut (t : Tile) (r : TReg) (v : W64) : Tile := (tregWrite t fwTag r .all v 0 0).t

/-- The registers that the duties write, with the values. -/
def dutyWrites : List (TReg × W64) :=
  [(.waitflt, 0x80000000#64), (.haz, 0x8000001E#64), (.chkflt, 0xC0000000#64), (.mxClken, 0xF#64), (.mxReserr, 0xC0000000#64),
   (.dzCfg, 0x20000000#64), (.dzStat, 0xFFFFFFFF#64), (.veStat, 0xFFFFFFFF#64), (.veReserr, 0xC0000000#64),
   (.sfStat, 0xFFFFFFFF#64), (.sfReserr, 0xC0000000#64), (.tpage, 0), (.claim, 0x80000000#64), (.dmaIrq, 0xFF#64), (.phCfg, 0)] ++
  (List.range 4).map (fun n => (.mxStat n, 0xFFFFFFFF#64)) ++
  (List.range 8).map (fun n => (.dmaStat n, 0xFFFFFFFF#64)) ++
  (List.range 8).map (fun n => (.dmaWord n 7, 0x30000000000#64)) ++
  (List.range 8).map (fun n => (.phCtl n, 0x40000000#64))

/-- The state that a context start leaves on a tile, before its parameters and code. `d`: the next draw of the entropy source. -/
def dutyTile (chk : Bool) (d : Nat) (t : Tile) : Tile :=
  let t := { t with seq := { t.seq with ev := [], cmpsel := [], cmpthr := [], scalar := [], waitlim := 0, loop := [] } }
  let t := dutyWrites.foldl (fun t w => fwPut t w.1 w.2) t
  let t := [0, 1, 2, 3].foldl (fun t n => setMarr t n { marr t n with acc := [], fwd := [], amode := 0, sliceN := 0 }) t
  let t := rngReseedOp false d (veClear t)
  { t with
    seq := { t.seq with chk := chk }
    ve := { t.ve with clrBusy := false, rngBusy := false }
    sf := { t.sf with smsat := 0 } }

/-! ### Launches (R291, R433, R507) -/

/-- The kernel of a handle in a context (R266). -/
def State.kernelOf (s : State) (p c : Nat) (h : W32) : Option (Module × Kernel) :=
  match s.modules.find? (fun m => m.serial = h.toNat / 65536 && m.part = p && m.ctx = c) with
  | none => none
  | some m => (m.kernels[h.toNat % 65536]?).map (fun k => (m, k))

/-- The tiles of a kernel's rectangle, in row order. -/
def Kernel.tiles (k : Kernel) : List Nat :=
  (rangeFrom k.y0 k.h).flatMap (fun y => (rangeFrom k.x0 k.w).map (fun x => 16 * y + x))

/-- The overrides of a command: `n` pairs from byte 16 on (R435). -/
def overridesOf (c : StreamCmd) (n : Nat) : List (Nat × W64) :=
  (List.range n).map (fun i => (cmdAt c (16 + 12 * i) 4, BitVec.ofNat 64 (cmdAt c (20 + 12 * i) 8)))

/-- The checks of R292 on parameter writes: 0, BAD_CMD for an index past 63, PATCH_SHAPE or PARAM_RANGE. -/
def State.paramCode (s : State) (p c : Nat) (k : Kernel) : List (Nat × W64) → Nat
  | [] => 0
  | (i, v) :: l =>
    let cls := match k.cls.find? (·.1 = i) with | some x => x.2 | none => 0
    if 64 ≤ i then 1
    else if cls = 1 then 5
    else if cls = 2 && !s.rangeInPart p c v.toNat 1 then 6
    else s.paramCode p c k l

/-- An image with parameter writes laid over it. -/
def overlay (img : Tab W64) (l : List (Nat × W64)) : Tab W64 := l.foldl (fun m x => tset 0 m x.1 x.2) img

/-- Whether another stream's launch holds one of the tiles (R433). -/
def State.tilesBusy (s : State) (i : Nat) (ts : List Nat) : Bool :=
  ts.any (fun t => (s.tile t).seq.st ≠ .halted || !tileIdle (s.tile t)) ||
  s.stream.hamper.any (fun x => x.1 ≠ i && match x.2.run with
    | some (_, .launch _ us _ _) => ts.any us.contains
    | _ => false)

/-- One tile of a launch starts (R291, R304, R305, R454, R507): the clear for another context, the duties, the claim, the parameters and
the wait limit, the code, the start. -/
def State.startTile (s : State) (m : Module) (k : Kernel) (h : W32) (image : Tab W64) (t : Nat) : State :=
  let x := s.tile t
  let x := if s.ctxOf t ≠ m.ctx then clearTile x else x
  let x := dutyTile m.checked s.drawsEnt x
  let g : Tag := ⟨false, m.part, m.ctx⟩
  let x := if k.use = 0 then x else { x with sf := { x.sf with claim := claimCmd x.sf.claim g (0x40000000#32 ||| BitVec.ofNat 32 k.use) true true } }
  let refused := k.use ≠ 0 && (x.sf.claim.toNat % 16 ≠ k.use || x.sf.claim.toNat / 2 ^ 28 % 4 ≠ 0)
  let x := { x with seq := { x.seq with param := image, waitlim := k.waitlim } }
  let keep := x.seq.valid && tget 0 s.tileCode t = h && s.ctxOf t = m.ctx
  let x := if keep then x else
    let code := clean (k.code.flatMap (fun b => leBytes 32 b.toNat))
    { spWrite x k.place code with seq := { x.seq with codebase := BitVec.ofNat 32 k.place, codelen := BitVec.ofNat 32 k.code.length } }
  let x := if refused then
      { x with seq := { x.seq with trap := 0xFFFF0004#32, faultHalt := true, pc := 0 } }
    else seqStart keep x
  { (s.setTile t x) with
    drawsEnt := s.drawsEnt + 512, tileCtx := tset 0 s.tileCtx t m.ctx, tileCode := tset 0 s.tileCode t h }

/-- The launch of stream i starts on its tiles once all of them are in Noon. -/
def State.startLaunch (s : State) (i : Nat) : State :=
  let e := s.entry i
  match e.run with
  | some (c, .launch h ts image false) =>
    if ts.any (fun t => (s.tile t).power ≠ .noon) then s
    else match s.kernelOf e.part e.ctx h with
      | none => s.faultStream i 3 0
      | some (m, k) => (ts.foldl (fun s t => s.startTile m k h image t) s).setRun i c (.launch h ts image true) .active
  | _ => s

/-- The claims of a launch's tiles are released with the launch's tag (R507). -/
def State.releaseClaims (s : State) (e : StreamEnt) (ts : List Nat) : State :=
  ts.foldl (fun s t => s.modTile t (fun x => { x with sf := { x.sf with claim := claimCmd x.sf.claim e.tag 0x80000000#32 true true } })) s

/-- The launch of stream i ends when every tile is halted and idle (R435, R437). -/
def State.endLaunch (s : State) (i : Nat) : State :=
  let e := s.entry i
  match e.run with
  | some (c, .launch _ ts _ true) =>
    if ts.any (fun t => (s.tile t).seq.st ≠ .halted || !tileIdle (s.tile t)) then s
    else
      let bad := ts.any (fun t => (s.tile t).seq.faultHalt || (s.tile t).seq.mcHalt)
      let s := s.releaseClaims e ts
      if bad then s.faultStream i 0xA 0 else s.completeCmd i c
  | _ => s

/-- The launches whose tiles have all woken start. -/
def State.startLaunches (s : State) : State := (s.stream.hamper.map (·.1)).foldl State.startLaunch s

/-- LAUNCH (R435): format and handle have been checked; the snapshot is taken and the tiles are asked for Noon. -/
def State.launchGo (s : State) (i : Nat) (c : StreamCmd) (h : W32) (k : Kernel) (ov : List (Nat × W64)) : State :=
  let s := s.setRun i c (.launch h k.tiles (overlay k.image ov) false) .active
  (k.tiles.foldl State.requestNoon s).startLaunch i

end Sys2Proof.Machine
end

