-- ==== Sys2Proof/Machine/StreamOps.lean ====
section
/-! DEFINITION. The stream engine (15): the commands of R435 and their starts, waits and ends, doorbells, opens, closes, resumes, and the
dispatch of the next command. -/

namespace Sys2Proof.Machine

/-- A stream by a number below 8,192. -/
def streamIx (i : Nat) : StreamIx := ⟨i % 8192, Nat.mod_lt _ (by omega)⟩

/-- A command with its opcode byte set. -/
def withOp (c : StreamCmd) (op : Nat) : StreamCmd := (c &&& ~~~(0xFF#512)) ||| BitVec.ofNat 512 op

/-! ### The format of commands (R435) -/

/-- Bytes a to b - 1 of a command are zero. -/
def zeroIn (c : StreamCmd) (a b : Nat) : Bool := b ≤ a || cmdAt c a (b - a) = 0

/-- Whether a command keeps the rules of R435 on its fields. -/
def cmdOk (c : StreamCmd) : Bool :=
  cmdAt c 1 1 < 4 && zeroIn c 2 4 &&
  (match cmdAt c 0 1 with
  | 0 => zeroIn c 8 64
  | 1 => cmdAt c 12 1 ≤ 4 && zeroIn c 13 16 && zeroIn c (16 + 12 * cmdAt c 12 1) 64
  | 2 =>
    cmdAt c 13 1 < 2 && zeroIn c 14 16 &&
    (if cmdAt c 13 1 = 0 then cmdAt c 12 1 ≤ 4 && zeroIn c (16 + 12 * cmdAt c 12 1) 64
     else cmdAt c 12 1 = 0 && 1 ≤ cmdAt c 24 2 && cmdAt c 24 2 ≤ 64 && zeroIn c 26 64)
  | 3 => cmdAt c 24 8 < 2 ^ 40 && zeroIn c 32 64
  | 4 | 5 => cmdAt c 24 8 < 2 ^ 40 && zeroIn c 33 64
  | 6 => cmdAt c 10 1 < 2 && zeroIn c 11 16 && zeroIn c 24 64
  | 7 => zeroIn c 10 16 && zeroIn c 28 64
  | 8 =>
    let n := cmdAt c 8 1
    1 ≤ n && n ≤ 8 && zeroIn c 9 16 && zeroIn c (16 + 6 * n) 64 &&
    (List.range n).all (fun j => cmdAt c (16 + 6 * j) 2 < 8192)
  | 9 => zeroIn c 12 16 && zeroIn c 32 64
  | 0xA => (cmdAt c 12 1 < 2 || cmdAt c 12 1 = 3) && cmdAt c 13 1 < 2 && zeroIn c 48 64
  | 0xB => cmdAt c 12 1 < 2 && cmdAt c 13 1 < 2 && zeroIn c 52 64 && (cmdAt c 12 1 = 1 || zeroIn c 48 52)
  | _ => false)

/-- Bytes that the engine reads at an address for a stream (R428, R435, R528): from stack memory, or those that the host supplies. -/
def State.fetch (s : State) (e : StreamEnt) (a n : Nat) (host : List PByte) : Option (Nat × List PByte) :=
  if isHost a then (if s.pci.up && n ≤ host.length then some (if anyPois (host.take n) then 5 else 0, host.take n) else none)
  else some (s.hubRead e.tag a n)

/-- A read of the engine for stream i did not answer OK (R528): POISONED, or BAD_CMD for another status. -/
def State.badRead (s : State) (i a st : Nat) : State :=
  if st = 5 then (s.poisonHub a).faultStream i 0x10 0 else s.faultStream i 1 0

/-! ### Conditions (R435) -/

/-- The condition of a WAIT. -/
def State.waitMet (s : State) (e : StreamEnt) (ev : Nat) (thr : W64) : Bool :=
  match s.evGet e.part e.ctx ev with
  | some v => decide (0 ≤ (v - thr).toInt)
  | none => false

/-- The condition of a BARRIER: each named stream has come to its index. -/
def State.barrierMet (s : State) (c : StreamCmd) : Bool :=
  (List.range (cmdAt c 8 1)).all (fun j =>
    decide (0 ≤ ((s.entry (cmdAt c (16 + 6 * j) 2)).head - BitVec.ofNat 32 (cmdAt c (18 + 6 * j) 4)).toInt))

/-- Whether every stream that a BARRIER names belongs to the stream's context (R435). -/
def State.barrierOwn (s : State) (e : StreamEnt) (c : StreamCmd) : Bool :=
  (List.range (cmdAt c 8 1)).all (fun j => (s.entry (cmdAt c (16 + 6 * j) 2)).owner = e.owner)

/-! ### Starting a command -/

/-- The entries of an indirect PATCH (R435). -/
def listEntries (d : List PByte) (n : Nat) : List (Nat × W64) :=
  (List.range n).map (fun j => (leAt d (16 * j) 4, BitVec.ofNat 64 (leAt d (16 * j + 8) 8)))

/-- PATCH (R292): every entry is written, or none. -/
def State.patchGo (s : State) (i : Nat) (c : StreamCmd) (m : Module) (k : Kernel) (kn : Nat) (l : List (Nat × W64)) : State :=
  match s.paramCode m.part m.ctx k l with
  | 0 =>
    let m' : Module := { m with kernels := m.kernels.set kn { k with image := overlay k.image l } }
    ({ s with modules := s.modules.map (fun (x : Module) => if x.serial = m.serial then m' else x) }).completeCmd i c
  | code => s.faultStream i code 0

/-- Word 7 of the channel of a COPY: linear, no event (R380, R435; log entry 43). -/
def copyCtrl : W64 := 0x200#64 ||| (Config.copyRetry.zeroExtend 64 <<< 40)

/-- A COPY on an idle system channel, which one is the device's choice (R380, R435; log entry 43); `none` while all channels work. -/
def State.copyGo (s : State) (i : Nat) (c : StreamCmd) (e : StreamEnt) : Option State :=
  match chosen 2 s.draws ((List.finRange 64).filter (fun n => (s.chan n.val).st = .idle && (s.copyOf n.val).isNone)) with
  | none => none
  | some n =>
    let ch := s.chan n.val
    let ch := { ch with
      src := BitVec.ofNat 64 (cmdAt c 8 8), dst := BitVec.ofNat 64 (cmdAt c 16 8), cnt := BitVec.ofNat 64 (cmdAt c 24 8)
      sstr := 0, sstr2 := 0, dstr := 0, dstr2 := 0, ctrl := copyCtrl
      tag := BitVec.ofNat 32 (e.part + 16 * e.ctx) }
    some ((((s.drawn 1).setChan n.val ch).setRun i c (.copy n.val) .active).sysCtrl n (ch.ctrl ||| 1#64))

/-- SEAL and UNSEAL up to their first chunk (R462, R464, R465): a fault code, or window, first chunk, slot and generation. -/
def State.cryptStart (s : State) (e : StreamEnt) (c : StreamCmd) (outward : Bool) : Nat ⊕ (Nat × Nat × Nat × W32) :=
  let count := cmdAt c 24 8
  let g8 := cmdAt c 32 1
  if !s.sec.conf then .inl 1
  else match s.windowOf e.part e.ctx (if outward then cmdAt c 16 8 else cmdAt c 8 8) ((count + 4095) / 4096) with
    | none => .inl 0xF
    | some (w, ch0) =>
      let k := s.sec.slot g8
      if k.st ≠ .live || k.gen.toNat % 256 ≠ g8 then .inl 8 else .inr (w, ch0, g8 % 2, k.gen)

/-- The end of a SEAL or UNSEAL: the in-flight count falls, the command completes or faults. -/
def State.cryptFinish (s : State) (i : Nat) (c : StreamCmd) (slot : Nat) (gen : W32) (session code hi : Nat) : State :=
  let s := s.cryptEnds slot gen session
  if code = 0 then s.completeCmd i c else s.faultStream i code hi

/-- UNSEAL takes the chunks that the host has supplied, in order (R462); it stays running while chunks are missing. -/
def State.unsealGo (s : State) (i : Nat) (c : StreamCmd) (slot : Nat) (gen : W32) (session : Nat) :
    Nat → List (List PByte × List PByte) → State
  | j, l =>
    let e := s.entry i
    let count := cmdAt c 24 8
    if s.sec.session = .none || s.sec.sessionNo ≠ session then s.cryptFinish i c slot gen session 8 0
    else if (count + 4095) / 4096 ≤ j then s.cryptFinish i c slot gen session 0 0
    else match l with
      | [] => s.setRun i c (.crypt slot gen session j) .active
      | x :: xs =>
        let w := match s.windowOf e.part e.ctx (cmdAt c 8 8) ((count + 4095) / 4096) with | some y => y.1 | none => 64
        let r := s.unsealChunk e.tag (cmdAt c 16 8) count w slot session j x.1 x.2
        if r.2.1 = 0 then r.1.unsealGo i c slot gen session (j + 1) xs
        else r.1.cryptFinish i c slot gen session r.2.1 r.2.2
termination_by structural _ l => l

/-- A stream's command `c` starts, and ends when nothing is left of it (R435 to R437): `none` when it cannot start yet. `host` and `chunks`
are what the host supplies for reads of its memory. -/
def State.startCmd (s0 : State) (i : Nat) (c : StreamCmd) (host : List PByte) (chunks : List (List PByte × List PByte)) : Option State :=
  let e := s0.entry i
  let s := s0.setRun i c .barrier .active
  let p := e.part
  let cx := e.ctx
  if !cmdOk c then some (s.faultStream i 1 0)
  else match cmdAt c 0 1 with
  | 0 => some (s.completeCmd i c)
  | 1 =>
    let h := BitVec.ofNat 32 (cmdAt c 8 4)
    match s.kernelOf p cx h with
    | none => some (s.faultStream i 3 0)
    | some (_, k) =>
      let ov := overridesOf c (cmdAt c 12 1)
      let code := s.paramCode p cx k ov
      if code ≠ 0 then some (s.faultStream i code 0)
      else if s0.tilesBusy i k.tiles then none
      else some (s.launchGo i c h k ov)
  | 2 =>
    let h := BitVec.ofNat 32 (cmdAt c 8 4)
    match s.kernelOf p cx h with
    | none => some (s.faultStream i 3 0)
    | some (m, k) =>
      if cmdAt c 13 1 = 0 then some (s.patchGo i c m k (h.toNat % 65536) (overridesOf c (cmdAt c 12 1)))
      else
        let n := cmdAt c 24 2
        match s.fetch e (cmdAt c 16 8) (16 * n) host with
        | none => none
        | some (0, d) => some (s.patchGo i c m k (h.toNat % 65536) (listEntries d n))
        | some (st, _) => some (s.badRead i (cmdAt c 16 8) st)
  | 3 => s0.copyGo i c e
  | 4 =>
    match s.cryptStart e c true with
    | .inl code => some (s.faultStream i code 0)
    | .inr (w, ch0, slot, gen) =>
      let n := s.sec.sessionNo
      let k := s.sec.slot slot
      let s := { s with sec := s.sec.setSlot slot { k with inflight := k.inflight + 1 } }
      let r := s.sealChunks e.tag (cmdAt c 8 8) (cmdAt c 24 8) w ch0 slot n (List.range ((cmdAt c 24 8 + 4095) / 4096))
      some (r.1.cryptFinish i c slot gen n r.2.1 r.2.2)
  | 5 =>
    match s.cryptStart e c false with
    | .inl code => some (s.faultStream i code 0)
    | .inr (_, _, slot, gen) =>
      let n := s.sec.sessionNo
      let k := s.sec.slot slot
      let s := { s with sec := s.sec.setSlot slot { k with inflight := k.inflight + 1 } }
      some ((s.setRun i c (.crypt slot gen n 0) .active).unsealGo i c slot gen n 0 chunks)
  | 6 =>
    some ((s.evPut p cx (cmdAt c 8 2) (cmdAt c 10 1 = 1) (BitVec.ofNat 64 (cmdAt c 16 8))).completeCmd i c)
  | 7 =>
    let ev := cmdAt c 8 2
    let thr := BitVec.ofNat 64 (cmdAt c 16 8)
    if s.waitMet e ev thr then some (s.completeCmd i c) else some (s.setRun i c (.wait ev thr) .waiting)
  | 8 =>
    if !s.barrierOwn e c then some (s.faultStream i 1 0)
    else if s.barrierMet c then some (s.completeCmd i c) else some (s.setRun i c .barrier .waiting)
  | 9 =>
    let id := s.nextId
    match s.queueUpdate p cx (cmdAt c 8 4) (BitVec.ofNat 64 (cmdAt c 16 8)) (.stream (streamIx i) (cmdAt c 24 8)) with
    | none => none
    | some s => some (s.setRun i c (.update id) .active)
  | op =>
    let group := op = 0xB && cmdAt c 12 1 = 1
    let kind : Fin 4 := if op = 0xB then 2 else ⟨cmdAt c 12 1 % 4, Nat.mod_lt _ (by omega)⟩
    let q : CollReq :=
      { kind := kind, retry := cmdAt c 13 1 = 1, root := BitVec.ofNat 16 (cmdAt c 14 2), group := BitVec.ofNat 32 (cmdAt c 8 4)
        tensor := cmdAt c 16 8, bytes := cmdAt c 24 8, elem := 8, step := BitVec.ofNat 64 (cmdAt c 32 8)
        pgroup := if group then some (BitVec.ofNat 32 (cmdAt c 48 4)) else if kind = 3 then some (BitVec.ofNat 32 (cmdAt c 14 2)) else none }
    let id := s.nextId
    match s.queueColl p cx q (.stream (streamIx i) (cmdAt c 40 8)) with
    | none => none
    | some s => some (s.setRun i c (.coll id) .active)

/-- Whether a hub block has an operation outstanding (R489): 0 stream engine, 1 system DMA, 2 convoy engine, 3 AES engines. -/
def State.hubBusy (s : State) (i : Nat) : Bool :=
  match i with
  | 0 => s.stream.hamper.any (fun x => x.2.run.isSome)
  | 1 => s.sdma.any (fun x => x.2.st ≠ .idle)
  | 2 => s.cvy.run ≠ [] || s.cvy.queue ≠ []
  | _ => s.stream.hamper.any (fun x => match x.2.run with | some (_, .crypt _ _ _ _) => true | _ => false)

/-- The enable of a hub block in force (R489): a 0 written takes effect once the block is idle. -/
def State.hubEn (s : State) (i : Nat) : Bool := s.pwr.huben.getLsbD i && !(s.pwr.hubOff.getLsbD i && !s.hubBusy i)

/-- Whether a stream may start a command (R430, R433): the engine is clocked, the entry is in the hamper, ACTIVE, with nothing running. -/
def State.canStart (s : State) (i : Nat) : Bool :=
  let e := s.entry i
  s.hubEn 0 && s.inHamper i && e.st = .active && e.run.isNone

/-- A command of row `op` starts on stream i; a stream that may start none, or a command that cannot start yet, changes nothing. -/
def State.streamCmd (s : State) (i op : Nat) (c : StreamCmd) (host : List PByte) (chunks : List (List PByte × List PByte)) : State :=
  if s.canStart i then (s.startCmd i (withOp c op) host chunks).getD s else s

/-! ### Dispatch (R432, R433) -/

/-- Streams that may start a command, highest priority first; among equals those after the one served last come first. -/
def State.readyStreams (s : State) : List Nat :=
  let act := ((s.stream.hamper.map (·.1)).filter (fun i => s.canStart i && (s.entry i).head ≠ (s.entry i).tail)).mergeSort (· ≤ ·)
  let turn := act.filter (s.stream.lastServed < ·) ++ act.filter (· ≤ s.stream.lastServed)
  [7, 6, 5, 4, 3, 2, 1, 0].flatMap (fun q => turn.filter (fun i => (s.entry i).flags.toNat / 2 % 8 = q))

/-- The address of command index i of a ring (R429). -/
def StreamEnt.slotAddr (e : StreamEnt) (idx : Nat) : Nat := e.ring.toNat + 64 * (idx % 2 ^ e.lsize.toNat)

/-- The next command of stream i is fetched and started (R430, R435, R528). -/
def State.tryStream (s : State) (i : Nat) (host : List PByte) : Option State :=
  let e := s.entry i
  match s.fetch e (e.slotAddr e.head.toNat) 64 host with
  | none => none
  | some (0, d) => s.startCmd i (BitVec.ofNat 512 (leNatP d)) [] []
  | some (st, _) => some (s.badRead i (e.slotAddr e.head.toNat) st)

/-- The first stream of a list whose command can start. -/
def State.firstStart (s : State) (host : List PByte) : List Nat → State
  | [] => s
  | i :: l =>
    match s.tryStream i host with
    | some t => { t with stream := { t.stream with lastServed := i } }
    | none => s.firstStart host l

/-! ### Stream commands behind registers (R430, R431, R432) -/

/-- The checks of an open (R430, R459). -/
def State.openOk (s : State) (e : StreamEnt) : Bool :=
  let p := e.part
  let n := 64 * 2 ^ e.lsize.toNat
  let ring := e.ring.toNat
  let cpl := e.cplad.toNat
  let place (a n : Nat) : Bool :=
    (isHost a && a + n ≤ 0x400000000000 && !s.sec.conf) ||
    (a + n ≤ memEnd && (rangeFrom (a / 2 ^ 37) ((a + n - 1) / 2 ^ 37 + 1 - a / 2 ^ 37)).all (fun k => partOfStack s.partMode k = p))
  e.owner.toNat < 64 && p < partCount s.partMode && 4 ≤ e.lsize.toNat && e.lsize.toNat ≤ 16 && ring % 4096 = 0 && place ring n &&
  cpl % 64 = 0 && (cpl = 0 || place cpl 16)

/-- A request on an entry in the hamper takes effect (R430, R431). -/
def State.applyReq (s : State) (i : Nat) (r : StreamReq) : State :=
  let e := s.entry i
  match r with
  | .select => s
  | .open_ =>
    if e.st ≠ .closed then s
    else if s.openOk e then
      s.setEntry i { e with st := .idle, head := 0, tail := 0, fidx := 0, nlaunch := 0, fault := 0, run := none, closing := false, resuming := false }
    else { s with stream := { s.stream with bad := true } }
  | .close =>
    if e.st = .closed then s
    else if e.run.isSome then s.setEntry i { e with closing := true }
    else s.setEntry i { e with st := .closed, closing := false, resuming := false }
  | .resume =>
    if e.st = .faulted then
      s.setEntry i { e with st := if e.tail = e.fidx + 1 then .idle else .active, head := e.fidx + 1, fault := 0 }
    else if e.run.isSome then s.setEntry i { e with resuming := true }
    else s
  | .doorbell v =>
    match e.st with
    | .closed => { s with stream := { s.stream with dbClosed := satInc s.stream.dbClosed } }
    | .faulted => s.setEntry i { e with tail := v }
    | _ =>
      if 2 ^ e.lsize.toNat < (v - e.head).toNat then s.faultStream i 2 0
      else s.setEntry i { e with tail := v, st := if e.st = .idle && v ≠ e.head then .active else e.st }

/-- A request on stream i: its entry is brought into the hamper, or the request waits (R432). -/
def State.streamReq (s : State) (i : Nat) (r : StreamReq) : State :=
  match s.fetchEntry i with
  | some t => t.applyReq i r
  | none => { s with stream := { s.stream with pending := s.stream.pending ++ [(i, r)] } }

/-- The requests that wait for stream i are served once its entry can be fetched (R432). -/
def State.servePending (s : State) (i : Nat) : State :=
  match s.fetchEntry i with
  | none => s
  | some t =>
    let mine := t.stream.pending.filter (·.1 = i)
    let t := { t with stream := { t.stream with pending := t.stream.pending.filter (·.1 ≠ i) } }
    if mine = [] then s else mine.foldl (fun s r => s.applyReq i r.2) t

/-- A waiting WAIT or BARRIER whose condition holds completes (R430). -/
def State.waitDone (s : State) (i : Nat) : State :=
  let e := s.entry i
  if e.st ≠ .waiting then s
  else match e.run with
    | some (c, .wait ev thr) => if s.waitMet e ev thr then s.completeCmd i c else s
    | some (c, .barrier) => if s.barrierMet c then s.completeCmd i c else s
    | _ => s

/-- The timeout of a WAIT elapses (R435, R437). -/
def State.waitTimeout (s : State) (i : Nat) : State :=
  let e := s.entry i
  if e.st ≠ .waiting then s
  else match e.run with
    | some (c, .wait _ _) => if cmdAt c 24 4 ≠ 0 then s.faultStream i 9 0 else s
    | _ => s

/-! ### Registers (R438) -/

/-- Word n of an entry as the window shows it (R438). -/
def StreamEnt.word (e : StreamEnt) (n : Nat) : W64 := BitVec.ofNat 64 (leNat ((e.bytes.drop (8 * n)).take 8))

/-- A write of word n of the selected entry: flags, owner, lsize, msix, ring and cplad take it (R438). -/
def StreamEnt.setWord (e : StreamEnt) (n : Nat) (v : W64) : StreamEnt :=
  match n with
  | 0 => { e with flags := v.extractLsb' 0 8, owner := v.extractLsb' 16 8, lsize := v.extractLsb' 24 8, msix := v.extractLsb' 32 16 }
  | 1 => { e with ring := v }
  | 2 => { e with cplad := v }
  | _ => e

/-- A STREAM_ register that starts at an offset, and its value. -/
def streamRead (s : State) (off : Nat) : Option (Bool × W64) :=
  let b := s.stream
  let e := s.entry b.sel.toNat
  match off with
  | 0x00 => some (true, b.tbase)
  | 0x08 => some (false, b.sel.zeroExtend 64)
  | 0x10 => some (false, 0)
  | 0x14 => some (false, bit b.bad 31 ||| fld e.st.code 24 ||| fld (e.fault.toNat % 2 ^ 24) 0)
  | 0x18 => some (false, b.dbClosed.zeroExtend 64)
  | _ =>
    match arrIx off 0x40 8 8, arrIx off 0x100 8 64, arrIx off 0x10000 4 8192 with
    | some (n, 0), _, _ => some (true, e.word n)
    | _, some (n, 0), _ => some (true, tget 0 b.evbase n)
    | _, _, some (_, 0) => some (false, 0)
    | _, _, _ => none

/-- A write of a STREAM_ register (R430, R431, R438). -/
def streamWrite (s : State) (g : Tag) (off : Nat) (p : Part) (v : W64) : State :=
  let b := s.stream
  let i := b.sel.toNat
  match off with
  | 0x00 => if g.fw then { s with stream := { b with tbase := p.merge b.tbase v &&& 0x1FFFFE00000#64 } } else s
  | 0x08 => ({ s with stream := { b with sel := v.truncate 13 } }).streamReq (v.toNat % 8192) .select
  | 0x10 =>
    match v.toNat % 8 with
    | 1 => s.streamReq i .open_
    | 2 => s.streamReq i .close
    | 3 => s.streamReq i .resume
    | _ => s
  | 0x14 => { s with stream := { b with bad := b.bad && !v[31] } }
  | _ =>
    match arrIx off 0x40 8 8, arrIx off 0x100 8 64, arrIx off 0x10000 4 8192 with
    | some (n, 0), _, _ =>
      let e := s.entry i
      if e.st ≠ .closed then s
      else match s.fetchEntry i with
        | some t => t.setEntry i (e.setWord n (p.merge (e.word n) v))
        | none => s
    | _, some (n, 0), _ =>
      if g.fw then { s with stream := { b with evbase := tset 0 b.evbase n (p.merge (tget 0 b.evbase n) v &&& 0x1FFFFF80000#64) } } else s
    | _, _, some (n, 0) => s.streamReq n (.doorbell (v.truncate 32))
    | _, _, _ => s

end Sys2Proof.Machine
end

