-- ==== Sys2Proof/Machine/NpcOps.lean ====
section
/-! DEFINITION. The stash directory (08), the claims of the hub (19) and the translator's requests (09): loading, the
record, unloading. -/

namespace Sys2Proof.Machine

/-! ### Stash directory (R258 to R260) -/

/-- Slot i. -/
def State.slotOf (s : State) (i : Nat) : StashSlot := tget StashSlot.zero s.stash i
/-- The state with slot i replaced. -/
def State.setSlotOf (s : State) (i : Nat) (x : StashSlot) : State := { s with stash := tset StashSlot.zero s.stash i x }

/-- Whether a tag is the owner of a slot. -/
def StashSlot.owner (x : StashSlot) (g : Tag) : Bool := x.part.toNat = g.part && x.ctx.toNat = g.ctx

/-- A command to HUB_STASHCTLs (R258, R260): 1 claim, 2 seal, 3 release. -/
def StashSlot.cmd (x : StashSlot) (g : Tag) (cmd : Nat) (tag : BitVec 20) : StashSlot :=
  match cmd with
  | 1 =>
    if x.st = 0 then { StashSlot.zero with st := 1, part := BitVec.ofNat 2 g.part, ctx := BitVec.ofNat 4 g.ctx, tag := tag
                                           base := x.base, size := x.size, nrec := x.nrec }
    else x
  | 2 => if x.st = 1 && x.owner g && x.base.toNat % 4096 = 0 && x.base.toNat + x.size.toNat ≤ memEnd then { x with st := 2 } else x
  | 3 => if x.st ≠ 0 && (x.owner g || g.fw) then { x with st := 0, part := 0, ctx := 0, tag := 0 } else x
  | _ => x

/-- A write of BASE (8), SIZE (0x10) or NREC (0x18): only the owner of an open slot (R260). -/
def StashSlot.field (x : StashSlot) (g : Tag) (r : Nat) (p : Part) (v : W64) : StashSlot :=
  if x.st ≠ 1 || !x.owner g then x
  else match r with
    | 0x08 => { x with base := p.merge x.base v &&& 0x1FFFFFFFFFF#64 }
    | 0x10 => { x with size := p.merge x.size v }
    | 0x18 => { x with nrec := v.truncate 32 }
    | _ => x

/-- HUB_STASHFREE. -/
def State.stashFree (s : State) : W64 :=
  BitVec.ofNat 64 ((List.range 64).foldl (fun n i => if (s.slotOf i).st = 0 then n + 2 ^ i else n) 0)

/-- The stash register that starts at an offset from 0x0004_0000, and its value. -/
def stashRead (s : State) (o : Nat) : Option (Bool × W64) :=
  if o = 0 then some (true, s.stashFree)
  else match arrIx o 0x100 0x20 64 with
    | some (i, r) =>
      let x := s.slotOf i
      match r with
      | 0 => some (false, fld x.st.toNat 30 ||| fld x.part.toNat 24 ||| fld x.ctx.toNat 20 ||| fld x.tag.toNat 0)
      | 0x08 => some (true, x.base)
      | 0x10 => some (true, x.size)
      | 0x18 => some (false, x.nrec.zeroExtend 64)
      | _ => none
    | none => none

/-- A write of a stash register. -/
def stashWrite (s : State) (g : Tag) (o : Nat) (p : Part) (v : W64) : State :=
  match arrIx o 0x100 0x20 64 with
  | some (i, 0) => s.setSlotOf i ((s.slotOf i).cmd g (v.toNat / 2 ^ 28 % 4) (v.truncate 20))
  | some (i, r) => s.setSlotOf i ((s.slotOf i).field g r p v)
  | none => s

/-! ### Claims of the hub (R506, R508, R509, R517) -/

/-- A command to HUB_CLMEVT (R508): firmware and the Lookout claim; uses 2 and 3 while debug is open, other uses past 4 are refused with
MODE. -/
def State.claimEvt (s : State) (g : Tag) (v : W32) : State :=
  let use := v.toNat % 16
  let modeOk := use = 1 || use = 4 || ((use = 2 || use = 3) && s.sec.debugOpen)
  { s with trc := { s.trc with clmEvt := claimCmd s.trc.clmEvt g v modeOk g.fw } }

/-- A command to HUB_CLMTRC (R509, R517): a claim that succeeds clears the position and the lost counts. -/
def State.claimTrc (s : State) (g : Tag) (v : W32) : State :=
  let use := v.toNat % 16
  let modeOk := use = 1 || (use = 2 && s.sec.debugOpen && !s.sec.conf)
  let old := s.trc.clmTrc
  let new := claimCmd old g v modeOk true
  let won := old &&& 0xF#32 = 0 && new &&& 0xF#32 ≠ 0
  let b := { s.trc with clmTrc := new }
  { s with trc := if won then { b with held := 0, next := 0, seq := 0, xctx := 0, full := 0, buf := [] } else b }

/-! ### Hub phase timers and trace registers (R514, R516, R517, R519) -/

/-- Hub timer n. -/
def State.tphHub (s : State) (n : Nat) : PhTimer := tget PhTimer.zero s.trc.tph n
/-- Hub timer n replaced. -/
def State.setTphHub (s : State) (n : Nat) (x : PhTimer) : State := { s with trc := { s.trc with tph := tset PhTimer.zero s.trc.tph n x } }

/-- A write of HUB_PHCTLn (R514, R515, R518, R519): clear before stop before start. A stop of a running timer leaves a record. A count of
HCLK cycles that has run is a free value (log entry 41). -/
def State.hubPhase (s : State) (n : Fin 8) (v : W32) : State :=
  let x := s.tphHub n.val
  let stopped (s : State) : State :=
    if x.run then
      let y : PhTimer := { x with cnt := s.free }
      let s := (s.setTphHub n.val y.stop).drawn 1
      s.traceRecord true ⟨true, 0, n, y.tag, y.cnt⟩
    else s
  if v[30] then s.setTphHub n.val PhTimer.zero
  else if v[28] then stopped s
  else if v[29] then
    let s := stopped s
    s.setTphHub n.val ((s.tphHub n.val).start 0)
  else s

/-- A write of HUB_TRCCTL (R517, R519). -/
def State.trcCtl (s : State) (v : W32) : State :=
  { s with trc := { s.trc with wrap := v[0], frozen := s.trc.frozen && !v[30] } }

/-- A trace or hub-timer register that starts at an offset from 0x0006_0000, and its value. -/
def trcRead (s : State) (o : Nat) : Option (Bool × W64) :=
  match o with
  | 0 => some (false, bit s.trc.frozen 31 ||| bit s.trc.wrap 0)
  | 4 => some (false, BitVec.ofNat 64 s.trc.held)
  | 8 => some (false, fld s.trc.xctx.toNat 16 ||| fld s.trc.full.toNat 0)
  | _ => match arrIx o 0x100 0x10 8 with
    | some (n, 0) => some (false, (s.tphHub n).ctl)
    | some (n, 8) => some (true, (s.tphHub n).cnt)
    | _ => none

/-! ### The translator (R265 to R273, R286, R293) -/

/-- The kernels of a module that has passed its checks (R272, R276, R286, R291). -/
def moduleKernels (fx : Bool) (mode : Nat) (checked : Bool) (m : List Byte) : List Kernel :=
  let l := sections m
  match sectOf l 1, sectOf l 2 with
  | some code, some ker =>
    let params : List (Nat × Nat × W64) := match sectOf l 6 with
      | some x => (List.range x.cnt).map (fun i =>
          let a := x.off + 16 * i
          (modAt m a 1, modAt m (a + 1) 1, BitVec.ofNat 64 (modAt m (a + 8) 8)))
      | none => []
    (List.range ker.cnt).map (fun i =>
      let a := ker.off + 64 * i
      { x0 := modAt m (a + 4) 1, y0 := modAt m (a + 5) 1, w := modAt m (a + 6) 1, h := modAt m (a + 7) 1
        waitlim := BitVec.ofNat 32 (modAt m (a + 20) 4)
        use := let u := kernelUse m code a; if u = 1 && !fx then 0 else u
        code := (Config.tileCode m (capWord fx) mode checked i).take 2048
        place := Config.codePlace m (capWord fx) mode i % spSize / 64 * 64
        image := params.foldl (fun t q => tset 0 t q.1 q.2.2) []
        cls := (params.filter (fun q => q.2.1 ≠ 0)).map (fun q => (q.1, q.2.1)) })
  | _, _ => []

/-- The load record (R266). -/
def loadRecord (status : Nat) (cached : Bool) (sect index handle kernels time scratch : Nat) (cap : W64) : List Byte :=
  [BitVec.ofNat 8 status, if cached then 1 else 0] ++ leBytes 2 sect ++ leBytes 4 index ++ leBytes 4 handle ++ leBytes 4 kernels ++
  leBytes 4 time ++ leBytes 4 scratch ++ leBytes 8 cap.toNat ++ List.replicate 32 0

/-- The constants of a module that are tensors of device memory, or of the scratchpad with a place of their own, written at load (R276):
to device memory, or to every tile of every kernel that is in Noon. -/
def State.writeConsts (s : State) (p c : Nat) (m : List Byte) (ks : List Kernel) : State :=
  let l := sections m
  match sectOf l 3, sectOf l 5 with
  | some ten, some con =>
    let rec_ (s : State) (a : Nat) : State :=
      let tid := modAt m a 2
      let n := modAt m (a + 4) 4
      let ta := ten.off + 128 * tid
      let base := modAt m (ta + 8) 8
      let d := clean ((m.drop (a + 16)).take n)
      if ten.cnt ≤ tid || base = 2 ^ 64 - 1 then s
      else if modAt m (ta + 2) 1 = 2 then (s.hubWrite ⟨false, p, c⟩ base d).1
      else if modAt m (ta + 2) 1 = 0 && base + n ≤ spSize then
        (ks.flatMap Kernel.tiles).eraseDups.foldl (fun s t => if (s.tile t).power = .noon then s.modTile t (fun x => spWrite x base d) else s) s
      else s
    (List.range con.cnt).foldl (fun (x : State × Nat) _ =>
      if con.off + con.size ≤ x.2 then x else (rec_ x.1 x.2, x.2 + 16 + (modAt m (x.2 + 4) 4 + 15) / 16 * 16)) (s, con.off) |>.1
  | _, _ => s

/-- Whether a request block is well formed (R265, R267, R268 step 1): its fields and the ranges that it names. -/
def State.reqOk (s : State) (p : Nat) (d : List PByte) : Bool :=
  let op := leAt d 0 2
  let range (a n : Nat) : Bool := a + n ≤ memEnd && n ≠ 0 &&
    (rangeFrom (a / 2 ^ 37) ((a + n - 1) / 2 ^ 37 + 1 - a / 2 ^ 37)).all (fun k => partOfStack s.partMode k = p)
  !anyPois d && (op = 1 || op = 2) && leAt d 2 1 < 16 && leAt d 3 1 < 2 && leAt d 4 4 = 0 && leAt d 36 28 = 0 &&
  leAt d 24 8 % 64 = 0 && range (leAt d 24 8) 64 &&
  (op = 2 || (leAt d 8 8 % 64 = 0 && leAt d 16 8 % 64 = 0 && 128 ≤ leAt d 16 8 && range (leAt d 8 8) (leAt d 16 8)))

/-- The state with partition p's translator busy until its record is written. -/
def State.npcBusy (s : State) (p : Nat) (addr : Option Nat) (status : Nat) (record : List Byte) : State :=
  s.setNpc p { s.npcOf p with busy := some ⟨addr, record, BitVec.ofNat 8 status⟩ }

/-- Whether a launch of a module is queued or running (R269): in a ring of stack memory of a stream of its context. -/
def State.moduleInUse (s : State) (m : Module) : Bool :=
  s.stream.hamper.any (fun x =>
    let e := x.2
    let isOf (c : StreamCmd) : Bool := cmdAt c 0 1 = 1 && cmdAt c 10 2 = m.serial
    e.part = m.part && e.ctx = m.ctx &&
    ((match e.run with | some (c, _) => isOf c | none => false) ||
     ((e.st = .active || e.st = .waiting) && !isHost e.ring.toNat &&
      (List.range (min 65536 (e.tail - e.head).toNat)).any (fun j =>
        isOf (BitVec.ofNat 512 (leNatP (s.memRead (e.slotAddr (e.head.toNat + j)) 64)))))))

/-- A load for partition p (R268, R291, R293). -/
def State.npcLoadGo (s : State) (p : Nat) (d : List PByte) : State :=
  let c := leAt d 2 1
  let rec_ := leAt d 24 8
  let len := leAt d 16 8
  let cap := capWord s.fx
  let r := s.hubRead ⟨false, p, noCtx⟩ (leAt d 8 8) len
  let m := plain r.2
  let checked := leAt d 3 1 = 1 || modAt m 5 1 % 2 = 1
  if r.1 ≠ 0 then s.npcBusy p (some rec_) 10 (loadRecord 10 false 0xFFFF 0 0 0 0 0 cap)
  else match moduleFail s.fx s.partMode p checked m with
    | some (st, sect, i) => s.npcBusy p (some rec_) st (loadRecord st false sect i 0 0 0 0 cap)
    | none =>
      let key := (Config.sha384 (m.drop 128), cap, s.partMode, checked)
      let cached := s.cache.contains key
      let ks := moduleKernels s.fx s.partMode checked m
      let cost := Config.loadCost m cap
      let md : Module := ⟨s.nextSerial, p, c, checked, ks⟩
      let s := { s with
        modules := s.modules ++ [md], nextSerial := s.nextSerial % 65535 + 1
        cache := if cached then s.cache else s.cache ++ [key] }
      (s.writeConsts p c m ks).npcBusy p (some rec_) 0
        (loadRecord 0 cached 0xFFFF 0 (md.serial * 65536) ks.length (if cached then 0 else cost.1.toNat) cost.2.toNat cap)

/-- An unload for partition p (R269). -/
def State.npcUnloadGo (s : State) (p : Nat) (d : List PByte) : State :=
  let c := leAt d 2 1
  let rec_ := leAt d 24 8
  let h := leAt d 32 4
  let cap := capWord s.fx
  let done (s : State) (st : Nat) : State := s.npcBusy p (some rec_) st (loadRecord st false 0xFFFF 0 h 0 0 0 cap)
  match s.modules.find? (fun m => m.serial = h / 65536 && m.part = p && m.ctx = c) with
  | none => done s 9
  | some m =>
    if h % 65536 ≠ 0 then done s 9
    else if s.moduleInUse m then done s 8
    else done { s with modules := s.modules.filter (fun (x : Module) => x.serial ≠ m.serial) } 0

/-- The doorbell of partition p (R265): the block is read and the request served; its record follows at completion. -/
def State.npcDoorbell (s : State) (p : Nat) : State :=
  let b := s.npcOf p
  if partCount s.partMode ≤ p then s
  else if b.busy.isSome then s.setNpc p { b with overrun := true }
  else
    let a := b.req.toNat
    let r := s.hubRead ⟨false, p, noCtx⟩ a 64
    let d := r.2
    if a % 64 ≠ 0 || r.1 ≠ 0 then s.npcBusy p none 10 []
    else if !s.reqOk p d then
      let rec_ := leAt d 24 8
      let ok := rec_ % 64 = 0 && rec_ + 64 ≤ memEnd && partOfStack s.partMode (rec_ / 2 ^ 37) = p
      s.npcBusy p (if ok then some rec_ else none) 10 (loadRecord 10 false 0xFFFF 0 0 0 0 0 (capWord s.fx))
    else if leAt d 0 2 = 1 then s.npcLoadGo p d
    else s.npcUnloadGo p d

/-- A request of partition p completes (R265, R473): the record, busy and last, the load-completion latch. -/
def State.npcComplete (s : State) (p : Nat) : State :=
  let b := s.npcOf p
  match b.busy with
  | none => s
  | some x =>
    let s := match x.recAddr with
      | some a => (s.hubWrite ⟨false, p, noCtx⟩ a (clean x.record)).1
      | none => s
    (s.setNpc p { b with busy := none, last := x.status }).latch (12 + p)

/-- A write of HUB_NPCREQp (R265). -/
def State.npcReqWrite (s : State) (p : Nat) (part : Part) (v : W64) : State :=
  let b := s.npcOf p
  if partCount s.partMode ≤ p then s
  else if b.busy.isSome then s.setNpc p { b with overrun := true }
  else s.setNpc p { b with req := part.merge b.req v &&& 0x1FFFFFFFFC0#64 }

/-- A translator register that starts at an offset from 0x0005_0000, and its value (R265). -/
def npcRead (s : State) (o : Nat) : Option (Bool × W64) :=
  match arrIx o 0 0x20 4 with
  | some (p, r) =>
    let b := s.npcOf p
    let z (v : W64) : W64 := if partCount s.partMode ≤ p then 0 else v
    match r with
    | 0x00 => some (true, z b.req)
    | 0x08 => some (false, 0)
    | 0x10 => some (false, z (bit b.busy.isSome 31 ||| bit b.overrun 30 ||| fld b.last.toNat 0))
    | _ => none
  | none => none

/-- A write of a translator register (R265). -/
def npcWrite (s : State) (o : Nat) (part : Part) (v : W64) : State :=
  match arrIx o 0 0x20 4 with
  | some (p, 0x00) => s.npcReqWrite p part v
  | some (p, 0x08) => s.npcDoorbell p
  | some (p, 0x10) => if partCount s.partMode ≤ p then s else s.setNpc p { s.npcOf p with overrun := (s.npcOf p).overrun && !v[30] }
  | _ => s

end Sys2Proof.Machine
end

