-- ==== Sys2Proof/Machine/PowerOps.lean ====
section
/-! DEFINITION. Clocks and power (18): operating points, PLL groups, the clock-switch watchdog, tile and device states, power limits, and the
thermal trip of 21. -/

namespace Sys2Proof.Machine

/-- The power block changed. -/
def State.modPwr (s : State) (f : PwrBlk → PwrBlk) : State := { s with pwr := f s.pwr }

/-- Event bit i of PWR_EVT set: 0 limit, 1 opdone, 2 wdog, 3 exc, 4 fast, 5 backstop (R504). -/
def PwrBlk.event (b : PwrBlk) (i : Nat) : PwrBlk := { b with evt := b.evt ||| (1#6 <<< i) }

/-! ### Operating points (R486, R493) -/

/-- A change of operating point goes as far as locks and settle time allow (R493). -/
def PwrBlk.advance (b : PwrBlk) : PwrBlk :=
  let locked := b.pgRun &&& ~~~b.opLocked = 0
  if !b.opBusy then b
  else if b.opTarget < b.opCur then
    if locked && b.opSettled then ({ b with opCur := b.opTarget, opBusy := false }.event 1) else b
  else if locked && !b.opSwitched then { b with opSwitched := true, opSettled := false }
  else if b.opSwitched && b.opSettled then ({ b with opCur := b.opTarget, opBusy := false }.event 1)
  else b

/-- The change goes on; a voltage is commanded when a change to a slower point has switched (R493, R540). -/
def State.opAdvance (s : State) : State :=
  let b := s.pwr.advance
  let s' := { s with pwr := b }
  if b.opSwitched && !s.pwr.opSwitched then s'.emit (.voltage b.opTarget.toNat) else s'

/-- A write of PWR_OP.target (R493). -/
def State.opWrite (s : State) (v : BitVec 2) : State :=
  let b := s.pwr
  let opMax : BitVec 2 := b.limit.extractLsb' 30 2
  let v := if v < opMax then opMax else v
  if b.opBusy then s
  else if v = b.opCur then s.modPwr (fun b => { b with opTarget := v })
  else
    let s := s.modPwr (fun b => { b with opTarget := v, opBusy := true, opLocked := 0, opSettled := false, opSwitched := false })
    let s := if v < b.opCur then s.emit (.voltage v.toNat) else s
    s.opAdvance

/-- A PLL locks (R486, R487, R493): a starting group runs, or the idle PLL of a running group is ready for the change. -/
def State.pllLock (s : State) (g : Nat) : State :=
  let b := s.pwr
  let m : BitVec 16 := 1#16 <<< g
  if b.dev ≠ .noon || s.pin.thermtrip then s
  else if b.pgLock &&& m ≠ 0 then
    s.modPwr (fun b => { b with pgLock := b.pgLock &&& ~~~m, pgRun := b.pgRun ||| m, pgHeld := b.pgHeld &&& ~~~m, opLocked := b.opLocked ||| m })
  else if b.opBusy && b.pgRun &&& m ≠ 0 then (s.modPwr (fun b => { b with opLocked := b.opLocked ||| m })).opAdvance
  else s

/-- A PLL has not locked in time (R486): the group stays as it is. -/
def State.pllTimeout (s : State) (g : Nat) : State :=
  let m : BitVec 16 := 1#16 <<< g
  s.modPwr (fun b => { b.event 2 with pgLock := b.pgLock &&& ~~~m })

/-- PWR_VSETTLE has elapsed in a change (R493). -/
def State.voltageSettle (s : State) : State :=
  if s.pwr.opBusy && (s.pwr.opTarget < s.pwr.opCur || s.pwr.opSwitched) then (s.modPwr (fun b => { b with opSettled := true })).opAdvance
  else s

/-! ### Tile states (R487, R495) -/

/-- The groups of a partition all of whose tiles are in Night are stopped (R487). -/
def State.stopGroups (s : State) (p : Nat) : State :=
  if (List.range 256).all (fun t => partOfTile s.partMode t ≠ p || (s.tile t).power = .night) then
    (groupsOf s.partMode p).foldl (fun s g => s.modPwr (fun b =>
      { b with pgRun := b.pgRun &&& ~~~(1#16 <<< g), pgLock := b.pgLock &&& ~~~(1#16 <<< g) })) s
  else s

/-- PWR_TILEREQ.go (R495): state 0 Noon, 1 Dusk, 2 Night. -/
def State.tileRequest (s : State) (t st : Nat) : State :=
  let x := s.tile t
  let idle := x.seq.st = .halted && tileIdle x
  let refuse := s.modPwr (fun b => { b with reqRefused := true })
  match st with
  | 0 => s.requestNoon t
  | 1 => if x.power ≠ .noon then s else if idle then s.setTile t { x with power := .dusk } else refuse
  | 2 =>
    if x.power ≠ .noon then s
    else if idle && s.pwr.nightok.getLsbD t then (s.setTile t (nightTile x)).stopGroups (partOfTile s.partMode t)
    else refuse
  | _ => s

/-! ### The clock-switch watchdog (R491) -/

/-- A watchdog reset recorded in CLK_WDOG. -/
def PwrBlk.wdog (b : PwrBlk) (d : Nat) : PwrBlk :=
  let b := b.event 2
  let b := { b with wdogCount := satInc b.wdogCount }
  if b.wdogValid then { b with wdogOver := true } else { b with wdogValid := true, wdogDomain := BitVec.ofNat 8 d }

/-- The launches on a tile of a list fault (R491). -/
def State.faultLaunches (s : State) (ts : List Nat) : State :=
  s.stream.hamper.foldl (fun s x => match x.2.run with
    | some (_, .launch _ us _ _) => if us.any ts.contains then s.faultStream x.1 0xA 0 else s
    | _ => s) s

/-- The tiles of a group. -/
def tilesOfGroup (g : Nat) : List Nat := (List.range 256).filter (fun t => groupOf t = g)

/-- The stratus passes of a unit end with ABANDONED, running and queued ones (log entry 46). -/
def State.dropPasses (s : State) (k : Nat) : State :=
  let u := s.unit k
  let ids := (match u.run with | some r => [r.id] | none => []) ++
    u.queue.filterMap (fun j => match j with | .pass id _ _ _ _ => some id | .chunk _ _ => none)
  ids.foldl (fun s id => s.unitDone id k (unitWord k 5 0) true) (s.setUnit k StratBlk.zero)

/-- A clock switch that did not complete (R491): domain 0 to 15 is TCLK of a group, 16 to 27 MCLK of a stack. -/
def State.clockWatchdog (s : State) (d : Nat) : State :=
  let s := s.modPwr (fun b => b.wdog d)
  if d < 16 then
    let ts := tilesOfGroup d
    let s := ts.foldl (fun s t => s.setTile t Tile.reset) s
    let m : BitVec 16 := 1#16 <<< d
    let s := s.modPwr (fun b => { b with pgRun := b.pgRun &&& ~~~m, pgHeld := b.pgHeld ||| m })
    s.faultLaunches ts
  else
    let k := d - 16
    let q := (s.stack k).queue
    let s := s.dropPasses k
    let s := s.setStack k { StkBlk.zero with selfRefresh := true }
    q.foldl (fun s x => s.respond x.req 2 (match x.req.op with | .read n => List.replicate n (0, false) | .write _ => [])) s

/-! ### Power limits (R500 to R503) -/

/-- The limits in force: psus and pexc in watts (R504). -/
def PwrBlk.psus (b : PwrBlk) : Nat := min 3200 (b.limit.toNat % 4096)
/-- The excursion limit. -/
def PwrBlk.pexc (b : PwrBlk) : Nat := min 3600 (b.limit.toNat / 65536 % 4096)

/-- A sample of package power (R500, R501). -/
def PwrBlk.sample (b : PwrBlk) (w : BitVec 12) : PwrBlk :=
  let b := { b with power := w, samples := (w.toNat :: b.samples).take 25 }
  let b := if b.pexc < w.toNat then { b.event 4 with swallow := if b.swallow < 8 then 8 else b.swallow } else b
  if b.psus < w.toNat then { b.event 3 with excRun := true } else { b with excRun := false }

/-- The excursion timer has reached 9 ms (R501). -/
def State.backstop (s : State) : State :=
  if !s.pwr.excRun then s
  else
    let s := s.modPwr (fun b => { b.event 5 with swallow := 12 })
    (List.range 12).foldl (fun s k => s.modStack k (fun b => { b with ceil := 256 })) s

/-- The ceiling of a stack (R341). -/
def ceilOf (b : StkBlk) : Nat := if b.ceil = 0 then 1024 else b.ceil.toNat

/-- The power manager takes the next measure (R503; log entry 47). -/
def State.takeMeasure (s : State) : State :=
  let b := s.pwr
  let m : Measure := ⟨0, b.opCur.toNat, (List.range 12).map (fun k => (s.stack k).ceil.toNat), b.swallow.toNat⟩
  let push (k : Nat) (s : State) : State := s.modPwr (fun b => { b with measures := { m with kind := k } :: b.measures })
  if b.opBusy then s
  else if b.opCur < 3 then (push 0 s).opWrite (b.opCur + 1)
  else if !b.measures.any (·.kind = 1) then
    (List.range 12).foldl (fun s k => s.modStack k (fun b => { b with ceil := BitVec.ofNat 11 (max 1 (ceilOf b / 2)) })) (push 1 s)
  else if b.swallow < 15 then (push 2 s).modPwr (fun b => { b with swallow := b.swallow + 1 })
  else s

/-- The last measure is undone (R503). -/
def State.undoMeasure (s : State) : State :=
  match s.pwr.measures with
  | [] => s
  | m :: l =>
    let s := s.modPwr (fun b => { b with measures := l, sinceUndo := 0 })
    match m.kind with
    | 0 => s.opWrite (BitVec.ofNat 2 m.op)
    | 1 => m.ceils.zipIdx.foldl (fun s x => s.modStack x.2 (fun b => { b with ceil := BitVec.ofNat 11 x.1 })) s
    | _ => s.modPwr (fun b => { b with swallow := BitVec.ofNat 4 m.swallow })

/-- An evaluation of the mean of the last 25 samples (R500, R503). -/
def State.evaluate (s : State) : State :=
  let b := s.pwr
  let n := b.samples.length
  if n = 0 then s
  else
    let sum := b.samples.foldl (· + ·) 0
    let s := s.modPwr (fun b => { b with sinceUndo := min 100000 (b.sinceUndo + 1), hold := b.hold - 1 })
    if b.psus * n < sum then
      (s.modPwr (fun b => { b with below := 0, hold := if b.sinceUndo ≤ 1000 then 10000 else b.hold })).takeMeasure
    else if 100 * sum < 95 * b.psus * n then
      if 99 ≤ b.below && s.pwr.hold = 0 then (s.modPwr (fun b => { b with below := 0 })).undoMeasure
      else s.modPwr (fun b => { b with below := b.below + 1 })
    else s.modPwr (fun b => { b with below := 0 })

/-! ### Device states (R497, R498) -/

/-- The conditions of a device Dusk request (R497, R505). -/
def State.duskOk (s : State) : Bool :=
  s.tiles.all (fun p => p.2.power = .dusk || p.2.power = .night) &&
  !s.stream.hamper.any (fun x => x.2.st = .active || x.2.st = .waiting) &&
  s.cvy.run = [] && (List.range 12).all (fun k => (s.unit k).run.isNone) &&
  s.sdma.all (fun x => x.2.st = .idle) && [1, 2, 3, 4, 5, 6, 7].all (fun n => s.core n = .dusk)

/-- PWR_DEV.dusk (R497). -/
def State.devDusk (s : State) : State :=
  if s.pwr.dev ≠ .noon then s
  else if !s.duskOk then s.modPwr (fun b => { b with devRefused := true })
  else
    let s := (List.range 12).foldl (fun s k => s.modStack k (fun b => { b with selfRefresh := true })) s
    (s.modPwr (fun b => { b with dev := .dusk, pgLock := b.pgRun, pgRun := 0 })).setCore 0 .dusk

/-- A wake event (R497, R498). -/
def State.devWake (s : State) : State := if s.pwr.dev = .dusk then s.modPwr (fun b => { b with dev := .dawn }) else s

/-- Relock and restore are complete (R483, R497). -/
def State.devDawn (s : State) : State :=
  if s.pwr.dev ≠ .dawn || s.pin.waitPgood then s
  else
    let s := (List.range 12).foldl (fun s k => s.modStack k (fun b => { b with selfRefresh := b.halted })) s
    ((s.modPwr (fun b => { b with dev := .noon, pgRun := b.pgRun ||| b.pgLock, pgLock := 0 })).setCore 0 .run).seeLine8

/-! ### Thermal trip and pins (R508, R542, R543) -/

/-- THERMTRIP_N is latched: every group stops, the fabric lanes go idle (R542). -/
def State.trip (s : State) : State :=
  let s := { s with pin := { s.pin with thermtrip := true }, pwr := { s.pwr with pgRun := 0, pgLock := 0 } }
  allPorts.foldl (fun s n => if (s.portOf n.val).st = .up then s.portLost n else s) s

/-- ALERT_N is asserted (R543). -/
def State.alert (s : State) : Bool :=
  (List.range 12).any (fun k => (s.stack k).level ≠ 0) || s.pwr.evt[3] || s.pwr.evt[4] || s.pwr.evt[5] || 105 < s.pin.junction

/-- EVT_IO as an input low under use 4: PWR_SWALLOW is held at 8 or more and fast is set (R508). -/
def State.evtHold (s : State) : State :=
  if s.trc.clmEvt &&& 0xF#32 = 4 && !s.pin.evtIo then
    s.modPwr (fun b => { b.event 4 with swallow := if b.swallow < 8 then 8 else b.swallow })
  else s

/-! ### Registers (R504) -/

/-- A CLK_ register that starts at an offset, and its value; sw_busy reads 0, since a switch is part of one step. -/
def clkRead (s : State) (off : Nat) : Option (Bool × W64) :=
  let b := s.pwr
  match off with
  | 0x00 => some (false, b.pgRun.zeroExtend 64)
  | 0x08 => some (false, bit (s.hubEn 0) 0 ||| bit (s.hubEn 1) 1 ||| bit (s.hubEn 2) 2 ||| bit (s.hubEn 3) 3)
  | 0x10 => some (false, bit b.wdogValid 31 ||| bit b.wdogOver 30 ||| fld b.wdogDomain.toNat 16 ||| fld b.wdogCount.toNat 0)
  | _ => none

/-- A write of CLK_HUBEN (R489): an enable acts at once, a 0 once the block is idle. -/
def State.hubenWrite (s : State) (v : BitVec 4) : State :=
  let now := fun (i : Nat) => v.getLsbD i || (s.hubEn i && s.hubBusy i)
  let en : BitVec 4 := (if now 0 then 1 else 0) ||| (if now 1 then 2 else 0) ||| (if now 2 then 4 else 0) ||| (if now 3 then 8 else 0)
  s.modPwr (fun b => { b with huben := en, hubOff := ~~~v })

/-- A write of a CLK_ register. -/
def clkWrite (s : State) (off : Nat) (v : W64) : State :=
  match off with
  | 0x08 => s.hubenWrite (v.truncate 4)
  | 0x10 => s.modPwr (fun b =>
      { b with wdogValid := b.wdogValid && !v[31], wdogOver := b.wdogOver && !v[31] && !v[30] })
  | _ => s

/-- The code of a power state in PWR_TSTATEw and PWR_DEV. -/
def PowerSt.code : PowerSt → Nat
  | .noon => 0 | .dusk => 1 | .night => 2 | .dawn => 3

/-- A PWR_ register that starts at an offset, and its value. -/
def pwrRead (s : State) (off : Nat) : Option (Bool × W64) :=
  let b := s.pwr
  let r (v : W64) : Option (Bool × W64) := some (false, v)
  match off with
  | 0x00 => r (bit b.opBusy 31 ||| fld b.opCur.toNat 4 ||| fld b.opTarget.toNat 0)
  | 0x04 => r (b.swallow.zeroExtend 64)
  | 0x08 => r (b.limit.zeroExtend 64)
  | 0x0C => r (b.vsettle.zeroExtend 64)
  | 0x10 => r (b.evt.zeroExtend 64)
  | 0x18 => r (b.power.zeroExtend 64)
  | 0x20 => r (bit b.reqRefused 30 ||| fld b.reqState.toNat 24 ||| fld b.reqTile.toNat 0)
  | 0x24 => r (b.idle.zeroExtend 64)
  | 0x28 => r (b.scdusk.zeroExtend 64)
  | 0x30 => r (bit b.devRefused 30 ||| fld (if b.dev = .night then 0 else b.dev.code) 0)
  | _ =>
    match arrIx off 0x100 4 16, arrIx off 0x200 4 8 with
    | some (w, 0), _ => r (BitVec.ofNat 64 ((List.range 16).foldl (fun n i => n + (s.tile (16 * w + i)).power.code * 4 ^ i) 0))
    | _, some (w, 0) => r ((b.nightok.extractLsb' (32 * w) 32).zeroExtend 64)
    | _, _ => none

/-- A write of PWR_LIMIT by the Lookout (R504). -/
def State.limitWrite (s : State) (v : W32) : State :=
  let new := v &&& 0xCFFF0FFF#32
  s.modPwr (fun b => if new = b.limit then b else { b with limit := new }.event 0)

/-- A write of a PWR_ register; `lookout`: the writer is the Lookout, `sc0`: it is SC0. -/
def pwrWrite (s : State) (lookout sc0 : Bool) (off : Nat) (v : W64) : State :=
  match off with
  | 0x00 => s.opWrite (v.truncate 2)
  | 0x04 =>
    let hold := s.trc.clmEvt &&& 0xF#32 = 4 && !s.pin.evtIo
    s.modPwr (fun b => { b with swallow := if hold && v.truncate 4 < (8 : BitVec 4) then 8 else v.truncate 4 })
  | 0x08 => if lookout then s.limitWrite (v.truncate 32) else s
  | 0x0C => s.modPwr (fun b => { b with vsettle := v.truncate 16 })
  | 0x10 => s.modPwr (fun b => { b with evt := b.evt &&& ~~~(v.truncate 6) })
  | 0x20 =>
    let s := s.modPwr (fun b => { b with reqRefused := b.reqRefused && !v[30], reqState := v.extractLsb' 24 2, reqTile := v.truncate 8 })
    if v[31] then s.tileRequest (v.toNat % 256) (v.toNat / 2 ^ 24 % 4) else s
  | 0x24 => s.modPwr (fun b => { b with idle := v.truncate 16 })
  | 0x28 => s.modPwr (fun b => { b with scdusk := v.truncate 8 &&& 0xFE#8 })
  | 0x30 =>
    let s := s.modPwr (fun b => { b with devRefused := b.devRefused && !v[30] })
    if v[31] && sc0 then s.devDusk else s
  | _ =>
    match arrIx off 0x200 4 8 with
    | some (w, 0) => s.modPwr (fun b =>
        { b with nightok := (b.nightok &&& ~~~((0xFFFFFFFF#256) <<< (32 * w))) ||| ((v &&& 0xFFFFFFFF#64).zeroExtend 256 <<< (32 * w)) })
    | _ => s

end Sys2Proof.Machine
end

