-- ==== Sys2Proof/Machine/ResetOps.lean ====
section
/-! DEFINITION. Resets, start-up and errors (20), the Lookout's work (16), and the host link (15): what each event does to the whole
device. -/

namespace Sys2Proof.Machine

/-! ### The host link (R425 to R428, R439, R525) -/

/-- The PCIe link goes down (R428, R439, R463): waiting requests complete with GATED, the SPDM session ends. -/
def State.linkDown (s : State) : State :=
  if !s.pci.up then s
  else
    let q := s.pci.hostReqs
    let s := { s with pci := { s.pci with up := false, width := 0, rate := 0, hostReqs := [] } }
    let s := q.foldl (fun s x => s.respond x.2 2 (List.replicate (opLen x.2.op) (0, false))) s
    s.endSession.latch 16

/-- The link comes up (R422, R525). -/
def State.linkUp (s : State) (w r : BitVec 4) : State :=
  if s.pci.up || !s.pci.released || !s.pin.perst || s.pwr.dev = .night then s
  else ({ s with pci := { s.pci with up := true, width := w, rate := r } }).latch 16

/-- A host request's completion (R428): data, or an error. -/
def State.hostAnswer (s : State) (id : Nat) (ok : Bool) (d : List PByte) : State :=
  match s.pci.hostReqs.find? (·.1 = id) with
  | none => s
  | some (_, r) =>
    let n := opLen r.op
    let s := { s with pci := { s.pci with hostReqs := s.pci.hostReqs.filter (·.1 ≠ id) } }
    if ok then
      let d := (d ++ List.replicate n (0, false)).take n
      s.respond r (if anyPois d then 5 else 0) d
    else s.respond r 2 (List.replicate n (0, false))

/-- A note for FAULTLOG that is no stack record (R469, R526; 21): 1 stack training, 2 PGOOD, 3 reference clock, 4 SC0, 5 host lost,
6 boot failure. -/
def State.note (s : State) (kind arg : Nat) : State := { s with lko := { s.lko with notes := s.lko.notes ++ [(kind, arg)] } }

/-- The streams whose table entries are not CLOSED: those in the hamper, and those whose state byte in the table is not 0. -/
def State.openStreams (s : State) : List Nat :=
  let tab := s.mem.filterMap (fun c =>
    let o := c.1 - s.stream.tbase.toNat
    if s.stream.tbase.toNat ≤ c.1 && o < 2 ^ 21 && o % 256 = 1 && !s.inHamper (o / 256) then some (o / 256) else none)
  ((s.stream.hamper.filter (fun x => x.2.st ≠ .closed)).map (·.1)) ++ tab

/-- Whether a stream depends on the host (R439). -/
def StreamEnt.onHost (e : StreamEnt) : Bool :=
  isHost e.ring.toNat || isHost e.cplad.toNat ||
  (match e.run with
    | some (c, .copy _) => isHost (cmdAt c 8 8) || isHost (cmdAt c 16 8)
    | some (_, .crypt _ _ _ _) => true
    | _ => false)

/-- HOST_LOST (R439). -/
def State.hostLost (s : State) : State :=
  if s.pci.up then s
  else
    let s := ({ s with pci := { s.pci with lost := true } }).latch 16
    let s := s.openStreams.foldl (fun s i =>
      let e := s.entry i
      if e.st ≠ .closed && e.st ≠ .faulted && e.onHost then
        (match s.fetchEntry i with | some t => t.faultStream i 0xD 0 | none => s)
      else s) s
    s.note 5 0

/-- PERST_N (R439, R520): the endpoint and its configuration space are reset, the session ends. -/
def State.perstAssert (s : State) : State :=
  let s := s.linkDown
  let released := s.pci.released
  { s with pci := { released := released, nextReq := s.pci.nextReq }, pin := { s.pin with perst := false } }

/-- A PCI_ register or a word of the MSI-X structures that starts at an offset, and its value (R427, R438). -/
def pciRead (s : State) (off : Nat) : Option (Bool × W64) :=
  let b := s.pci
  match off with
  | 0x00 => some (true, b.b2base)
  | 0x08 => some (false, b.b2part.zeroExtend 64)
  | 0x10 => some (false, b.cto.zeroExtend 64)
  | 0x14 => some (false, b.lostTmo.zeroExtend 64)
  | 0x18 => some (false, bit b.up 31 ||| bit b.lost 30 ||| fld b.width.toNat 4 ||| fld b.rate.toNat 0)
  | 0x1C => some (false, fld b.bar2err.toNat 16 ||| fld b.bar0err.toNat 0)
  | _ =>
    match arrIx off 0x8000 4 8192, arrIx off 0x10000 4 64 with
    | some (i, 0), _ => some (false, (tget 0 b.msix i).zeroExtend 64)
    | _, some (w, 0) => some (false, BitVec.ofNat 64 ((List.range 32).foldl (fun n i => if tget false b.msixPend (32 * w + i) then n + 2 ^ i else n) 0))
    | _, _ => none

/-- A write of word i of the MSI-X table (R427): clearing a mask sends a pending message. -/
def State.msixWrite (s : State) (i : Nat) (v : W32) : State :=
  let vec := i / 4
  let s := { s with pci := { s.pci with msix := tset 0 s.pci.msix i v } }
  if i % 4 = 3 && !v[0] && tget false s.pci.msixPend vec && s.pci.up then
    ({ s with pci := { s.pci with msixPend := tset false s.pci.msixPend vec false } }).sendMsix vec
  else s

/-- A write of a PCI_ register. -/
def pciWrite (s : State) (off : Nat) (p : Part) (v : W64) : State :=
  let b := s.pci
  match off with
  | 0x00 => { s with pci := { b with b2base := p.merge b.b2base v &&& 0x1FF00000000#64 } }
  | 0x08 => { s with pci := { b with b2part := v.truncate 2 } }
  | 0x10 => { s with pci := { b with cto := v.truncate 32 } }
  | 0x14 => { s with pci := { b with lostTmo := v.truncate 32 } }
  | 0x18 => { s with pci := { b with lost := b.lost && !v[30] } }
  | _ =>
    match arrIx off 0x8000 4 8192 with
    | some (i, 0) => s.msixWrite i (v.truncate 32)
    | _ => s

/-! ### Hub start-up and machine-check registers (R524, R529, R530) -/

/-- A hub register below 0x400 that starts at an offset, and its value. -/
def hubRead0 (s : State) (off : Nat) : Option (Bool × W64) :=
  let b := s.hub
  match off with
  | 0x10 => some (false, (caps0 s.fx).zeroExtend 64)
  | 0x14 => some (false, (caps1 s.fx).zeroExtend 64)
  | 0x20 => some (false, s.pin.strap.zeroExtend 64)
  | 0x100 => some (false, s.trc.clmEvt.zeroExtend 64)
  | 0x104 => some (false, s.trc.clmTrc.zeroExtend 64)
  | 0x200 => some (false, bit b.ready 31 ||| fld b.stkOk.toNat 16 ||| fld b.cause.toNat 8 ||| fld b.phase.toNat 0)
  | 0x208 => some (false, bit b.mcValid 31 ||| bit b.mcOver 30 ||| fld b.mcCore.toNat 24 ||| fld b.mcCode.toNat 16 ||| fld b.mcFlags.toNat 0)
  | 0x210 => some (true, b.mcAddr)
  | _ =>
    match arrIx off 0x240 8 8 with
    | some (n, 0) => some (false, (tget 0xF4240#32 b.scwd n).zeroExtend 64 ||| bit (s.core n = .held) 29)
    | _ => none

/-- A service core stops and is held in reset (R529, R530); the Lookout hears of a failure of SC0 (R532). -/
def State.holdCore (s : State) (n : Nat) : State :=
  let s := s.setCore n .held
  if n = 0 then s.note 4 0 else s

/-- HUB_SCWDn.release (R530): from another service core, for a held core other than SC0. -/
def State.releaseCore (s : State) (a : Agent) (n : Nat) : State :=
  let other := match a with | .sc m => m.val ≠ n | _ => false
  if n ≠ 0 && other && s.core n = .held then s.setCore n .run else s

/-- A write of HUB_SCWDn (R530). -/
def State.scwdWrite (s : State) (a : Agent) (n : Nat) (v : W32) : State :=
  let s := { s with hub := { s.hub with scwd := tset 0xF4240#32 s.hub.scwd n (v &&& 0x40FFFFFF#32) } }
  if v[28] then s.releaseCore a n else s

/-- A write of a hub register below 0x400. -/
def hubWrite0 (s : State) (a : Agent) (off : Nat) (v : W64) : State :=
  let g := s.tagOf a
  match off with
  | 0x100 => (s.claimEvt g (v.truncate 32)).evtHold
  | 0x104 => s.claimTrc g (v.truncate 32)
  | 0x208 =>
    { s with hub := { s.hub with
      mcValid := s.hub.mcValid && !v[31], mcOver := s.hub.mcOver && !v[31] && !v[30], mcFlags := s.hub.mcFlags &&& ~~~(v.truncate 6) } }
  | _ =>
    match arrIx off 0x240 8 8 with
    | some (n, 0) => s.scwdWrite a n (v.truncate 32)
    | _ => s

/-! ### Start-up (R442 to R446, R460, R524 to R527) -/

/-- The boot ROM finds no image that runs (R444): nothing is released. -/
def State.bootFailed (s : State) (a b : Nat) : State :=
  let s := { s with
    sec := { s.sec with bootDone := false, failA := BitVec.ofNat 8 a, failB := BitVec.ofNat 8 b }
    lko := { s.lko with bootFail := true } }
  s.note 6 0

/-- Phase 1 (R443, R444, R446, R460): the images, the measurements (only after PORST_N; log entry 48), the releases; `none`: the boot
failed. -/
def State.bootRom (s : State) (fresh : Bool) : Except State State :=
  let x := s.tryImage 2
  let y := s.tryImage 3
  if x.2.1 ≠ 0 then .error (s.bootFailed x.1 x.2.1)
  else if y.2.1 ≠ 0 then .error (s.bootFailed y.1 y.2.1)
  else
    let img := s.storeImage 2 x.2.2
    let s := { s with sec := { s.sec with
      bootDone := true, bootSlot := x.2.2, failA := BitVec.ofNat 8 x.1, failB := 0, isvn := BitVec.ofNat 8 (imgAt img 8 4)
      conf := s.sec.confAo, entRun := true } }
    let s := if !fresh then s else
      let d (k : Nat) : BitVec 384 := Config.sha384 ((s.storeImage k (s.tryImage k).2.2).take 264)
      let s0 := s.extend 0 (Config.sha384 Config.romBytes)
      let s1 := s0.extend 1 (d 1)
      let s2 := s1.extend 2 (d 2)
      let s3 := s2.extend 3 (d 3)
      s3.extend 4 (Config.sha384 s3.bootBytes)
    let s := { s with pci := { s.pci with released := true } }
    .ok ([0, 1, 2, 3, 4, 5, 6, 7].foldl (fun s n => s.setCore n .run) s)

/-- Phase 3 for stack k (R334, R338, R349, R524, R526): the Lookout's entries are written back and the stack is ready, or it failed to
train. -/
def State.startStack (s : State) (ok : BitVec 12) (k : Nat) : State :=
  if !ok.getLsbD k then (s.setStack k StkBlk.zero).note 1 k
  else
    let b := ((s.lko.remaps.filter (·.1 = k)).map (·.2)).foldl (fun b v => b.rmLoad s.draws v) { StkBlk.zero with ready := false }
    let b := ((s.lko.pages.filter (·.1 = k)).map (fun x => x.2.zeroExtend 32)).foldl (fun b p => b.retire k p) b
    s.setStack k { b with ready := true }

/-- Start-up from phase 1 on (R524): `fresh` after PORST_N, else from Night, with its cause. -/
def State.startUp (s : State) (fresh : Bool) (cause : BitVec 4) : State :=
  let s := { s with hub := { s.hub with cause := cause, phase := 1, ready := false } }
  match s.bootRom fresh with
  | .error t => t
  | .ok s =>
    let ok := s.pin.stackOk
    let s := s.modPwr (fun b => { b with huben := 0xF, hubOff := 0, dev := .noon })
    let s := { s with mem := [], memPois := [] }
    let s := (List.range 12).foldl (fun s k => s.startStack ok k) s
    let s := { s with
      stream := { s.stream with tbase := Config.streamBase &&& 0x1FFFFE00000#64 }
      hub := { s.hub with ready := true, phase := 5, stkOk := ok }
      cvy := { s.cvy with devid := s.lko.cfgDevid } }
    allPorts.foldl (fun s n =>
      if s.lko.cfgPorts.getLsbD n.val && s.portHere n.val then
        (s.setPort n.val { s.portOf n.val with st := .train, en := true }).latch n.val
      else s) s

/-! ### Resets (R520, R522, R523, R532; 21, Reference clocks) -/

/-- The block under PORST_N: everything at reset but the fuses, the Lookout's store, the pins' levels, and the model's own queue, messages and
counters (R520, R522). -/
def State.underPorst (s : State) : State :=
  { State.reset with
    pending := s.pending, fx := s.fx, outbox := s.outbox, draws := s.draws, drawsEnt := s.drawsEnt
    sec := { svnUp := s.sec.svnUp, erevSet := s.sec.erevSet, lrevSet := s.sec.lrevSet }
    lko := { s.lko with up := false, mbox := 0, held := [], tls := 0, bootFail := false }
    pin := { s.pin with thermtrip := false, strap := 0, pwren := true, waitPgood := false } }

/-- Start-up once PORST_N is high and AO_CLK runs (R450, R451, R521, R524): straps, nonce, debug state, fuses, then phase 1. -/
def State.powerUp (s : State) : State :=
  if !s.pin.porst || s.pin.aoLost then s
  else
    let nonce := Config.entropy s.drawsEnt
    let jtag := s.free[0]
    let s : State := s.drawn 1
    let s : State := { s with
      drawsEnt := s.drawsEnt + 1
      pin := { s.pin with jtag := jtag }
      sec := { s.sec with dbgNonce := nonce, debugOpen := !dbgLock || s.lko.token }
      lko := { s.lko with
        token := false, up := s.pin.lkoRst
        images := s.lko.staged.foldl (fun (m : Tab (List Byte)) (x : Nat × List Byte) => tset [] m x.1 x.2) s.lko.images, staged := [] } }
    if !s.pin.fuseOk then (s.bootFailed 9 0)
    else if (s.tryImage 1).2.1 ≠ 0 then
      let t := s.startUp true 0
      { t with lko := { t.lko with up := false, bootFail := true } }
    else s.startUp true 0

/-- The device enters Night (R460, R483, R495, R497; 21): everything outside the always-on domain is lost. -/
def State.enterNight (s : State) : State :=
  let s := s.linkDown
  { State.reset with
    pending := s.pending, fx := s.fx, partMode := s.partMode, outbox := s.outbox, draws := s.draws, drawsEnt := s.drawsEnt
    nextSerial := s.nextSerial
    sec := { svnUp := s.sec.svnUp, erevSet := s.sec.erevSet, lrevSet := s.sec.lrevSet, dbgNonce := s.sec.dbgNonce
             debugOpen := s.sec.debugOpen, confAo := s.sec.confAo, meas := s.sec.meas, reportSeq := s.sec.reportSeq
             entBad := s.sec.entBad, entFail := s.sec.entFail, sessionNo := s.sec.sessionNo }
    lko := s.lko
    pwr := { s.pwr with
      dev := .night, pgRun := 0, pgLock := 0, pgHeld := 0, opBusy := false, opCur := 3, opTarget := 3, huben := 0, hubOff := 0, excRun := false }
    pin := { s.pin with pwren := false, waitPgood := false }
    pci := { nextReq := s.pci.nextReq } }

/-! ### The Lookout (R440, R467 to R470) -/

/-- An answer of the Lookout on a management path. -/
def State.mgmt (s : State) (p : MgmtPath) (ok : Bool) (d : List Byte) : State := s.emit (.mgmt p ok d)

/-- Whether the Lookout takes an operation on a path (R469): it runs, the path carries the operation, and TLS has a session. -/
def State.mgmtOk (s : State) (p : MgmtPath) (mctp : Bool) : Bool :=
  s.lko.up && (match p with | .tls => decide (0 < s.lko.tls) | .mctp => mctp)

/-- A request word of LKO_MBOX is served (R334, R440; the word's layout is that of log entry 49): bit 63 set, a remap entry of the stack in
bits 59:56; clear, a page number. -/
def State.persist (s : State) (v : W64) : State :=
  if v[63] then
    { s with lko := { s.lko with remaps := s.lko.remaps ++ [(v.toNat / 2 ^ 56 % 16, rmapWord (v.toNat / 2 ^ 32 % 4) (v.toNat % 2 ^ 32))] } }
  else { s with lko := { s.lko with pages := s.lko.pages ++ [(v.toNat / 2 ^ 21 % 16, v.truncate 25)] } }

/-- A write of LKO_MBOX by a service core (R440, R523): served, or held while the Lookout is in reset. -/
def State.mailbox (s : State) (v : W64) : State :=
  if s.lko.up then ({ s with lko := { s.lko with mbox := v } }).persist v
  else { s with lko := { s.lko with held := s.lko.held ++ [v] } }

/-- An LKO_ register that starts at an offset, and its value (R471). -/
def lkoRead (s : State) (off : Nat) : Option (Bool × W64) :=
  match off with
  | 0x00 => some (false, bit s.lko.bootFail 31 ||| fld (s.lko.tls % 8) 3 ||| fld (s.lko.anchors.length % 8) 0)
  | 0x10 => some (true, s.lko.mbox)
  | _ => none

/-- The stacks and tiles of die d change owner under a layout change (R457). -/
def dieMoves (old new d : Nat) : Bool := partOfDie old d ≠ partOfDie new d

/-- Whether firmware refuses a layout change (R457): a context exists in a partition that gives up tiles or stacks. -/
def State.layoutRefused (s : State) (new : Nat) : Bool :=
  [0, 1, 2, 3].any (fun d => dieMoves s.partMode new d && (List.range 16).any (s.ctxExists (partOfDie s.partMode d)))

/-- The partition layout changes (R457): tiles and stacks that change owner are cleared, slot 5 is extended. -/
def State.setLayout (s : State) (new : Nat) : State :=
  let old := s.partMode
  let moved (a : Nat) : Bool := dieMoves old new (a / 2 ^ 37 / 3)
  let s := (List.range 256).foldl (fun s t => if dieMoves old new (dieOf t) then s.modTile t clearTile else s) s
  let s := { s with
    partMode := new
    mem := s.mem.filter (fun c => !moved c.1)
    memPois := s.memPois.filter (fun c => !moved (32 * c.1)) }
  s.extend 5 (Config.sha384 s.modeBytes)

end Sys2Proof.Machine
end

