-- ==== Sys2Proof/Machine/HubRegs.lean ====
section
/-! DEFINITION. The hub register range: the STK_, STRAT_ and CVY_ blocks (11, 12, 14), the map of the blocks, who may reach them, and an
access by any agent to any register of the device (R319, R440, R482, R489, R504, R547). -/

namespace Sys2Proof.Machine

/-! ### STK_ (R350) -/

/-- An STK_ register of stack k that starts at an offset, and its value. -/
def stkRead (s : State) (k off : Nat) : Option (Bool × W64) :=
  let b := s.stack k
  let r (v : W64) : Option (Bool × W64) := some (false, v)
  match off with
  | 0x00 => r (bit b.scrubEn 30)
  | 0x04 => r (bit b.ready 31 ||| bit b.halted 30 ||| fld b.level.toNat 28)
  | 0x10 => r (b.thr.zeroExtend 64)
  | 0x14 => r (b.temp.zeroExtend 64)
  | 0x18 => r (match b.tmax with | some v => v.zeroExtend 64 | none => 0)
  | 0x40 => r (b.ceil.zeroExtend 64)
  | 0x50 => r (b.scrub.zeroExtend 64)
  | 0x58 => some (true, b.scrubPos.zeroExtend 64)
  | 0x60 => r (b.cecnt.zeroExtend 64)
  | 0x64 => r (b.uecnt.zeroExtend 64)
  | 0x68 => r (b.cethr.zeroExtend 64)
  | 0x6C => r (BitVec.ofNat 64 b.rmap.length)
  | 0x70 => some (true, 0)
  | 0x80 => r (BitVec.ofNat 64 b.flt.length)
  | 0x84 => r 0
  | 0x88 => r (fld b.lostRet.toNat 16 ||| fld b.lostOther.toNat 0)
  | 0x100 => r 0
  | 0x104 => r (bit b.retFull 31 ||| bit b.retBad 30 ||| fld b.ret.length 0)
  | _ =>
    match arrIx off 0x20 4 5, arrIx off 0xC0 8 8, arrIx off 0x1000 8 1024, arrIx off 0x4000 4 4096 with
    | some (c, 0), _, _, _ => r ((tget 0 b.reg c).zeroExtend 64)
    | _, some (n, 0), _, _ =>
      some (true, match b.flt with
        | f :: _ => BitVec.ofNat 64 (leNat (((f.bytes k).drop (8 * n)).take 8))
        | [] => 0)
    | _, _, some (e, 0), _ => some (true, tget 0 b.rmap e)
    | _, _, _, some (e, 0) => r (match b.ret[e]? with | some p => bit true 31 ||| p.zeroExtend 64 | none => 0)
    | _, _, _, _ => none

/-- What a read of an STK_ register clears. -/
def StkBlk.rc (b : StkBlk) (off : Nat) : StkBlk :=
  match off with
  | 0x18 => { b with tmax := none }
  | 0x60 => { b with cecnt := 0 }
  | 0x64 => { b with uecnt := 0 }
  | 0x88 => { b with lostRet := 0, lostOther := 0 }
  | _ => b

/-- Whether an agent's writes of STK_RETADD count: the service cores and the host through BAR 0 (R338). -/
def mayRetire : Agent → Bool
  | .sc _ | .bar0 => true
  | _ => false

/-- A record that a service core takes from the queue reaches the Lookout's fault log (R533; log entry 51). -/
def State.passRecord (s : State) (a : Agent) (k : Nat) (r : Option FltRec) : State :=
  match a, r with
  | .sc _, some r => if s.lko.up then { s with lko := { s.lko with faultlog := s.lko.faultlog ++ [(k, r)] } } else s
  | _, _ => s

/-- A write of an STK_ register of stack k (R329, R334, R335, R338, R346, R347, R350). -/
def stkWrite (s : State) (a : Agent) (k off : Nat) (p : Part) (v : W64) : State :=
  let b := s.stack k
  let w : W32 := v.truncate 32
  let put (x : StkBlk) : State := s.setStack k x
  match off with
  | 0x00 =>
    let s := put { b with scrubEn := v[30] }
    if v[31] then s.stackResume k else s
  | 0x10 => put (b.thrWrite w)
  | 0x40 => put { b with ceil := v.truncate 11 }
  | 0x50 => put { b with scrub := w }
  | 0x68 => put { b with cethr := v.truncate 4 }
  | 0x70 => put (b.rmLoad s.draws (p.merge 0 v))
  | 0x84 => if v[0] then (put { b with flt := b.flt.drop 1 }).passRecord a k b.flt.head? else s
  | 0x100 => if mayRetire a then put (b.retire k w) else s
  | 0x104 => put { b with retFull := b.retFull && !v[31], retBad := b.retBad && !v[30] }
  | _ =>
    match arrIx off 0x20 4 5 with
    | some (c, 0) => put { b with reg := tset 0 b.reg c (w &&& 0x03FF03FF#32) }
    | _ => s

/-! ### STRAT_ (R376) -/

/-- A STRAT_ register of unit k that starts at an offset, and its value. -/
def stratRead (s : State) (k off : Nat) : Option (Bool × W64) :=
  let u := s.unit k
  match off with
  | 0x00 => some (false, bit u.reseedBusy 31 ||| bit u.fixed 1)
  | 0x04 => some (false, bit u.run.isSome 31 ||| bit (u.run.isSome && u.phase2) 30 ||| fld (min 32 u.queue.length) 16 |||
      fld u.ctx.toNat 12 ||| fld u.group.toNat 0)
  | 0x10 => some (true, bit u.phase2 63 ||| u.prog.zeroExtend 64)
  | 0x18 => some (false, u.last.zeroExtend 64)
  | 0x20 => some (true, u.seed)
  | 0x30 => some (false, u.errcnt.zeroExtend 64)
  | _ =>
    match arrIx off 0x100 0x10 16 with
    | some (c, 0) => some (true, tget 0 u.gtBase c)
    | some (c, 8) => some (false, (tget 0 u.gtCnt c).zeroExtend 64)
    | _ => none

/-- The generator of unit k reloaded (R359): from the fixed seed, or from the entropy source. -/
def State.stratReseed (s : State) (k : Nat) (fixed : Bool) : State :=
  let u := s.unit k
  let x := if fixed then rngMix (u.seed + 0x9E3779B97F4A7C15#64) else Config.entropy s.drawsEnt
  let s := s.setUnit k { u with fixed := fixed, rng := rngNonzero x, reseedBusy := true }
  if fixed then s else { s with drawsEnt := s.drawsEnt + 1 }

/-- A write of a STRAT_ register of unit k (R352, R359, R376): state and status. -/
def stratWrite (s : State) (g : Tag) (k off : Nat) (p : Part) (v : W64) : State × Nat :=
  let u := s.unit k
  match off with
  | 0x00 =>
    if v[0] then (if u.run.isSome then (s, 4) else (s.stratReseed k v[1], 0))
    else (s.setUnit k { u with fixed := v[1] }, 0)
  | 0x20 => (s.setUnit k { u with seed := p.merge u.seed v }, 0)
  | _ =>
    if !g.fw then (s, 0)
    else match arrIx off 0x100 0x10 16 with
      | some (c, 0) => (s.setUnit k { u with gtBase := tset 0 u.gtBase c (p.merge (tget 0 u.gtBase c) v &&& 0x1FFFFFFF000#64) }, 0)
      | some (c, 8) => (s.setUnit k { u with gtCnt := tset 0 u.gtCnt c (v.truncate 32) }, 0)
      | _ => (s, 0)

/-! ### CVY_ (R398, R420) -/

/-- The code of a port state. -/
def PortSt.code : PortSt → Nat
  | .down => 0 | .train => 1 | .up => 2 | .lost => 3

/-- A CVY_ register that starts at an offset, and its value. -/
def cvyRead (s : State) (off : Nat) : Option (Bool × W64) :=
  let c := s.cvy
  match off with
  | 0x00 => some (false, c.timeout.zeroExtend 64)
  | 0x04 => some (false, c.devid.zeroExtend 64)
  | 0x08 => some (false, fld c.stale.toNat 24 ||| fld c.slow.toNat 16 ||| fld (c.queue.length % 256) 8 ||| fld (c.run.length % 16) 0)
  | _ =>
    match arrIx off 0x100 0x10 12, arrIx off 0x200 0x10 16 with
    | some (n, r), _ =>
      let p := s.portOf n
      match r with
      | 0 => some (false, bit p.en 0)
      | 4 => some (false, fld p.st.code 29 ||| bit p.trainFail 28 ||| fld p.missed.toNat 24 ||| fld p.peerPort.toNat 20 ||| fld p.peerId.toNat 0)
      | 8 => some (false, fld p.replays.toNat 16 ||| fld p.crcErr.toNat 0)
      | _ => none
    | _, some (x, r) =>
      match r with
      | 0 => some (true, tget 0 c.gtBase x)
      | 8 => some (false, (tget 0 c.gtCnt x).zeroExtend 64)
      | _ => none
    | _, _ => none

/-- What a read of a CVY_ register clears. -/
def cvyRc (s : State) (off : Nat) : State :=
  if off = 8 then { s with cvy := { s.cvy with stale := 0, slow := 0 } }
  else match arrIx off 0x100 0x10 12 with
    | some (n, 8) => s.setPort n { s.portOf n with replays := 0, crcErr := 0 }
    | _ => s

/-- The port as it enters TRAIN or DOWN (R398): nothing in flight, sequence numbers at 0. -/
def PortBlk.fresh (p : PortBlk) (st : PortSt) : PortBlk :=
  { PortBlk.zero with st := st, en := p.en, trainFail := p.trainFail, peerPort := p.peerPort, peerId := p.peerId, replays := p.replays, crcErr := p.crcErr }

/-- A write of CVY_PORTCTLn (R398, R421): en 0 takes the port down, en 1 trains a port that is down, retrain one that is lost. -/
def State.portCtl (s : State) (n : Nat) (en retrain : Bool) : State :=
  let p := { s.portOf n with en := en }
  if !en then
    if p.st = .down then s.setPort n p else (s.setPort n (p.fresh .down)).latch n
  else if p.st = .down || (retrain && p.st = .lost) then (s.setPort n (p.fresh .train)).latch n
  else s.setPort n p

/-- A write of a CVY_ register (R401, R420). -/
def cvyWrite (s : State) (g : Tag) (off : Nat) (p : Part) (v : W64) : State :=
  let c := s.cvy
  match off with
  | 0x00 => { s with cvy := { c with timeout := v.truncate 14 } }
  | 0x04 => if g.fw then { s with cvy := { c with devid := v.truncate 16 } } else s
  | _ =>
    match arrIx off 0x100 0x10 12, arrIx off 0x200 0x10 16 with
    | some (n, 0), _ => s.portCtl n v[0] v[1]
    | some (n, 4), _ => s.setPort n { s.portOf n with trainFail := (s.portOf n).trainFail && !v[28] }
    | _, some (x, 0) =>
      if g.fw then { s with cvy := { c with gtBase := tset 0 c.gtBase x (p.merge (tget 0 c.gtBase x) v &&& 0x1FFFFFFF000#64) } } else s
    | _, some (x, 8) => if g.fw then { s with cvy := { c with gtCnt := tset 0 c.gtCnt x (v.truncate 32) } } else s
    | _, _ => s

/-! ### The map of the hub range (R350, R376, R393, R420, R438, R471, R482, R504, R519) -/

/-- The register blocks of the hub. -/
inductive HubBlock where
  | hub | stash | npc | trc | sdma | window | stk (k : Nat) | strat (k : Nat) | cvy | stream | pci | sec | lko | icu | clk | pwr
  deriving DecidableEq, Repr

/-- The block that holds a hub offset, with the offset in it. -/
def hubBlock (o : Nat) : Option (HubBlock × Nat) :=
  if o < 0x40000 then some (.hub, o)
  else if o < 0x50000 then some (.stash, o - 0x40000)
  else if o < 0x60000 then some (.npc, o - 0x50000)
  else if o < 0x70000 then some (.trc, o - 0x60000)
  else if o < 0x100000 then none
  else if o < 0x200000 then some (.sdma, o - 0x100000)
  else if o < 0x300000 then some (.window, o - 0x200000)
  else if o < 0x2000000 then none
  else if o < 0x2C00000 then
    let k := (o - 0x2000000) / 0x100000
    let r := o % 0x100000
    if r < 0x80000 then some (.stk k, r) else some (.strat k, r - 0x80000)
  else if o < 0x3000000 then none
  else if o < 0x3800000 then some (.cvy, o - 0x3000000)
  else if o < 0x3900000 then some (.stream, o - 0x3800000)
  else if o < 0x4000000 then some (.pci, o - 0x3900000)
  else if o < 0x4800000 then some (.sec, o - 0x4000000)
  else if o < 0x5000000 then some (.lko, o - 0x4800000)
  else if o < 0x5800000 then some (.icu, o - 0x5000000)
  else if o < 0x6000000 then some (.clk, o - 0x5800000)
  else some (.pwr, o - 0x6000000)

/-- The register of a block that starts at an offset: whether it is 64 bits wide, and its value. `a`: the reader (R509). -/
def blockRead (s : State) (a : Agent) (b : HubBlock) (o : Nat) : Option (Bool × W64) :=
  match b with
  | .hub => hubRead0 s o
  | .stash => stashRead s o
  | .npc => npcRead s o
  | .trc => trcRead s o
  | .sdma => sdmaRead s o
  | .window =>
    if o % 8 ≠ 0 then none
    else if s.sec.conf && a = .lookout then some (true, 0)
    else some (true, (tget 0 s.trc.buf (o / 16)).extractLsb' (8 * (o % 16)) 64)
  | .stk k => stkRead s k o
  | .strat k => stratRead s k o
  | .cvy => cvyRead s o
  | .stream => streamRead s o
  | .pci =>
    if o = 0x20000 then some (false, BitVec.ofNat 64 (s.winner 8))
    else if o = 0x20004 then some (false, 0)
    else pciRead s o
  | .sec => secRead s o
  | .lko => lkoRead s o
  | .icu => icuRead s o
  | .clk => clkRead s o
  | .pwr => pwrRead s o

/-- What a read of a register clears or claims (R11, R476). -/
def blockRc (s : State) (b : HubBlock) (o : Nat) : State :=
  match b with
  | .trc => if o = 8 then { s with trc := { s.trc with xctx := 0, full := 0 } } else s
  | .stk k => s.setStack k ((s.stack k).rc o)
  | .strat k => if o = 0x30 then s.setUnit k { s.unit k with errcnt := 0 } else s
  | .cvy => cvyRc s o
  | .stream => if o = 0x18 then { s with stream := { s.stream with dbClosed := 0 } } else s
  | .pci =>
    if o = 0x1C then { s with pci := { s.pci with bar0err := 0, bar2err := 0 } }
    else if o = 0x20000 then (s.icuClaim 8).2.seeLine8 else s
  | .icu => icuRc s o
  | .clk => if o = 0x10 then s.modPwr (fun b => { b with wdogCount := 0 }) else s
  | _ => s

/-- A write of a register of a block: state and status. -/
def blockWrite (s : State) (a : Agent) (b : HubBlock) (o : Nat) (p : Part) (v : W64) : State × Nat :=
  let g := s.tagOf a
  match b with
  | .hub => (hubWrite0 s a o v, 0)
  | .stash => (stashWrite s g o p v, 0)
  | .npc => (npcWrite s o p v, 0)
  | .trc =>
    if o = 0 then (s.trcCtl (v.truncate 32), 0)
    else match arrIx o 0x100 0x10 8 with
      | some (n, 0) => (s.hubPhase ⟨n % 8, Nat.mod_lt _ (by omega)⟩ (v.truncate 32), 0)
      | _ => (s, 0)
  | .sdma => sdmaWrite s g o p v
  | .window => (s, 0)
  | .stk k => (stkWrite s a k o p v, 0)
  | .strat k => stratWrite s g k o p v
  | .cvy => (cvyWrite s g o p v, 0)
  | .stream => (streamWrite s g o p v, 0)
  | .pci => (if o = 0x20004 then s.icuComplete 8 (v.toNat % 1024) else pciWrite s o p v, 0)
  | .sec => (secWrite s o p v, 0)
  | .lko =>
    (if o = 0x10 then
      (match a with
        | .lookout => { s with lko := { s.lko with mbox := p.merge s.lko.mbox v } }
        | _ => s.mailbox (p.merge s.lko.mbox v))
    else s, 0)
  | .icu => (icuWrite s o v, 0)
  | .clk => (clkWrite s o v, 0)
  | .pwr => (pwrWrite s (a = .lookout) (a = .sc 0) o v, 0)

/-! ### Who may reach a block (R440, R482, R489, R504) -/

/-- Whether an agent may reach a block at an offset. -/
def mayReach (a : Agent) (b : HubBlock) (o : Nat) : Bool :=
  let core := match a with | .sc _ => true | _ => false
  match b with
  | .sec => core
  | .lko => a = .lookout || (core && o = 0x10)
  | .icu | .clk | .pwr => core || a = .lookout
  | _ => true

/-- Whether a block is gated or absent (R3, R399, R489). -/
def State.gated (s : State) (b : HubBlock) (o : Nat) : Bool :=
  match b with
  | .stream => !s.hubEn 0
  | .sdma => !s.hubEn 1
  | .cvy => !s.hubEn 2 || (match arrIx o 0x100 0x10 12 with | some (n, _) => !s.portHere n | none => false)
  | _ => false

/-- The registers that an access of `n` bytes at a hub offset reaches (R547): block, the offset of each register and the part of it;
`none` for a width, an alignment or an offset that reaches no register. -/
def State.hubPlace (s : State) (a : Agent) (off n : Nat) : Option (HubBlock × List (Nat × Part)) :=
  match hubBlock off with
  | none => none
  | some (b, o) =>
    let reg (o : Nat) : Option Bool := (blockRead s a b o).map (·.1)
    if n = 4 && off % 4 = 0 then
      match reg o with
      | some false => some (b, [(o, .all)])
      | some true => some (b, [(o, .lo)])
      | none => if o % 8 = 4 && reg (o - 4) = some true then some (b, [(o - 4, .hi)]) else none
    else if n = 8 && off % 8 = 0 then
      match reg o with
      | some true => some (b, [(o, .all)])
      | some false => if reg (o + 4) = some false then some (b, [(o, .all), (o + 4, .all)]) else none
      | none => none
    else none

/-- A read of registers, lower offset first: the value and the state after what each read clears. -/
def State.hubReadParts (s : State) (a : Agent) (b : HubBlock) : List (Nat × Part) → Nat → W64 × State
  | [], _ => (0, s)
  | (o, p) :: l, sh =>
    let v : W64 := match blockRead s a b o with | some x => p.pick x.2 | none => 0
    let r := (blockRc s b o).hubReadParts a b l (sh + 32)
    ((v <<< sh) ||| r.1, r.2)

/-- A write of registers, lower offset first: state and the first status that is not OK. -/
def State.hubWriteParts (s : State) (a : Agent) (b : HubBlock) (v : W64) : List (Nat × Part) → State × Nat
  | [] => (s, 0)
  | (o, p) :: l =>
    let x := blockWrite s a b o p v
    let y := x.1.hubWriteParts a b (v >>> 32) l
    (y.1, if x.2 ≠ 0 then x.2 else y.2)

/-- An access to the hub register range (R547): width, offset, partition and gating are checked, then it is performed. -/
def State.hubAccess (s : State) (a : Agent) (off : Nat) (op : ReqOp) : Ans :=
  let n := opLen op
  let zero := match op with | .read n => List.replicate n ((0 : Byte), false) | .write _ => []
  match s.hubPlace a off n with
  | none => ⟨s, 3, zero⟩
  | some (b, l) =>
    if !l.all (fun x => mayReach a b x.1) then ⟨s, 1, zero⟩
    else if l.any (fun x => s.gated b x.1) then ⟨s, 2, zero⟩
    else match op with
      | .read n => let r := s.hubReadParts a b l 0; ⟨r.2, 0, clean (leBytes n r.1.toNat)⟩
      | .write d => let r := s.hubWriteParts a b (BitVec.ofNat 64 (leNatP d)) l; ⟨r.1, r.2, []⟩

/-! ### Any register of the device (R103, R319) -/

/-- Start of the tile windows (R319). -/
def winBase : Nat := 0x100000000000
/-- Start of the hub registers (R319). -/
def hubBase : Nat := 0x200000000000

/-- What BAR 0 still reaches in confidential operation (R426): the doorbell page, HUB_CAPS0 and HUB_CAPS1. -/
def confPage (off n : Nat) : Bool := (0x3810000 ≤ off && off + n ≤ 0x3818000) || (0x10 ≤ off && off + n ≤ 0x18)

/-- An access to a hub offset through BAR 0 (R424, R426, R489, R547): a refused one reads all ones and counts, and so does one past the
64 MiB of the BAR (R423; log entry 52). -/
def State.bar0Reg (s : State) (off : Nat) (op : ReqOp) : Ans :=
  let n := opLen op
  let ones := match op with | .read n => List.replicate n ((0xFF : Byte), false) | .write _ => []
  let r := if off < 0x4000000 && (!s.sec.conf || confPage off n) then s.hubAccess .bar0 off op else ⟨s, 3, ones⟩
  if r.status = 2 ∨ r.status = 3 then ⟨{ r.s with pci := { r.s.pci with bar0err := satInc r.s.pci.bar0err } }, r.status, ones⟩
  else r

/-- An access to a register or scratchpad window at a device address; other addresses hold none (R319). BAR 0 reaches hub registers alone,
and BAR 2 no register (R423). -/
def State.regAccess (s : State) (a : Agent) (addr : Nat) (op : ReqOp) : Ans :=
  let zero := match op with | .read n => List.replicate n ((0 : Byte), false) | .write _ => []
  if a = .bar2 ∨ (a = .bar0 ∧ addr < hubBase) then ⟨s, 3, zero⟩
  else if a = .bar0 then s.bar0Reg (addr - hubBase) op
  else if winBase ≤ addr ∧ addr < winBase + 2 ^ 32 then s.tileAccess a ((addr - winBase) / 2 ^ 24) ((addr - winBase) % 2 ^ 24) op
  else if hubBase ≤ addr ∧ addr < hubBase + 2 ^ 28 then s.hubAccess a (addr - hubBase) op
  else ⟨s, 3, zero⟩

/-- What goes back to the agent of an access: the bytes of a host read, nothing for a host write, else status and value. -/
def Ans.tell (r : Ans) (a : Agent) (op : ReqOp) : State :=
  match a with
  | .bar0 | .bar2 => (match op with | .read _ => r.s.emit (.barData r.data) | .write _ => r.s)
  | _ => r.s.emit (.regValue r.status (BitVec.ofNat 64 (leNatP r.data)))

/-- A register write of 4 or 8 bytes by an agent. -/
def State.putReg (s : State) (a : Agent) (addr : Nat) (w8 : Bool) (v : W64) : State :=
  let op : ReqOp := .write (clean (leBytes (if w8 then 8 else 4) v.toNat))
  (s.regAccess a addr op).tell a op

/-- A register read of 4 or 8 bytes by an agent. -/
def State.getReg (s : State) (a : Agent) (addr : Nat) (w8 : Bool) : State :=
  let op : ReqOp := .read (if w8 then 8 else 4)
  (s.regAccess a addr op).tell a op

/-- A 4-byte write at a hub offset. -/
def State.put32 (s : State) (a : Agent) (off : Nat) (v : W32) : State := s.putReg a (hubBase + off) false (v.zeroExtend 64)
/-- An 8-byte write at a hub offset. -/
def State.put64 (s : State) (a : Agent) (off : Nat) (v : W64) : State := s.putReg a (hubBase + off) true v

end Sys2Proof.Machine
end

