-- ==== Sys2Proof/Machine/Claims.lean ====
section
/-! DEFINITION. Claims registers and the EVT_IO pin (19). -/

namespace Sys2Proof.Machine

/-- A write of a claims register (R506 to R509). -/
def State.claimWrite (s : State) (r : ClaimReg) (a : Agent) (v : W32) : State :=
  match r with
  | .tsf t => s.ctlWrite a t.val 0x830020 v
  | .evt => s.put32 a 0x100 v
  | .trc => s.put32 a 0x104 v

/-- CLAIM (R506): the value written with cmd = 1. -/
def execClaim (r : ClaimReg) (a : Agent) (v : W32) (s : State) : Host.Outcome State Fault Refusal :=
  .next (s.claimWrite r a ((v &&& 0x3FFFFFFF#32) ||| 0x40000000#32))

/-- RELEASE (R506): the value written with cmd = 2. -/
def execRelease (r : ClaimReg) (a : Agent) (v : W32) (s : State) : Host.Outcome State Fault Refusal :=
  .next (s.claimWrite r a ((v &&& 0x3FFFFFFF#32) ||| 0x80000000#32))

/-- EVT_IO_FALLING_EDGE (R508): with use 2 the trace buffer freezes, with use 4 the hold begins. -/
def execEvtIoFallingEdge (s : State) : Host.Outcome State Fault Refusal :=
  let s := { s with pin := { s.pin with evtIo := false } }
  let s := if s.trc.clmEvt &&& 0xF#32 = 2 then { s with trc := { s.trc with frozen := true } } else s
  .next s.evtHold

/-- EVT_IO_RISING_EDGE (R508): the hold of use 4 ends. -/
def execEvtIoRisingEdge (s : State) : Host.Outcome State Fault Refusal :=
  .next { s with pin := { s.pin with evtIo := true } }

end Sys2Proof.Machine
end

