-- ==== Sys2Proof/Machine/Convoy.lean ====
section
/-! DEFINITION. The commands of the convoy engine (14). -/

namespace Sys2Proof.Machine

/-- A control message that a CTRL cell left at port n is taken from it; `none` when the port holds no such message. -/
def State.takeCtrl (s : State) (n : PortIx) (x : CtrlPay) : Option State :=
  let p := s.portOf n.val
  if p.inbox.contains x then some (s.setPort n.val { p with inbox := p.inbox.erase x }) else none

/-- The cells of a chunk message as the receiver holds them. -/
def chunkParts (m : ConvoyMsg) (c : ChunkInfo) : List (ConvoyMsg × ChunkInfo) :=
  (chunkCells m c.index c.gather c.data).filterMap (fun x => match x with | .data m i => some (m, i) | _ => none)

/-- A chunk message whose data cells have all arrived at port n is taken from it; `none` while one is missing. -/
def State.takeParts (s : State) (n : PortIx) (m : ConvoyMsg) (c : ChunkInfo) : Option State :=
  let p := s.portOf n.val
  let l := chunkParts m c
  if l.all p.parts.contains then some (s.setPort n.val { p with parts := l.foldl (fun q x => q.erase x) p.parts }) else none

/-- The rank of the device at the far end of port n in a fabric group. -/
def State.rankAt (s : State) (n : PortIx) (fgid : W32) : Nat :=
  match s.groupColl fgid with
  | none => noRank.toNat
  | some c => (c.roles.findIdx? (fun r => r.dev = (s.portOf n.val).peerId)).getD noRank.toNat

/-- COLLECTIVE_START (R402, R405, R406, R409, R414). -/
def execCollectiveStart (s : State) : Host.Outcome State Fault Refusal := .next (if s.hubEn 2 then s.startColl else s)

/-- READY (R404, R406). -/
def execReady (n : PortIx) (m : ConvoyMsg) (r : ReadyInfo) (s : State) : Host.Outcome State Fault Refusal :=
  .next (match s.takeCtrl n (.ready m r) with | some t => t.readyMsg n m r | none => s)

/-- CHUNK (R404, R407, R412, R419). -/
def execChunk (n : PortIx) (m : ConvoyMsg) (c : ChunkInfo) (s : State) : Host.Outcome State Fault Refusal :=
  .next (match s.takeParts n m c with | some t => t.chunkMsg n m c | none => s)

/-- REFUSE (R404). -/
def execRefuse (n : PortIx) (m : ConvoyMsg) (epoch : Byte) (s : State) : Host.Outcome State Fault Refusal :=
  .next (match s.takeCtrl n (.refuse m epoch) with | some t => t.refuseMsg m (s.rankAt n m.fgid) | none => s)

/-- ABORT (R404, R410). -/
def execAbort (n : PortIx) (m : ConvoyMsg) (c : CtrlInfo) (s : State) : Host.Outcome State Fault Refusal :=
  .next (match s.takeCtrl n (.abort m c) with | some t => t.abortMsg n m c | none => s)

/-- MEMBER_FAIL (R404, R410, R414). -/
def execMemberFail (n : PortIx) (m : ConvoyMsg) (c : CtrlInfo) (s : State) : Host.Outcome State Fault Refusal :=
  .next (match s.takeCtrl n (.memberFail m c) with | some t => t.memberFailMsg n m c | none => s)

/-- SLOW (R404, R410, R415). -/
def execSlow (n : PortIx) (m : ConvoyMsg) (c : CtrlInfo) (s : State) : Host.Outcome State Fault Refusal :=
  .next (match s.takeCtrl n (.slow m c) with | some t => t.slowMsg n m c | none => s)

/-- SLOW_REPEAT (R415): every 10 ms while the level is above Clear. -/
def execSlowRepeat (k : StackIx) (s : State) : Host.Outcome State Fault Refusal :=
  .next (if (s.stack k.val).level ≠ 0 then s.slowNotices k.val (s.stack k.val).level else s)

/-- CONVOY_TIMEOUT (R410, R411): the collective of a fabric group is aborted, naming the silent rank. -/
def execConvoyTimeout (fgid : W32) (rank : BitVec 16) (s : State) : Host.Outcome State Fault Refusal :=
  .next (match s.collOf fgid with | some c => s.abortColl c 5 rank none | none => s)

/-- COLLECTIVE_COMPLETE (R408, R409, R416): a collective that has every final byte and has sent what it owes ends with OK. -/
def execCollectiveComplete (fgid : W32) (s : State) : Host.Outcome State Fault Refusal :=
  .next (match s.collOf fgid with | some c => if c.done then s.endColl c 0 noRank none else s | none => s)

end Sys2Proof.Machine
end

