-- ==== Sys2Proof/Machine/Slots.lean ====
section
/-! DEFINITION. The shared form of every slot operation: one bundle that holds the operation alone issues at tile t (log entry 14). -/

namespace Sys2Proof.Machine

/-- A bundle that holds the given operations issues on tile t, with the checks that fail in this step. -/
def State.slot (s : State) (t : TileIx) (o : BundleOps) (ck : List CheckFail) : State :=
  s.tileWork t.val (fun e x => issueOps e o ck x)

/-- A sequencer operation issues on tile t. -/
def State.seqOp (s : State) (t : TileIx) (op : Nat) (f : SeqF) : State := s.slot t { seq := (op, f) } []
/-- A matrix operation issues on tile t. -/
def State.mxOp (s : State) (t : TileIx) (k : MxKind) (f : MxF) (ck : List CheckFail) : State := s.slot t { mx := some (k, f) } ck
/-- A vector operation issues on tile t. -/
def State.veOp (s : State) (t : TileIx) (op : VOp) (f : VecF) (ck : List CheckFail) : State := s.slot t { ve := some (some op, f) } ck
/-- A special-function operation issues on tile t. -/
def State.sfOp (s : State) (t : TileIx) (op : Nat) (f : SfF) (ck : List CheckFail) : State := s.slot t { sf := some (op, f) } ck
/-- A load or store operation issues on tile t. -/
def State.lsOp (s : State) (t : TileIx) (op : Nat) (f : LsF) : State := s.slot t { ls := some (op, f) } []

end Sys2Proof.Machine
end

