-- ==== Sys2Proof/Machine/Dma.lean ====
section
/-! DEFINITION. The commands of the DMA channels (13). -/

namespace Sys2Proof.Machine

/-- The DMA slot's operation on a channel of tile t (R300, R301). -/
def State.dmaSlotOp (s : State) (t : TileIx) (op n sr : Nat) : State := s.slot t { dma := (op, n, sr) } []

/-- Bits of the low half of a channel's control register written by an agent (R378). -/
def State.dmaCtl (s : State) (c : Chan) (a : Agent) (bits : W32) : State :=
  let v : W32 := ((s.chanAt c).ctrl.truncate 32 &&& 0xFFFFFFF8#32) ||| bits
  match c with
  | .tile t n => s.ctlWrite a t.val (0x840038 + 0x80 * n.val) v
  | .sys n => s.put32 a (0x100038 + 0x80 * n.val) v

/-- Abort or disable: by the DMA slot when the channel's own tile asks, else by a register write (R301, R378). -/
def State.dmaStop (s : State) (c : Chan) (a : Agent) (op : Nat) (bits : W32) : State :=
  match c, a with
  | .tile t n, .tile u => if t = u then s.dmaSlotOp t op n.val 0 else s.dmaCtl c a bits
  | _, _ => s.dmaCtl c a bits

/-- DMA_START (R301, R379, R382). -/
def execDmaStart (b : DmaStartBy) (a : Agent) (s : State) : Host.Outcome State Fault Refusal :=
  match b with
  | .slot t n sr => .next (s.dmaSlotOp t 1 n.val sr.toNat)
  | .reg c => .next (s.dmaCtl c a 1#32)

/-- DMA_ABORT (R390). -/
def execDmaAbort (c : Chan) (a : Agent) (s : State) : Host.Outcome State Fault Refusal := .next (s.dmaStop c a 2 2#32)

/-- DMA_DISABLE (R391). -/
def execDmaDisable (c : Chan) (a : Agent) (s : State) : Host.Outcome State Fault Refusal := .next (s.dmaStop c a 3 4#32)

/-- DMA_BURST_ISSUE (R385). -/
def execDmaBurstIssue (c : Chan) (s : State) : Host.Outcome State Fault Refusal := .next (s.chanIssue c)

/-- DMA_RESPONSE (R386 to R389). -/
def execDmaResponse (c : Chan) (i : Nat) (s : State) : Host.Outcome State Fault Refusal := .next (s.chanResponse c i)

/-- DMA_RETRY_REISSUE (R388). -/
def execDmaRetryReissue (c : Chan) (burst : Nat) (s : State) : Host.Outcome State Fault Refusal := .next (s.chanRetry c burst)

end Sys2Proof.Machine
end

