-- ==== Sys2Proof/Machine/Drizzle.lean ====
section
/-! DEFINITION. The drizzle compressor's commands (05). -/

namespace Sys2Proof.Machine

/-- DRIZZLE_OPEN (R158): TVE_DZCFG written with the value and the open bit. -/
def execDrizzleOpen (a : Agent) (t : TileIx) (v : W32) (s : State) : Host.Outcome State Fault Refusal :=
  .next (s.ctlWrite a t.val 0x820800 ((v ||| 0x80000000#32) &&& 0x9FFFFFFF#32))

/-- DRIZZLE_CLOSE (R159): TVE_DZCFG written with the value and the close bit. -/
def execDrizzleClose (a : Agent) (t : TileIx) (v : W32) (s : State) : Host.Outcome State Fault Refusal :=
  .next (s.ctlWrite a t.val 0x820800 ((v ||| 0x40000000#32) &&& 0xDFFFFFFF#32))

/-- DRIZZLE_ABORT (R159): TVE_DZCFG written with the value and the abort bit. -/
def execDrizzleAbort (a : Agent) (t : TileIx) (v : W32) (s : State) : Host.Outcome State Fault Refusal :=
  .next (s.ctlWrite a t.val 0x820800 (v ||| 0x20000000#32))

end Sys2Proof.Machine
end

