-- ==== Sys2Proof/Machine/Fabric.lean ====
section
/-! DEFINITION. The commands of the fabric ports (14). -/

namespace Sys2Proof.Machine

/-! ### Cells received (R395 to R397) -/

/-- The cells up to an acknowledged one leave the replay buffer (R396); a number that the buffer does not hold was acknowledged before. -/
def dropAcked (ack : BitVec 12) (l : List Cell) : List Cell :=
  if l.any (·.seq = ack) then (l.dropWhile (·.seq ≠ ack)).drop 1 else l

/-- An acknowledgement reaches port n: room in the replay buffer, and waiting payloads go out. -/
def State.ackPort (s : State) (n : PortIx) (ack : BitVec 12) : State :=
  let p := s.portOf n.val
  (s.setPort n.val { p with unacked := dropAcked ack p.unacked }).pumpPort n (p.txq.length + 1)

/-- A NAK goes back, naming the last cell received in order (R396). -/
def State.sendNak (s : State) (n : PortIx) : State := s.emit (.cell n ⟨0, (s.portOf n.val).rxSeq, 0, true, .nak⟩)

/-- A cell that fails its CRC is discarded and counted, and a NAK goes back (R396, R420). -/
def State.crcFail (s : State) (n : PortIx) : State :=
  let p := s.portOf n.val
  (s.setPort n.val { p with crcErr := satInc p.crcErr }).sendNak n

/-- The payload bytes of a data cell with the poison that its header carries (R395). -/
def cellBytes (c : Cell) (d : List PByte) : List PByte := d.zipIdx.map (fun x => (x.1.1, c.pois.getLsbD (x.2 / 32)))

/-- What a cell that is in sequence leaves at the port for the convoy engine. -/
def PortBlk.take (p : PortBlk) (c : Cell) : PortBlk :=
  match c.pay with
  | .data m i => { p with parts := p.parts ++ [(m, { i with data := cellBytes c i.data })] }
  | .ctrl x => { p with inbox := p.inbox ++ [x] }
  | _ => p

/-- A DATA or CTRL cell arrives (R396, R498): it wakes the device from Dusk; only a port in UP receives. -/
def State.recvCell (s : State) (n : PortIx) (c : Cell) : State :=
  if (s.portOf n.val).st ≠ .up then s
  else
    let s := s.devWake
    let p := s.portOf n.val
    if !c.crcOk then s.crcFail n
    else if c.seq ≠ p.rxSeq + 1 then s.sendNak n
    else (s.setPort n.val ({ p with rxSeq := c.seq }.take c)).ackPort n c.ack

/-! ### The commands -/

/-- The address of CVY_PORTCTLn. -/
def portCtlAt (n : PortIx) : Nat := 0x3000100 + 0x10 * n.val

/-- PORT_ENABLE (R398): 1 is written to en. -/
def execPortEnable (a : Agent) (n : PortIx) (s : State) : Host.Outcome State Fault Refusal := .next (s.put32 a (portCtlAt n) 1#32)

/-- PORT_DISABLE (R398): 0 is written to en. -/
def execPortDisable (a : Agent) (n : PortIx) (s : State) : Host.Outcome State Fault Refusal := .next (s.put32 a (portCtlAt n) 0#32)

/-- PORT_RETRAIN (R398): retrain is written with en. -/
def execPortRetrain (a : Agent) (n : PortIx) (s : State) : Host.Outcome State Fault Refusal := .next (s.put32 a (portCtlAt n) 3#32)

/-- TRAINING_COMPLETE (R394, R398, R421): TRAIN to UP with the peer's identity. -/
def execTrainingComplete (n : PortIx) (peerId : BitVec 16) (peerPort : BitVec 4) (s : State) : Host.Outcome State Fault Refusal :=
  let p := s.portOf n.val
  if p.st = .train then
    .next ((s.setPort n.val { p with st := .up, peerId := peerId, peerPort := peerPort, missed := 0, heard := false }).latch n.val)
  else .next s

/-- TRAINING_TIMEOUT (R398, R421): TRAIN to DOWN, train_fail set. -/
def execTrainingTimeout (n : PortIx) (s : State) : Host.Outcome State Fault Refusal :=
  let p := s.portOf n.val
  if p.st = .train then .next ((s.setPort n.val { p.fresh .down with trainFail := true }).latch n.val) else .next s

/-- KEEPALIVE_SEND (R397). -/
def execKeepaliveSend (n : PortIx) (s : State) : Host.Outcome State Fault Refusal :=
  let p := s.portOf n.val
  .next (if p.st = .up then s.emit (.cell n ⟨0, p.rxSeq, 0, true, .keepalive⟩) else s)

/-- KEEPALIVE_WINDOW (R397, R398): a window of 1 µs ends. -/
def execKeepaliveWindow (n : PortIx) (s : State) : Host.Outcome State Fault Refusal :=
  let p := s.portOf n.val
  if p.st ≠ .up then .next s
  else if p.heard then .next (s.setPort n.val { p with heard := false, missed := 0 })
  else
    let s := s.setPort n.val { p with missed := p.missed + 1 }
    .next (if 7 ≤ p.missed.toNat then s.portLost n else s)

/-- DATA (R395, R396). -/
def execData (n : PortIx) (c : Cell) (s : State) : Host.Outcome State Fault Refusal := .next (s.recvCell n c)

/-- CTRL (R395, R396). -/
def execCtrl (n : PortIx) (c : Cell) (s : State) : Host.Outcome State Fault Refusal := .next (s.recvCell n c)

/-- NAK (R396): the sender replays from the cell after the acknowledged one. -/
def execNak (n : PortIx) (ack : BitVec 12) (s : State) : Host.Outcome State Fault Refusal :=
  let p := s.portOf n.val
  if p.st ≠ .up then .next s
  else
    let again := dropAcked ack p.unacked
    let s := s.setPort n.val { p with unacked := again, replays := satInc p.replays }
    .next ((again.foldl (fun s c => s.emit (.cell n { c with ack := p.rxSeq })) s).pumpPort n (p.txq.length + 1))

/-- KEEPALIVE (R396, R397): a valid cell resets the missed count; one that fails its CRC counts as missed. -/
def execKeepalive (n : PortIx) (c : Cell) (s : State) : Host.Outcome State Fault Refusal :=
  let p := s.portOf n.val
  if p.st ≠ .up then .next s
  else if !c.crcOk then .next (s.crcFail n)
  else .next ((s.setPort n.val { p with heard := true, missed := 0 }).ackPort n c.ack)

end Sys2Proof.Machine
end

