-- ==== Sys2Proof/WellFormed.lean ====
section
/-! DEFINITION. Which commands the device can see at all: the bounds that the rules put on an operand and that its type does not
hold already. A unit number is in range by its type (Syntax.lean). -/

namespace Sys2Proof

/-- The bytes that an operation moves. -/
def ReqOp.size : ReqOp → Nat
  | .read n => n
  | .write d => d.length

/-- A request names 1 to 256 bytes inside the 48-bit device address space (R96, R319). -/
def Req.wf (r : Req) : Bool := 0 < r.op.size && r.op.size ≤ 256 && r.addr + r.op.size ≤ 2 ^ 48

/-- A register access names an address of the device address space (R319). -/
def addrWf (a : Nat) : Bool := a < 2 ^ 48

/-- An access through a BAR: a read moves 1 to 4,096 bytes and a write 1 to 512 (R422). -/
def BarAcc.wf (b : BarAcc) : Bool := 0 < b.op.size && (match b.op with | .read n => n ≤ 4096 | .write d => d.length ≤ 512)

/-- A stack has 4,096 banks: 64 pseudo-channels, 4 stack identifiers, 4 bank groups of 4 banks (R323). -/
def bankWf (b : Nat) : Bool := b < 4096

/-- A codeword has 36 symbols (R325): an error reaches 1 to 36 of them. -/
def eccWf (l : List (Nat × Nat)) : Bool := l.all (fun e => 0 < e.2 && e.2 ≤ 36)

/-- Whether a command is one that the device can see. -/
def Instr.wf : Instr → Bool
  | .registerWrite _ a _ _ => addrWf a
  | .rcRegisterRead _ a _ => addrWf a
  | .windowRequest r => r.wf
  | .stackRequest r => r.wf
  | .stackRequestIssue _ _ _ ecc => eccWf ecc
  | .refresh _ b _ => bankWf b
  | .scrubStep _ n => n ≤ 36
  | .bar0Access b => b.wf
  | .bar2Access b => b.wf
  | _ => true

end Sys2Proof
end

