-- ==== Sys2Proof/Machine/HostLink.lean ====
section
/-! DEFINITION. The commands of the host attachment (15): BAR accesses, the MSI-X table, completions, the link. -/

namespace Sys2Proof.Machine

/-! ### BAR 2 (R425, R426) -/

/-- The bytes of BAR 2 (R423). -/
def bar2Size : Nat := 0x100000000

/-- A BAR 2 access that the endpoint itself refuses: a read completes with all ones, and the access counts (R425, R426). -/
def State.bar2Refused (s : State) (r : Req) : State := s.respond r 1 []

/-- An access through BAR 2 reaches its stack (R321, R322, R423, R425, R426). -/
def State.bar2Go (s : State) (b : BarAcc) : State :=
  let r : Req := ⟨.bar2, 0, 0, s.pci.b2base.toNat + b.off, b.op⟩
  if s.sec.conf || bar2Size < b.off + opLen r.op || memEnd < r.addr + opLen r.op then s.bar2Refused r else s.stackArrive r

/-! ### The commands -/

/-- BAR0_ACCESS (R423, R424, R426): hub offset x at BAR 0 offset x. With the link down nothing arrives. -/
def execBar0Access (b : BarAcc) (s : State) : Host.Outcome State Fault Refusal :=
  if b.wf = false then .fault .noSuchEvent
  else if !s.pci.up then .next s
  else .next ((s.devWake.regAccess .bar0 (hubBase + b.off) b.op).tell .bar0 b.op)

/-- BAR2_ACCESS (R423, R425, R426). -/
def execBar2Access (b : BarAcc) (s : State) : Host.Outcome State Fault Refusal :=
  if b.wf = false then .fault .noSuchEvent
  else if !s.pci.up then .next s
  else .next (s.devWake.bar2Go b)

/-- MSIX_VECTOR_WRITE (R427): a word of the table, through BAR 0; clearing a mask sends what is pending. -/
def execMsixVectorWrite (vec : Fin 2048) (word : Fin 4) (v : W32) (s : State) : Host.Outcome State Fault Refusal :=
  .next (if s.pci.up then s.devWake.put32 .bar0 (0x3908000 + 16 * vec.val + 4 * word.val) v else s)

/-- HOST_COMPLETION (R428): data, or Unsupported Request or Completer Abort, which read as GATED; a late one is discarded. -/
def execHostCompletion (id : Nat) (ok : Bool) (d : List PByte) (s : State) : Host.Outcome State Fault Refusal := .next (s.hostAnswer id ok d)

/-- HOST_COMPLETION_TIMEOUT (R428): the request completes with GATED. -/
def execHostCompletionTimeout (id : Nat) (s : State) : Host.Outcome State Fault Refusal := .next (s.hostAnswer id false [])

/-- PCIE_LINK_UP (R422, R473, R525). -/
def execPcieLinkUp (width rate : BitVec 4) (s : State) : Host.Outcome State Fault Refusal := .next (s.linkUp width rate)

/-- PCIE_LINK_DOWN (R428, R463, R473). -/
def execPcieLinkDown (s : State) : Host.Outcome State Fault Refusal := .next s.linkDown

/-- HOST_LOST (R437, R439, R473). -/
def execHostLost (s : State) : Host.Outcome State Fault Refusal := .next s.hostLost

end Sys2Proof.Machine
end

