-- ==== Sys2Proof/Machine/Icu.lean ====
section
/-! DEFINITION. The commands of the interrupt controller (17). -/

namespace Sys2Proof.Machine

/-- The offset of the claim register through which an agent reaches target n: the host's alias for target 8 (R479), else ICU_CLAIMn. -/
def claimAt (a : Agent) (n : Fin 10) : Nat := if a = .bar0 ∧ n.val = 8 then 0x3920000 else 0x5005004 + 0x10 * n.val

/-- INTERRUPT_LEVEL_CHANGE (R472, R474, R479): the notification line of target 8 follows. -/
def execInterruptLevelChange (s : State) : Host.Outcome State Fault Refusal := .next s.seeLine8

/-- ICU_CLAIM (R475, R476). -/
def execIcuClaim (a : Agent) (n : Fin 10) (s : State) : Host.Outcome State Fault Refusal := .next (s.getReg a (hubBase + claimAt a n) false)

/-- ICU_COMPLETE (R477, R479). -/
def execIcuComplete (a : Agent) (n : Fin 10) (src : BitVec 10) (s : State) : Host.Outcome State Fault Refusal :=
  .next (s.put32 a (claimAt a n + 4) (src.zeroExtend 32))

/-- PENDSET (R474, R480). -/
def execPendset (a : Agent) (w : Fin 32) (v : W32) (s : State) : Host.Outcome State Fault Refusal := .next (s.put32 a (0x5004180 + 4 * w.val) v)

/-- PENDCLR (R474, R480). -/
def execPendclr (a : Agent) (w : Fin 32) (v : W32) (s : State) : Host.Outcome State Fault Refusal := .next (s.put32 a (0x5004200 + 4 * w.val) v)

/-- TMASKSET (R475, R480). -/
def execTmaskset (a : Agent) (src : Fin 1024) (v : W32) (s : State) : Host.Outcome State Fault Refusal :=
  .next (s.put32 a (0x5002000 + 4 * src.val) v)

/-- TMASKCLR (R475, R480). -/
def execTmaskclr (a : Agent) (src : Fin 1024) (v : W32) (s : State) : Host.Outcome State Fault Refusal :=
  .next (s.put32 a (0x5003000 + 4 * src.val) v)

end Sys2Proof.Machine
end

