-- ==== Sys2Proof/Machine/Lookout.lean ====
section
/-! DEFINITION. The Lookout operations, heartbeats and mailbox (16). -/

namespace Sys2Proof.Machine

/-- A Lookout operation on a path (R469): while the Lookout does not run, or the path does not carry the operation, nothing happens. A request
wakes the device from Dusk (R498). -/
def State.lookoutOp (s : State) (p : MgmtPath) (mctp : Bool) (f : State → State) : State :=
  if s.mgmtOk p mctp then f s.devWake else s

/-- POWER on (R497; 21, Power rails and sequencing): from Night the rails come up, and start-up waits for PGOOD. -/
def State.lookoutOn (s : State) : State :=
  if s.pwr.dev = .night && !s.pin.waitPgood then
    { s with pwr := { s.pwr with dev := .dawn }, pin := { s.pin with pwren := true, waitPgood := true } }
  else s

/-- ANCHOR_SET (R468, R469): over TLS once an anchor stands, over MCTP while none does. -/
def State.anchorOk (s : State) (p : MgmtPath) : Bool :=
  let none_ := s.lko.anchors.length = 0
  match p with
  | .mctp => none_
  | .tls => !none_

/-- What the Lookout knows of faults (R334, R469, R533): records, notes, persisted remap entries and retired pages; the layout of the answer is
opaque (log entry 12). -/
def State.faultBody (s : State) : List Byte := Config.faultlogBody <|
  s.lko.faultlog.flatMap (fun x => x.2.bytes x.1) ++ s.lko.notes.flatMap (fun x => leBytes 4 x.1 ++ leBytes 4 x.2) ++
  s.lko.remaps.flatMap (fun x => leBytes 4 x.1 ++ leBytes 8 x.2.toNat) ++ s.lko.pages.flatMap (fun x => leBytes 4 x.1 ++ leBytes 4 x.2.toNat)

/-- What TELEMETRY reports of the state (R469): temperatures, power, stack levels, the device's power state. -/
def State.telemetry (s : State) : List Int :=
  s.pin.junction :: (s.pwr.power.toNat : Int) :: (s.pwr.dev.code : Int) ::
  (List.range 12).flatMap (fun k => [(s.stack k).temp.toInt, ((s.stack k).level.toNat : Int)])

/-- POWER_ON (R469, R497; 21, Power rails and sequencing). -/
def execPowerOn (p : MgmtPath) (s : State) : Host.Outcome State Fault Refusal :=
  .next (s.lookoutOp p true (fun s => s.lookoutOn.mgmt p true []))

/-- POWER_OFF (R469, R497). -/
def execPowerOff (p : MgmtPath) (s : State) : Host.Outcome State Fault Refusal :=
  .next (s.lookoutOp p true (fun s => (if s.pwr.dev = .night then s else s.enterNight).mgmt p true []))

/-- STAGE (R442, R469): the image takes effect at the next PORST_N. -/
def execStage (p : MgmtPath) (slot : ImageSlot) (image : List Byte) (s : State) : Host.Outcome State Fault Refusal :=
  .next (s.lookoutOp p false (fun s =>
    if slot.kind.val = 0 then s.mgmt p false []
    else
      let key := 2 * slot.kind.val + (if slot.slotB then 1 else 0)
      ({ s with lko := { s.lko with staged := tset [] s.lko.staged key image } }).mgmt p true []))

/-- SVN_COMMIT (R445, R469): the fused svn rises to the isvn of the running service-core image. -/
def execSvnCommit (p : MgmtPath) (s : State) : Host.Outcome State Fault Refusal :=
  .next (s.lookoutOp p false (fun s =>
    ({ s with sec := { s.sec with svnUp := max s.sec.svnUp s.sec.isvn.toNat } }).mgmt p true []))

/-- REVOKE (R441, R469). -/
def execRevoke (p : MgmtPath) (erev lrev : BitVec 4) (s : State) : Host.Outcome State Fault Refusal :=
  .next (s.lookoutOp p false (fun s =>
    ({ s with sec := { s.sec with erevSet := s.sec.erevSet ||| erev, lrevSet := s.sec.lrevSet ||| lrev } }).mgmt p true []))

/-- DEBUG_TOKEN (R450, R469): a token for this device and nonce, signed by keys that are not revoked, opens debug at the next PORST_N. -/
def execDebugToken (p : MgmtPath) (uid : BitVec 128) (nonce : W64) (token : List Byte) (s : State) : Host.Outcome State Fault Refusal :=
  .next (s.lookoutOp p false (fun s =>
    if uid.toNat = leNat (fuseBytes 1 16) ∧ nonce = s.sec.dbgNonce ∧ Config.tokenSigned token s.erev s.lrev then
      ({ s with lko := { s.lko with token := true } }).mgmt p true []
    else s.mgmt p false []))

/-- LAYOUT (R457, R469): refused while a context exists in a partition that gives up a die; in Night no firmware runs to change it. -/
def execLayout (p : MgmtPath) (mode : Fin 3) (s : State) : Host.Outcome State Fault Refusal :=
  .next (s.lookoutOp p false (fun s =>
    if s.pwr.dev = .night ∨ s.layoutRefused mode.val then s.mgmt p false [] else (s.setLayout mode.val).mgmt p true []))

/-- DEVID (R398, R469): CVY_DEVID, now and at later start-ups. -/
def execDevid (p : MgmtPath) (v : BitVec 16) (s : State) : Host.Outcome State Fault Refusal :=
  .next (s.lookoutOp p false (fun s =>
    let s := { s with lko := { s.lko with cfgDevid := v } }
    (if s.pwr.dev = .night then s else { s with cvy := { s.cvy with devid := v } }).mgmt p true []))

/-- TELEMETRY (R469). -/
def execTelemetry (p : MgmtPath) (s : State) : Host.Outcome State Fault Refusal :=
  .next (s.lookoutOp p true (fun s => (s.drawn 1).mgmt p true (Config.telemetryBody s.draws s.telemetry)))

/-- FAULTLOG (R334, R469). -/
def execFaultlog (p : MgmtPath) (s : State) : Host.Outcome State Fault Refusal :=
  .next (s.lookoutOp p true (fun s => s.mgmt p true s.faultBody))

/-- ATTEST (R449, R466, R469): the report with the caller's nonce. -/
def execAttest (p : MgmtPath) (nonce : BitVec 256) (s : State) : Host.Outcome State Fault Refusal :=
  .next (s.lookoutOp p true (fun s =>
    if s.sec.entBad then s.mgmt p false [] else let r := s.report nonce; r.2.mgmt p true r.1))

/-- ANCHOR_SET (R468, R469). -/
def execAnchorSet (p : MgmtPath) (slot : Fin 4) (anchor : List Byte) (s : State) : Host.Outcome State Fault Refusal :=
  .next (s.lookoutOp p true (fun s =>
    if s.anchorOk p then ({ s with lko := { s.lko with anchors := tset [] s.lko.anchors slot.val anchor } }).mgmt p true []
    else s.mgmt p false []))

/-- LOOKOUT_HEARTBEAT (R470): one on each open session. -/
def execLookoutHeartbeat (s : State) : Host.Outcome State Fault Refusal :=
  .next (if s.lko.up then (List.range s.lko.tls).foldl (fun s i => s.emit (.heartbeat .tls i)) s else s)

/-- LOOKOUT_MAILBOX_REQUEST (R334, R440, R523): a service core writes LKO_MBOX. -/
def execLookoutMailboxRequest (a : Agent) (v : W64) (s : State) : Host.Outcome State Fault Refusal := .next (s.put64 a 0x4800010 v)

/-- LOOKOUT_MAILBOX_REPLY (R440, R473): the Lookout writes its reply and the event latch is set. -/
def execLookoutMailboxReply (v : W64) (s : State) : Host.Outcome State Fault Refusal :=
  .next (if s.lko.up then ({ s with lko := { s.lko with mbox := v } }).latch 17 else s)

/-- MCTP_HEARTBEAT_REQUEST (R470). -/
def execMctpHeartbeatRequest (s : State) : Host.Outcome State Fault Refusal :=
  .next (if s.lko.up then s.emit (.heartbeat .mctp 0) else s)

/-- TLS_SESSION_OPEN (R467, R538): the port is enabled, fewer than four sessions stand, and the certificate chains to an anchor. -/
def execTlsSessionOpen (cert : List Byte) (s : State) : Host.Outcome State Fault Refusal :=
  .next (if s.lko.up && s.pin.strap[2] && decide (s.lko.tls < 4) && s.lko.anchors.any (fun x => Config.chainsTo cert x.2) then
      { s with lko := { s.lko with tls := s.lko.tls + 1 } }
    else s)

end Sys2Proof.Machine
end

