-- ==== Sys2Proof/Machine/Matrix.lean ====
section
/-! DEFINITION. The matrix slot's operations and the array enables (04). -/

namespace Sys2Proof.Machine

/-- Cycles without issue, at most as many as the first number, while the pending operation of array n waits for the end of the running
one. -/
def runPend (e : TileEnv) (n : Nat) : Nat → Tile → Tile
  | 0, t => t
  | k + 1, t => if (marr t n).pend.isSome ∧ t.tasks ≠ [] then runPend e n k (idleCycle e t) else t

/-- The cycles up to the end of the running operation of an array with a pending one pass, and the pending one starts with the checks
that fail in this step (R115, R116). -/
def startPending (e : TileEnv) (n : Nat) (ck : List CheckFail) (t : Tile) : Tile :=
  let a := marr t n
  match a.pend with
  | none => t
  | some p => runPend e n (2 ^ 40) (setMarr t n { a with pend := some { p with ck := p.ck ++ ck.filter (·.unit = 0) } })

/-- MMA (R116): a block's passes run, wait as the pending operation, or are dropped. -/
def execMma (t : TileIx) (f : MxF) (ck : List CheckFail) (s : State) : Host.Outcome State Fault Refusal :=
  .next (s.mxOp t .mma f ck)

/-- ACCLD (R118): accumulator rows are loaded. -/
def execAccld (t : TileIx) (f : MxF) (ck : List CheckFail) (s : State) : Host.Outcome State Fault Refusal :=
  .next (s.mxOp t .accld f ck)

/-- ACCST (R125): accumulator rows are stored as W80 images. -/
def execAccst (t : TileIx) (f : MxF) (s : State) : Host.Outcome State Fault Refusal :=
  .next (s.mxOp t .accst f [])

/-- PENDING_OPERATION_START (R115): the cycles up to the end of the running operation pass, and the pending one starts. -/
def execPendingOperationStart (t : TileIx) (arr : Fin 4) (ck : List CheckFail) (s : State) : Host.Outcome State Fault Refusal :=
  .next (s.tileWork t.val (fun e x => startPending e arr.val ck x))

/-- ARRAY_ENABLE_WRITE (R139, R140): TMX_CLKEN takes the value; a cleared enable abandons its array. -/
def execArrayEnableWrite (a : Agent) (t : TileIx) (v : W32) (s : State) : Host.Outcome State Fault Refusal :=
  .next (s.ctlWrite a t.val 0x810000 v)

end Sys2Proof.Machine
end

