-- ==== Sys2Proof/Machine/Phase.lean ====
section
/-! DEFINITION. Phase timers and the trace buffer (19). -/

namespace Sys2Proof.Machine

/-- The record that a phase stop of a tile sends (R516). -/
def phaseOut (m : PhaseMsg) : TileOut := .phase m.timer m.tag m.cycles

/-- A record that waits in its tile reaches the hub, unless a group on its way is stopped (R101, R516). -/
def State.phaseArrives (s : State) (m : PhaseMsg) : State :=
  let t := m.tile.val
  let first := (s.tile t).outs.find? (fun o => match o with | .phase _ _ _ => true | _ => false)
  if m.hub || first ≠ some (phaseOut m) then s
  else
    let way := (routeTiles t (hubPortTile t)).all (fun x => s.groupRuns (groupOf x))
    let own := s.ownsTrace t
    let s := s.modTile t (fun x => { x with outs := x.outs.erase (phaseOut m) })
    if way then s.traceRecord own m else s

/-- PHASE_EXPORT_RECORD (R509, R516, R517). -/
def execPhaseExportRecord (m : PhaseMsg) (s : State) : Host.Outcome State Fault Refusal := .next (s.phaseArrives m)

/-- PHASE_TIMER_CLEAR (R518): TPH_CTLn written with clr. -/
def execPhaseTimerClear (a : Agent) (t : TileIx) (n : Fin 8) (s : State) : Host.Outcome State Fault Refusal :=
  .next (s.ctlWrite a t.val (0x850000 + 0x20 * n.val) 0x40000000#32)

/-- HUB_PHASE_START (R514, R515): HUB_PHCTLn written with start. -/
def execHubPhaseStart (a : Agent) (n : Fin 8) (s : State) : Host.Outcome State Fault Refusal :=
  .next (s.put32 a (0x60100 + 0x10 * n.val) 0x20000000#32)

/-- HUB_PHASE_STOP (R514, R515): HUB_PHCTLn written with stop. -/
def execHubPhaseStop (a : Agent) (n : Fin 8) (s : State) : Host.Outcome State Fault Refusal :=
  .next (s.put32 a (0x60100 + 0x10 * n.val) 0x10000000#32)

/-- TRACE_UNFREEZE (R517): HUB_TRCCTL written with unfreeze, and wrap as it stands. -/
def execTraceUnfreeze (a : Agent) (s : State) : Host.Outcome State Fault Refusal :=
  .next (s.put32 a 0x60000 (if s.trc.wrap then 0x40000001#32 else 0x40000000#32))

end Sys2Proof.Machine
end

