-- ==== Sys2Proof/Machine/Power.lean ====
section
/-! DEFINITION. The commands of clocks and power (18). -/

namespace Sys2Proof.Machine

/-- OP_CHANGE (R493): a write of PWR_OP. -/
def execOpChange (a : Agent) (v : W32) (s : State) : Host.Outcome State Fault Refusal := .next (s.put32 a 0x6000000 v)

/-- PLL_LOCK (R486, R487, R493). -/
def execPllLock (pg : Fin 16) (s : State) : Host.Outcome State Fault Refusal := .next (s.pllLock pg.val)

/-- PLL_LOCK_TIMEOUT (R486). -/
def execPllLockTimeout (pg : Fin 16) (s : State) : Host.Outcome State Fault Refusal := .next (s.pllTimeout pg.val)

/-- VOLTAGE_SETTLE (R493). -/
def execVoltageSettle (s : State) : Host.Outcome State Fault Refusal := .next s.voltageSettle

/-- CLOCK_SWITCH_WATCHDOG (R490, R491). -/
def execClockSwitchWatchdog (domain : Fin 28) (s : State) : Host.Outcome State Fault Refusal := .next (s.clockWatchdog domain.val)

/-- POWER_SAMPLE (R500, R501). -/
def execPowerSample (watts : BitVec 12) (s : State) : Host.Outcome State Fault Refusal := .next (s.modPwr (fun b => b.sample watts))

/-- EXCURSION_BACKSTOP (R501). -/
def execExcursionBackstop (s : State) : Host.Outcome State Fault Refusal := .next s.backstop

/-- POWER_EVALUATION (R503). -/
def execPowerEvaluation (s : State) : Host.Outcome State Fault Refusal := .next s.evaluate

/-- TILE_STATE_REQUEST (R495, R504): a write of PWR_TILEREQ with go set. -/
def execTileStateRequest (a : Agent) (v : W32) (s : State) : Host.Outcome State Fault Refusal := .next (s.put32 a 0x6000020 (v ||| 0x80000000#32))

/-- TILE_IDLE_DUSK (R495): a tile in Noon that is halted and idle enters Dusk once PWR_IDLE µs have passed. -/
def execTileIdleDusk (t : TileIx) (s : State) : Host.Outcome State Fault Refusal :=
  let x := s.tile t.val
  .next (if x.power = .noon && tileDone x && s.pwr.idle ≠ 0 then s.setTile t.val { x with power := .dusk } else s)

/-- TILE_WAKE_COMPLETE (R454, R495, R496): launches that wait for the tile may start. -/
def execTileWakeComplete (t : TileIx) (s : State) : Host.Outcome State Fault Refusal := .next (s.wakeTile t.val).startLaunches

/-- DEVICE_DUSK_REQUEST (R497, R504): a write of PWR_DEV with dusk set. -/
def execDeviceDuskRequest (a : Agent) (v : W32) (s : State) : Host.Outcome State Fault Refusal := .next (s.put32 a 0x6000030 (v ||| 0x80000000#32))

/-- DEVICE_WAKE (R497, R498). -/
def execDeviceWake (s : State) : Host.Outcome State Fault Refusal := .next s.devWake

/-- DEVICE_DAWN_COMPLETE (R483, R497). -/
def execDeviceDawnComplete (s : State) : Host.Outcome State Fault Refusal := .next s.devDawn

/-- SC_DUSK (R499): a core other than SC0 that waits for an interrupt, with its bit of PWR_SCDUSK set. -/
def execScDusk (n : Fin 8) (s : State) : Host.Outcome State Fault Refusal :=
  .next (if n.val ≠ 0 && s.core n.val = .run && s.pwr.scdusk.getLsbD n.val && s.winner n.val = 0 then s.setCore n.val .dusk else s)

/-- SC_WAKE (R483, R498, R499): a candidate of a sleeping core's target wakes it; in device Dusk it starts Dawn. -/
def execScWake (n : Fin 8) (s : State) : Host.Outcome State Fault Refusal :=
  .next (if s.core n.val ≠ .dusk || s.winner n.val = 0 then s
    else if s.pwr.dev = .noon then s.setCore n.val .run
    else s.devWake)

/-- HUB_CLOCK_ENABLE (R489): a write of CLK_HUBEN. -/
def execHubClockEnable (a : Agent) (v : W32) (s : State) : Host.Outcome State Fault Refusal := .next (s.put32 a 0x5800008 v)

end Sys2Proof.Machine
end

