-- ==== Sys2Proof/Machine/Reset.lean ====
section
/-! DEFINITION. Resets, start-up, pins and machine checks (20, 21). -/

namespace Sys2Proof.Machine

/-- PORST_N_ASSERT (R399, R417, R520, R522). -/
def execPorstNAssert (s : State) : Host.Outcome State Fault Refusal :=
  let u := s.underPorst
  .next { u with pin := { u.pin with porst := false } }

/-- PORST_N_DEASSERT (R520, R521, R524, R538): straps are latched and start-up runs; the operands are what it finds. -/
def execPorstNDeassert (straps : BitVec 4) (fuseOk : Bool) (stackOk : BitVec 12) (s : State) : Host.Outcome State Fault Refusal :=
  if s.pin.porst then .next s
  else .next ({ s with pin := { s.pin with porst := true, strap := straps, fuseOk := fuseOk, stackOk := stackOk } }).powerUp

/-- PERST_N_ASSERT (R439, R463, R520). -/
def execPerstNAssert (s : State) : Host.Outcome State Fault Refusal := .next s.perstAssert

/-- PERST_N_DEASSERT (R525): the endpoint leaves reset; the link comes up with PCIE_LINK_UP. -/
def execPerstNDeassert (s : State) : Host.Outcome State Fault Refusal := .next { s with pin := { s.pin with perst := true } }

/-- LKO_RST_N_ASSERT (R520, R523): the Lookout, its sessions and its MCTP state are reset. -/
def execLkoRstNAssert (s : State) : Host.Outcome State Fault Refusal :=
  .next { s with lko := { s.lko with up := false, tls := 0 }, pin := { s.pin with lkoRst := false } }

/-- LKO_RST_N_DEASSERT (R442, R443, R523): the Lookout boots again and answers the mailbox writes that were held. -/
def execLkoRstNDeassert (s : State) : Host.Outcome State Fault Refusal :=
  let q := s.lko.held
  let up := s.pin.porst && !s.pin.aoLost && (s.tryImage 1).2.1 = 0
  let s := { s with pin := { s.pin with lkoRst := true } }
  .next (if up && !s.lko.up then q.foldl State.mailbox { s with lko := { s.lko with up := true, held := [] } } else s)

/-- PGOOD_TIMEOUT (21, Power rails and sequencing): the PWREN outputs drop and the device stays in Night. -/
def execPgoodTimeout (s : State) : Host.Outcome State Fault Refusal :=
  .next (if s.pin.waitPgood then
      ({ s with pin := { s.pin with waitPgood := false, pwren := false }, pwr := { s.pwr with dev := .night } }).note 2 0
    else s)

/-- PGOOD_RISE (R524; 21, Power rails and sequencing): start-up from Night goes on from phase 1. -/
def execPgoodRise (s : State) : Host.Outcome State Fault Refusal :=
  .next (if s.pin.waitPgood then ({ s with pin := { s.pin with waitPgood := false } }).startUp false 1 else s)

/-- AO_CLK_LOSS (R522; 21, Reference clocks): the device acts as on PORST_N. -/
def execAoClkLoss (s : State) : Host.Outcome State Fault Refusal :=
  let u := s.underPorst
  .next { u with pin := { u.pin with aoLost := true, strap := s.pin.strap } }

/-- AO_CLK_RESTORE (R524; 21, Reference clocks): the device leaves that state, unless PORST_N holds it. -/
def execAoClkRestore (s : State) : Host.Outcome State Fault Refusal :=
  .next (if s.pin.aoLost then ({ s with pin := { s.pin with aoLost := false } }).powerUp else s)

/-- REFCLK_LOSS (21, Reference clocks): the Lookout moves the device to Night and notes it. -/
def execRefclkLoss (s : State) : Host.Outcome State Fault Refusal :=
  .next (if s.lko.up then (if s.pwr.dev = .night then s else s.enterNight).note 3 0 else s)

/-- SC_WATCHDOG_EXPIRY (R530): no kick came in time; no address belongs to this error, so HUB_MCADDR takes a free value. -/
def execScWatchdogExpiry (n : Fin 8) (s : State) : Host.Outcome State Fault Refusal :=
  .next (if s.core n.val = .run && (tget 0xF4240#32 s.hub.scwd n.val)[30] then
      ((s.drawn 1).machineCheck 0 1 n.val s.free).holdCore n.val
    else s)

/-- WATCHDOG_KICK (R530): a write of HUB_SCWDn with kick set. -/
def execWatchdogKick (a : Agent) (n : Fin 8) (v : W32) (s : State) : Host.Outcome State Fault Refusal :=
  .next (s.put32 a (0x240 + 8 * n.val) (v ||| 0x80000000#32))

/-- SC_RELEASE (R530): a write of HUB_SCWDn with release set. -/
def execScRelease (a : Agent) (n : Fin 8) (v : W32) (s : State) : Host.Outcome State Fault Refusal :=
  .next (s.put32 a (0x240 + 8 * n.val) (v ||| 0x10000000#32))

/-- SC_MACHINE_CHECK (R529): the core stops and is held; code 2 for an uncorrectable error, 3 for a residue failure. -/
def execScMachineCheck (n : Fin 8) (residue : Bool) (addr : W64) (s : State) : Host.Outcome State Fault Refusal :=
  .next (if s.core n.val = .run then
      (s.machineCheck (if residue then 2 else 1) (if residue then 3 else 2) n.val addr).holdCore n.val
    else s)

/-- SC0_FAILURE_RESTART (R532): the Lookout moves the device to Night and starts it again with cause 2. -/
def execSc0FailureRestart (s : State) : Host.Outcome State Fault Refusal :=
  .next (if s.core 0 = .held && s.lko.up then
      let u := s.enterNight
      ({ u with pin := { u.pin with pwren := true } }).startUp false 2
    else s)

/-- JUNCTION_SAMPLE (R542, R543): above 120 °C the device trips. -/
def execJunctionSample (temp : Int) (s : State) : Host.Outcome State Fault Refusal :=
  let s := { s with pin := { s.pin with junction := temp } }
  .next (if 120 < temp ∧ s.pin.thermtrip = false then s.trip else s)

end Sys2Proof.Machine
end

