-- ==== Sys2Proof/Machine/Security.lean ====
section
/-! DEFINITION. The vendor-defined requests of a session, measurements, tile clears and the entropy source (16). -/

namespace Sys2Proof.Machine

/-! ### Vendor-defined requests (R458) -/

/-- A vendor-defined request: outside a session UnexpectedRequest, else the status and value of the action (R458). -/
def State.vendorReq (s : State) (f : State → State × Nat × W64) : State :=
  if !s.pci.up then s
  else if !s.inSession then s.spdmErr 4
  else let r := f s; r.1.vendor r.2.1 r.2.2

/-- A request whose response carries a status alone. -/
def State.vendorOp (s : State) (f : State → Nat × State) : State := s.vendorReq (fun s => let r := f s; (r.2, r.1, 0))

/-- Confidential operation is entered, or refused with STATE (R459). -/
def State.confEnter (s : State) : Nat × State :=
  if !(caps1 s.fx)[11] || s.sec.debugOpen || s.openStreams ≠ [] || s.modules ≠ [] then (2, s)
  else (0, ({ s with sec := { s.sec with conf := true, confAo := true } }).seeLine8)

/-- Window w set, or refused (R458, R461). -/
def State.windowSet (s : State) (w : Nat) (data hdr : BitVec 44) (chunks : BitVec 20) (part : BitVec 2) (ctx : BitVec 4) : Nat × State :=
  if data.toNat % 4096 ≠ 0 ∨ hdr.toNat % 64 ≠ 0 ∨ partCount s.partMode ≤ part.toNat then (1, s)
  else if s.bwinValid w then (2, s)
  else
    let v : W64 := bit true 63 ||| fld part.toNat 36 ||| fld ctx.toNat 32 ||| chunks.zeroExtend 64
    let words := tset 0 (tset 0 (tset 0 s.sec.bwin (4 * w) (data.zeroExtend 64)) (4 * w + 1) (hdr.zeroExtend 64)) (4 * w + 2) v
    (0, { s with sec := { s.sec with bwin := words } })

/-- Whether a running SEAL or UNSEAL uses window w (R458). -/
def State.windowUsed (s : State) (w : Nat) : Bool :=
  s.stream.hamper.any (fun x => match x.2.run with
    | some (c, .crypt _ _ _ _) =>
      let a := if cmdAt c 0 1 = 4 then cmdAt c 16 8 else cmdAt c 8 8
      (match s.windowOf x.2.part x.2.ctx a ((cmdAt c 24 8 + 4095) / 4096) with | some y => y.1 = w | none => false)
    | _ => false)

/-- Window w cleared, or refused while it is in use (R458). -/
def State.windowClear (s : State) (w : Nat) : Nat × State :=
  if s.windowUsed w then (3, s)
  else (0, { s with sec := { s.sec with bwin := tset 0 s.sec.bwin (4 * w + 2) (s.bwin w 2 &&& 0x7FFFFFFFFFFFFFFF#64) } })

/-- The registers that REG_WRITE and REG_READ reach, by hub offset (R458): STREAM_SEL, STREAM_CMD, STREAM_STAT, STREAM_ERR, STREAM_ENTn,
HUB_NPCREQp, HUB_NPCSTATp, PCI_CTO, PCI_LOSTTMO, PCI_LINK and PCI_ERR; true for a 64-bit register. -/
def vendorReg (off : Nat) : Option Bool :=
  if off = 0x3800008 ∨ off = 0x3800010 ∨ off = 0x3800014 ∨ off = 0x3800018 ∨ off = 0x3900010 ∨ off = 0x3900014 ∨ off = 0x3900018 ∨
      off = 0x390001C then some false
  else match arrIx off 0x3800040 8 8, arrIx off 0x50000 0x20 4 with
    | some (_, 0), _ => some true
    | _, some (_, 0) => some true
    | _, some (_, 0x10) => some false
    | _, _ => none

/-- The status of a vendor-defined request for an access that was refused on its way. -/
def vendorStatus (st : Nat) : Nat := if st = 0 then 0 else 2

/-- A register access with the firmware tag (R458): state, status, value. -/
def State.vendorAccess (s : State) (off : Nat) (v : Option W64) : State × Nat × W64 :=
  match vendorReg off with
  | none => (s, 4, 0)
  | some wide =>
    let n := if wide then 8 else 4
    let op : ReqOp := match v with | some v => .write (clean (leBytes n v.toNat)) | none => .read n
    let r := s.regAccess (.sc 0) (hubBase + off) op
    (r.s, vendorStatus r.status, BitVec.ofNat 64 (leNatP r.data))

/-! ### The commands -/

/-- CONF_ENTER (R426, R458, R459, R460). -/
def execConfEnter (s : State) : Host.Outcome State Fault Refusal := .next (s.vendorOp State.confEnter)

/-- WINDOW_SET (R458, R461). -/
def execWindowSet (w : Fin 64) (data hdr : BitVec 44) (chunks : BitVec 20) (part : BitVec 2) (ctx : BitVec 4) (s : State) :
    Host.Outcome State Fault Refusal :=
  .next (s.vendorOp (fun s => s.windowSet w.val data hdr chunks part ctx))

/-- WINDOW_CLEAR (R458). -/
def execWindowClear (w : Fin 64) (s : State) : Host.Outcome State Fault Refusal := .next (s.vendorOp (fun s => s.windowClear w.val))

/-- KEY_INSTALL (R458, R463, R466). -/
def execKeyInstall (g : W32) (s : State) : Host.Outcome State Fault Refusal := .next (s.vendorOp (fun s => s.keyInstall g))

/-- KEY_RETIRE (R458, R463, R464). -/
def execKeyRetire (g : W32) (s : State) : Host.Outcome State Fault Refusal := .next (s.vendorOp (fun s => s.keyRetire g))

/-- REG_WRITE (R458). -/
def execRegWrite (off : Nat) (v : W64) (s : State) : Host.Outcome State Fault Refusal :=
  .next (s.vendorReq (fun s => let r := s.vendorAccess off (some v); (r.1, r.2.1, 0)))

/-- REG_READ (R458). -/
def execRegRead (off : Nat) (s : State) : Host.Outcome State Fault Refusal := .next (s.vendorReq (fun s => s.vendorAccess off none))

/-- MEASUREMENT_EXTEND (R446, R471): a write of SEC_MEXT. -/
def execMeasurementExtend (a : Agent) (v : W32) (s : State) : Host.Outcome State Fault Refusal := .next (s.put32 a 0x4000430 v)

/-- TILE_CLEAR (R454, R456, R471): a write of SEC_TILECLR with go set. -/
def execTileClear (a : Agent) (v : W32) (s : State) : Host.Outcome State Fault Refusal := .next (s.put32 a 0x4000048 (v ||| 0x80000000#32))

/-- TILE_CLEAR_COMPLETE (R454): the clear that runs is done. -/
def execTileClearComplete (s : State) : Host.Outcome State Fault Refusal :=
  let s := (List.range 256).foldl (fun s t => if (s.tile t).clearing then s.modTile t (fun x => { x with clearing := false }) else s) s
  .next { s with sec := { s.sec with clrBusy := false } }

/-- ENTROPY_HEALTH_FAIL (R466). -/
def execEntropyHealthFail (s : State) : Host.Outcome State Fault Refusal :=
  .next { s with sec := { s.sec with entFail := true, entBad := true } }

end Sys2Proof.Machine
end

