-- ==== Sys2Proof/Machine/Sequencer.lean ====
section
/-! DEFINITION. The sequencer's commands (10, and R93, R94 of 03). -/

namespace Sys2Proof.Machine

/-- BUNDLE_ISSUE (R300, R304, R305): the bundle at the pc issues. -/
def execBundleIssue (t : TileIx) (ck : List CheckFail) (s : State) : Host.Outcome State Fault Refusal :=
  .next (s.tileWork t.val (fun e x => issueBundle e ck x))

/-- HALT (R303): issue stops after the bundle. -/
def execHalt (t : TileIx) (s : State) : Host.Outcome State Fault Refusal :=
  .next (s.seqOp t 1 ⟨0, 0, 0, 0, 0⟩)

/-- TRAP (R303): the sequencer halts, TSEQ_TRAP takes the code, the tile fault is raised. -/
def execTrap (t : TileIx) (f : SeqF) (s : State) : Host.Outcome State Fault Refusal :=
  .next (s.seqOp t 2 f)

/-- SEQ_MOV: d takes b (R303). -/
def execSeqMov (t : TileIx) (f : SeqF) (s : State) : Host.Outcome State Fault Refusal :=
  .next (s.seqOp t 0x10 f)

/-- SEQ_ADD: a + b (R303). -/
def execSeqAdd (t : TileIx) (f : SeqF) (s : State) : Host.Outcome State Fault Refusal :=
  .next (s.seqOp t 0x11 f)

/-- SEQ_SUB: a − b (R303). -/
def execSeqSub (t : TileIx) (f : SeqF) (s : State) : Host.Outcome State Fault Refusal :=
  .next (s.seqOp t 0x12 f)

/-- SEQ_MUL: a × b, latency 3 (R303). -/
def execSeqMul (t : TileIx) (f : SeqF) (s : State) : Host.Outcome State Fault Refusal :=
  .next (s.seqOp t 0x13 f)

/-- SEQ_AND: bitwise and (R303). -/
def execSeqAnd (t : TileIx) (f : SeqF) (s : State) : Host.Outcome State Fault Refusal :=
  .next (s.seqOp t 0x14 f)

/-- SEQ_OR: bitwise or (R303). -/
def execSeqOr (t : TileIx) (f : SeqF) (s : State) : Host.Outcome State Fault Refusal :=
  .next (s.seqOp t 0x15 f)

/-- SEQ_XOR: bitwise exclusive or (R303). -/
def execSeqXor (t : TileIx) (f : SeqF) (s : State) : Host.Outcome State Fault Refusal :=
  .next (s.seqOp t 0x16 f)

/-- SEQ_SHL: a shifted left by the low 6 bits of b (R303). -/
def execSeqShl (t : TileIx) (f : SeqF) (s : State) : Host.Outcome State Fault Refusal :=
  .next (s.seqOp t 0x17 f)

/-- SEQ_SHR: a shifted right, zeros entering (R303). -/
def execSeqShr (t : TileIx) (f : SeqF) (s : State) : Host.Outcome State Fault Refusal :=
  .next (s.seqOp t 0x18 f)

/-- SEQ_SRA: a shifted right, the sign entering (R303). -/
def execSeqSra (t : TileIx) (f : SeqF) (s : State) : Host.Outcome State Fault Refusal :=
  .next (s.seqOp t 0x19 f)

/-- SEQ_MIN: the signed minimum (R303). -/
def execSeqMin (t : TileIx) (f : SeqF) (s : State) : Host.Outcome State Fault Refusal :=
  .next (s.seqOp t 0x1a f)

/-- SEQ_MAX: the signed maximum (R303). -/
def execSeqMax (t : TileIx) (f : SeqF) (s : State) : Host.Outcome State Fault Refusal :=
  .next (s.seqOp t 0x1b f)

/-- SEQ_MINU: the unsigned minimum (R303). -/
def execSeqMinu (t : TileIx) (f : SeqF) (s : State) : Host.Outcome State Fault Refusal :=
  .next (s.seqOp t 0x1c f)

/-- SEQ_MAXU: the unsigned maximum (R303). -/
def execSeqMaxu (t : TileIx) (f : SeqF) (s : State) : Host.Outcome State Fault Refusal :=
  .next (s.seqOp t 0x1d f)

/-- MOVH: imm × 2^24 plus the low 24 bits of a (R303). -/
def execMovh (t : TileIx) (f : SeqF) (s : State) : Host.Outcome State Fault Refusal :=
  .next (s.seqOp t 0x1E f)

/-- RDID: d takes TSEQ_ID (R303). -/
def execRdid (t : TileIx) (f : SeqF) (s : State) : Host.Outcome State Fault Refusal :=
  .next (s.seqOp t 0x1F f)

/-- LD: 1 to 8 bytes of the scratchpad (R303); out of range traps, poison halts (R528). -/
def execLd (t : TileIx) (f : SeqF) (s : State) : Host.Outcome State Fault Refusal :=
  .next (s.seqOp t 0x20 f)

/-- ST: 1 to 8 bytes of b to the scratchpad (R303). -/
def execSt (t : TileIx) (f : SeqF) (s : State) : Host.Outcome State Fault Refusal :=
  .next (s.seqOp t 0x21 f)

/-- BR: jump (R303). -/
def execBr (t : TileIx) (f : SeqF) (s : State) : Host.Outcome State Fault Refusal :=
  .next (s.seqOp t 0x30 f)

/-- BCC: compare and jump (R303). -/
def execBcc (t : TileIx) (f : SeqF) (s : State) : Host.Outcome State Fault Refusal :=
  .next (s.seqOp t 0x31 f)

/-- BCND: jump on a comparator (R303). -/
def execBcnd (t : TileIx) (f : SeqF) (s : State) : Host.Outcome State Fault Refusal :=
  .next (s.seqOp t 0x32 f)

/-- LOOP: a hardware loop opens, or its body is skipped (R311). -/
def execLoop (t : TileIx) (f : SeqF) (s : State) : Host.Outcome State Fault Refusal :=
  .next (s.seqOp t 0x38 f)

/-- SEQ_WAIT: issue stops while the comparator is false (R93). -/
def execSeqWait (t : TileIx) (f : SeqF) (s : State) : Host.Outcome State Fault Refusal :=
  .next (s.seqOp t 0x40 f)

/-- WAIT_RESUME (R93): up to `cycles` cycles pass until the wait ends (log entry 14). -/
def execWaitResume (t : TileIx) (cycles : Nat) (s : State) : Host.Outcome State Fault Refusal :=
  .next (s.tileWork t.val (fun e x => runWait e cycles x))

/-- FENCE: waits for DMA, writes and EVT messages (R303). -/
def execFence (t : TileIx) (f : SeqF) (s : State) : Host.Outcome State Fault Refusal :=
  .next (s.seqOp t 0x4A f)

/-- FENCE_RESUME (R303, R93): up to `cycles` cycles pass until the fence ends (log entry 14). -/
def execFenceResume (t : TileIx) (cycles : Nat) (s : State) : Host.Outcome State Fault Refusal :=
  .next (s.tileWork t.val (fun e x => runWait e cycles x))

/-- WAIT_LIMIT_TIMEOUT (R94): the cycles up to TSEQ_WAITLIM pass; a wait that still blocks then halts the sequencer. -/
def execWaitLimitTimeout (t : TileIx) (s : State) : Host.Outcome State Fault Refusal :=
  .next (s.tileWork t.val (fun e x =>
    if x.seq.st = .waiting ∧ x.seq.waitlim ≠ 0 then runWait e (x.seq.waitAt + x.seq.waitlim.toNat - x.cyc) x else x))

/-- CMPSET: a comparator takes source, threshold and enable (R303). -/
def execCmpset (t : TileIx) (f : SeqF) (s : State) : Host.Outcome State Fault Refusal :=
  .next (s.seqOp t 0x41 f)

/-- EVSET: an event counter is set (R303). -/
def execEvset (t : TileIx) (f : SeqF) (s : State) : Host.Outcome State Fault Refusal :=
  .next (s.seqOp t 0x42 f)

/-- EVADD: a value is added to an event counter (R303). -/
def execEvadd (t : TileIx) (f : SeqF) (s : State) : Host.Outcome State Fault Refusal :=
  .next (s.seqOp t 0x43 f)

/-- SIG: an EVT message is sent (R303). -/
def execSig (t : TileIx) (f : SeqF) (s : State) : Host.Outcome State Fault Refusal :=
  .next (s.seqOp t 0x48 f)

/-- HSIG: a stream event counter of the context is added to (R303, R435). -/
def execHsig (t : TileIx) (f : SeqF) (s : State) : Host.Outcome State Fault Refusal :=
  .next (s.seqOp t 0x49 f)

/-- PHASE: a tile phase timer starts or stops (R515). -/
def execPhase (t : TileIx) (f : SeqF) (s : State) : Host.Outcome State Fault Refusal :=
  .next (s.seqOp t 0x50 f)

/-- TSEQ_START (R305): TSEQ_CTRL written with the value and the start bit. -/
def execTseqStart (a : Agent) (t : TileIx) (v : W32) (s : State) : Host.Outcome State Fault Refusal :=
  .next (s.ctlWrite a t.val 0x800010 (v ||| 1#32))

/-- CODE_COPY_COMPLETE (R304): the copy takes the bundles, sets valid, and bundle 0 may issue. -/
def execCodeCopyComplete (t : TileIx) (s : State) : Host.Outcome State Fault Refusal :=
  .next (s.tileWork t.val (fun e x => if x.seq.st = .loading then codeCopied (toIssue e x) else x))

/-- TSEQ_STOP (R305): TSEQ_CTRL written with the value and the stop bit. -/
def execTseqStop (a : Agent) (t : TileIx) (v : W32) (s : State) : Host.Outcome State Fault Refusal :=
  .next (s.ctlWrite a t.val 0x800010 (v ||| 2#32))

/-- SET_CHECKED_MODE (R314): TSEQ_CTRL written with the value, start and stop clear. -/
def execSetCheckedMode (a : Agent) (t : TileIx) (v : W32) (s : State) : Host.Outcome State Fault Refusal :=
  .next (s.ctlWrite a t.val 0x800010 (v &&& ~~~3#32))

end Sys2Proof.Machine
end

