-- ==== Sys2Proof/Machine/Spdm.lean ====
section
/-! DEFINITION. The SPDM requests (16). The bodies of the responses that SPDM 1.3 fixes are opaque (log entry 9). -/

namespace Sys2Proof.Machine

/-- An SPDM request is served while the endpoint is up; else none arrives (R448). -/
def State.spdmReq (s : State) (f : State → State) : State := if s.pci.up then f s else s

/-- A response with the body that SPDM 1.3 gives the request. -/
def State.spdmPlain (s : State) (code reqCode : Nat) (req : List Byte) : State :=
  s.spdmReq (fun s => s.spdm code (Config.spdmBody reqCode req))

/-- A request of the session: outside one it receives UnexpectedRequest (R448). -/
def State.spdmIn (s : State) (f : State → State) : State :=
  s.spdmReq (fun s => if s.inSession then f s else s.spdmErr 4)

/-- GET_VERSION (R448). -/
def execGetVersion (s : State) : Host.Outcome State Fault Refusal := .next (s.spdmPlain 0x04 0x84 [])

/-- GET_CAPABILITIES (R448). -/
def execGetCapabilities (s : State) : Host.Outcome State Fault Refusal := .next (s.spdmPlain 0x61 0xE1 [])

/-- NEGOTIATE_ALGORITHMS (R448). -/
def execNegotiateAlgorithms (req : List Byte) (s : State) : Host.Outcome State Fault Refusal := .next (s.spdmPlain 0x63 0xE3 req)

/-- GET_DIGESTS (R448). -/
def execGetDigests (s : State) : Host.Outcome State Fault Refusal := .next (s.spdmPlain 0x01 0x81 [])

/-- GET_CERTIFICATE (R447, R448). -/
def execGetCertificate (req : List Byte) (s : State) : Host.Outcome State Fault Refusal := .next (s.spdmPlain 0x02 0x82 req)

/-- CHALLENGE (R448): a signed answer, whose nonce comes from the entropy source. -/
def execChallenge (req : List Byte) (s : State) : Host.Outcome State Fault Refusal :=
  .next (s.spdmReq (fun s =>
    ({ s with drawsEnt := s.drawsEnt + 1 }).spdm 0x03 (Config.spdmBody 0x83 (req ++ leBytes 8 (Config.entropy s.drawsEnt).toNat))))

/-- GET_MEASUREMENTS (R446, R448, R449, R466): indices 1 to 8 return slots 0 to 7, 0xFD the report with the requester's nonce; a report is
refused once a health test has failed. -/
def execGetMeasurements (index : Byte) (nonce : BitVec 256) (s : State) : Host.Outcome State Fault Refusal :=
  .next (s.spdmReq (fun s =>
    let i := index.toNat
    if 1 ≤ i ∧ i ≤ 8 then s.spdm 0x60 (leBytes 48 (tget 0 s.sec.meas (i - 1)).toNat)
    else if i = 0xFD then
      if s.sec.entBad then s.spdmErr 5
      else let r := s.report nonce; r.2.spdm 0x60 r.1
    else if i = 0 ∨ i = 0xFF then s.spdm 0x60 (Config.spdmBody 0xE0 (index :: (List.range 8).flatMap (fun n => leBytes 48 (tget 0 s.sec.meas n).toNat)))
    else s.spdmErr 1))

/-- KEY_EXCHANGE (R448, R466): Busy while a session stands. -/
def execKeyExchange (req : List Byte) (s : State) : Host.Outcome State Fault Refusal :=
  .next (s.spdmReq (fun s =>
    if s.sec.session ≠ .none then s.spdmErr 3
    else if s.sec.entBad then s.spdmErr 5
    else
      ({ s with drawsEnt := s.drawsEnt + 1, sec := { s.sec with session := .handshake } }).spdm 0x64
        (Config.spdmBody 0xE4 (req ++ leBytes 8 (Config.entropy s.drawsEnt).toNat))))

/-- FINISH (R448, R463): the session opens, with no generation installed. -/
def execFinish (req : List Byte) (s : State) : Host.Outcome State Fault Refusal :=
  .next (s.spdmReq (fun s =>
    if s.sec.session ≠ .handshake then s.spdmErr 4
    else
      ({ s with sec := { s.sec with
          session := .open_, sessionNo := s.sec.sessionNo + 1, key0 := KeySlot.zero, key1 := KeySlot.zero, lastGen := none } }).spdm 0x65
        (Config.spdmBody 0xE5 req)))

/-- HEARTBEAT (R448). -/
def execHeartbeat (s : State) : Host.Outcome State Fault Refusal := .next (s.spdmIn (fun s => s.spdm 0x68 (Config.spdmBody 0xE8 [])))

/-- KEY_UPDATE (R448, R463): the bounce keys keep their secret. -/
def execKeyUpdate (s : State) : Host.Outcome State Fault Refusal := .next (s.spdmIn (fun s => s.spdm 0x69 (Config.spdmBody 0xE9 [])))

/-- END_SESSION (R448, R463): the session ends, keys are destroyed and windows cleared. -/
def execEndSession (s : State) : Host.Outcome State Fault Refusal :=
  .next (s.spdmIn (fun s => (s.spdm 0x6C (Config.spdmBody 0xEC [])).endSession))

end Sys2Proof.Machine
end

