-- ==== Sys2Proof/Machine/Special.lean ====
section
/-! DEFINITION. The special-function slot's operations (07). -/

namespace Sys2Proof.Machine

/-- SFN_FUNC (R208). -/
def execSfnFunc (t : TileIx) (f : SfF) (ck : List CheckFail) (s : State) : Host.Outcome State Fault Refusal :=
  .next (s.sfOp t 0 f ck)

/-- SOFTMAX (R221). -/
def execSoftmax (t : TileIx) (f : SfF) (ck : List CheckFail) (s : State) : Host.Outcome State Fault Refusal :=
  .next (s.sfOp t 1 f ck)

/-- RSTAT (R224). -/
def execRstat (t : TileIx) (f : SfF) (ck : List CheckFail) (s : State) : Host.Outcome State Fault Refusal :=
  .next (s.sfOp t 2 f ck)

/-- SFLD (R219). -/
def execSfld (t : TileIx) (f : SfF) (ck : List CheckFail) (s : State) : Host.Outcome State Fault Refusal :=
  .next (s.sfOp t 3 f ck)

end Sys2Proof.Machine
end

