-- ==== Sys2Proof/Machine/Window.lean ====
section
/-! DEFINITION. Register accesses, window requests and EVT messages (00, 03). -/

namespace Sys2Proof.Machine

/-! ### Arrival order on the mesh and the memory network (R97, R322) -/

/-- Whether a request keeps another of its source from passing it: two of one class to one window (R97), or two that overlap in one
stack (R322). -/
def reqHolds (x y : Req) : Bool :=
  let write (r : Req) : Bool := match r.op with | .write _ => true | .read _ => false
  x.src = y.src &&
  (reqOrdered x y || (winBase ≤ x.addr && winBase ≤ y.addr && x.addr / 2 ^ 24 = y.addr / 2 ^ 24 && write x = write y))

/-- Whether a request may arrive now: one of a DMA channel is on its way and none of its source holds it back. -/
def State.mayArrive (s : State) (r : Req) : Bool :=
  match r.src with
  | .tile _ | .sdma _ => s.transit.contains r && (s.transit.takeWhile (· ≠ r)).all (fun x => !reqHolds x r)
  | _ => true

/-- The request has left the network. -/
def State.arrived (s : State) (r : Req) : State := { s with transit := s.transit.erase r }

/-- A window request performed (R101 to R103, R547): access and answer. -/
def State.windowServe (s : State) (r : Req) : State :=
  let x := s.regAccess r.src r.addr r.op
  x.s.respond r x.status x.data

/-! ### EVT messages (R91, R303) -/

/-- Whether a write of a tile's DMA channels awaits its acknowledgement. -/
def Tile.writesOut (t : Tile) : Bool := t.dma.any (fun p => p.2.infl.any (fun b => b.wrs.any (·.st = 1)))

/-- Whether an EVT message may arrive now: a tile's is the first that it has sent to that target, and one that waits for release finds
every write acknowledged (R97, R287, R303). -/
def State.evtDue (s : State) (m : EvtMsg) : Bool :=
  match m.src with
  | .tile t =>
    let x := s.tile t.val
    match x.evOut.find? (fun y => y.1.tgt = m.tgt) with
    | some y => y.1 = m && !(y.2 && x.writesOut)
    | none => false
  | _ => true

/-- A tile's EVT message has left it. -/
def State.evtLeft (s : State) (m : EvtMsg) : State :=
  match m.src with
  | .tile t => s.modTile t.val (fun x => { x with evOut := x.evOut.eraseP (fun y => y.1 = m) })
  | _ => s

/-! ### The commands -/

/-- REGISTER_WRITE (R11, R12, R547). -/
def execRegisterWrite (a : Agent) (addr : Nat) (w8 : Bool) (v : W64) (s : State) : Host.Outcome State Fault Refusal :=
  if addrWf addr then .next (s.putReg a addr w8 v) else .fault .noSuchEvent

/-- RC_REGISTER_READ (R11, R547): the value, then the clear. -/
def execRcRegisterRead (a : Agent) (addr : Nat) (w8 : Bool) (s : State) : Host.Outcome State Fault Refusal :=
  if addrWf addr then .next (s.getReg a addr w8) else .fault .noSuchEvent

/-- WINDOW_REQUEST (R547): a request for an address that holds no memory and no host window arrives. -/
def execWindowRequest (r : Req) (s : State) : Host.Outcome State Fault Refusal :=
  if r.wf = false ∨ r.addr < memEnd ∨ isHost r.addr then .fault .noSuchEvent
  else if s.mayArrive r then .next ((s.arrived r).windowServe r)
  else .next s

/-- EVT_MESSAGE (R91, R100, R101). -/
def execEvtMessage (m : EvtMsg) (s : State) : Host.Outcome State Fault Refusal :=
  if s.evtDue m then .next ((s.evtLeft m).deliverEvt m) else .next s

end Sys2Proof.Machine
end

