-- ==== Sys2Proof/Machine/Stack.lean ====
section
/-! DEFINITION. The commands of the stack controllers (11). -/

namespace Sys2Proof.Machine

/-- The start of the registers of stack k. -/
def stkBase (k : StackIx) : Nat := 0x2000000 + 0x100000 * k.val

/-- STACK_REQUEST (R321, R322, R338, R340, R345, R349, R452). -/
def execStackRequest (r : Req) (s : State) : Host.Outcome State Fault Refusal :=
  if r.wf = false ∨ memEnd ≤ r.addr then .fault .noSuchEvent
  else if s.mayArrive r then .next ((s.arrived r).stackArrive r)
  else .next s

/-- STACK_REQUEST_ISSUE (R325 to R333, R340, R510). -/
def execStackRequestIssue (k : StackIx) (cls : Fin 5) (nth : Nat) (ecc : List (Nat × Nat)) (s : State) : Host.Outcome State Fault Refusal :=
  if eccWf ecc then .next (s.stackIssue k.val cls.val nth ecc) else .fault .noSuchEvent

/-- REGULATOR_REFILL (R340, R342). -/
def execRegulatorRefill (k : StackIx) (s : State) : Host.Outcome State Fault Refusal := .next (s.modStack k.val StkBlk.refill)

/-- REFRESH (R348). -/
def execRefresh (k : StackIx) (bank : Nat) (postpone : Bool) (s : State) : Host.Outcome State Fault Refusal :=
  if bankWf bank then .next (s.modStack k.val (fun b => b.refresh bank postpone)) else .fault .noSuchEvent

/-- SCRUB_STEP (R329). -/
def execScrubStep (k : StackIx) (symbols : Nat) (s : State) : Host.Outcome State Fault Refusal :=
  if symbols ≤ 36 then .next (s.scrubOne k.val symbols) else .fault .noSuchEvent

/-- SCRUB_PERIOD_END (R330, R332): the tracking counts and the rows that have repeated start afresh. -/
def execScrubPeriodEnd (k : StackIx) (s : State) : Host.Outcome State Fault Refusal :=
  .next (s.modStack k.val (fun b => { b with ce := [], ceRep := [] }))

/-- PAGE_RETIRE (R338). -/
def execPageRetire (a : Agent) (k : StackIx) (v : W32) (s : State) : Host.Outcome State Fault Refusal :=
  .next (s.put32 a (stkBase k + 0x100) v)

/-- REMAP_LOAD (R334). -/
def execRemapLoad (a : Agent) (k : StackIx) (v : W64) (s : State) : Host.Outcome State Fault Refusal :=
  .next (s.put64 a (stkBase k + 0x70) v)

/-- FAULT_RECORD_POP (R335). -/
def execFaultRecordPop (a : Agent) (k : StackIx) (v : W32) (s : State) : Host.Outcome State Fault Refusal :=
  .next (s.put32 a (stkBase k + 0x84) v)

/-- THRESHOLD_WRITE (R347). -/
def execThresholdWrite (a : Agent) (k : StackIx) (v : W32) (s : State) : Host.Outcome State Fault Refusal :=
  .next (s.put32 a (stkBase k + 0x10) v)

/-- STACK_THERMAL_SAMPLE (R343 to R345, R497, R542): the level follows, a sample past the trip point trips the device, and a stack that leaves
Clear wakes it from Dusk. -/
def execStackThermalSample (k : StackIx) (temp : Int) (s : State) : Host.Outcome State Fault Refusal :=
  let u := s.stackSample k.val temp
  let u := if u.pin.thermtrip && !s.pin.thermtrip then u.trip else u
  .next (if (s.stack k.val).level < (u.stack k.val).level then u.devWake else u)

/-- STACK_RESUME (R346): a write of STK_CTRL with resume set, the other fields as they stand. -/
def execStackResume (a : Agent) (k : StackIx) (v : W32) (s : State) : Host.Outcome State Fault Refusal :=
  .next (s.put32 a (stkBase k) (v ||| 0x80000000#32))

end Sys2Proof.Machine
end

