-- ==== Sys2Proof/Machine/Stash.lean ====
section
/-! DEFINITION. The commands of the stash directory (08). -/

namespace Sys2Proof.Machine

/-- STASH_CLAIM (R258): HUB_STASHCTLs written with command 1 and the tag. -/
def execStashClaim (a : Agent) (s : Fin 64) (tag : BitVec 20) (st : State) : Host.Outcome State Fault Refusal :=
  .next (st.put32 a (0x40100 + 0x20 * s.val) (0x10000000#32 ||| tag.zeroExtend 32))

/-- STASH_SEAL (R258): command 2. -/
def execStashSeal (a : Agent) (s : Fin 64) (st : State) : Host.Outcome State Fault Refusal :=
  .next (st.put32 a (0x40100 + 0x20 * s.val) 0x20000000#32)

/-- STASH_RELEASE (R258): command 3. -/
def execStashRelease (a : Agent) (s : Fin 64) (st : State) : Host.Outcome State Fault Refusal :=
  .next (st.put32 a (0x40100 + 0x20 * s.val) 0x30000000#32)

/-- STASH_FIELD_WRITE (R260): HUB_STASHBASEs, SIZEs or NRECs written. -/
def execStashFieldWrite (a : Agent) (s : Fin 64) (f : StashField) (v : W64) (st : State) : Host.Outcome State Fault Refusal :=
  match f with
  | .base => .next (st.put64 a (0x40108 + 0x20 * s.val) v)
  | .size => .next (st.put64 a (0x40110 + 0x20 * s.val) v)
  | .nrec => .next (st.put32 a (0x40118 + 0x20 * s.val) (v.truncate 32))

end Sys2Proof.Machine
end

