-- ==== Sys2Proof/Machine/Stratus.lean ====
section
/-! DEFINITION. The commands of the stratus units (12). -/

namespace Sys2Proof.Machine

/-- The start of the registers of stratus unit k. -/
def stratBase (k : StackIx) : Nat := 0x2080000 + 0x100000 * k.val

/-- UPDATE (R370, R435): the stream command. -/
def execUpdate (i : StreamIx) (c : StreamCmd) (s : State) : Host.Outcome State Fault Refusal := .next (s.streamCmd i.val 9 c [] [])

/-- STRATUS_PASS_START (R354, R370). -/
def execStratusPassStart (k : StackIx) (ck : List CheckFail) (s : State) : Host.Outcome State Fault Refusal := .next (s.stratStart k.val ck)

/-- STRATUS_PASS_COMPLETE (R354 to R371). -/
def execStratusPassComplete (k : StackIx) (s : State) : Host.Outcome State Fault Refusal := .next (s.stratFinish k.val)

/-- ADD (R373). -/
def execAdd (k : StackIx) (c : StratChunk) (s : State) : Host.Outcome State Fault Refusal := .next (s.offerChunk k.val 0 c)

/-- FINAL_ADD (R373, R374). -/
def execFinalAdd (k : StackIx) (c : StratChunk) (s : State) : Host.Outcome State Fault Refusal := .next (s.offerChunk k.val 1 c)

/-- FINAL_SET (R373, R374). -/
def execFinalSet (k : StackIx) (c : StratChunk) (s : State) : Host.Outcome State Fault Refusal := .next (s.offerChunk k.val 2 c)

/-- STRATUS_RESEED (R359, R376): a write of STRAT_CTRL with reseed set. -/
def execStratusReseed (a : Agent) (k : StackIx) (v : W32) (s : State) : Host.Outcome State Fault Refusal :=
  .next (s.put32 a (stratBase k) (v ||| 1#32))

/-- STRATUS_RESEED_COMPLETE (R359): the self-clearing bit reads 0 again. -/
def execStratusReseedComplete (k : StackIx) (s : State) : Host.Outcome State Fault Refusal :=
  .next (s.setUnit k.val { s.unit k.val with reseedBusy := false })

end Sys2Proof.Machine
end

