-- ==== Sys2Proof/Machine/Stream.lean ====
section
/-! DEFINITION. The commands of the stream engine (15). -/

namespace Sys2Proof.Machine

/-- STREAM_OPEN (R430, R459): command 1 written to STREAM_CMD. -/
def execStreamOpen (a : Agent) (s : State) : Host.Outcome State Fault Refusal := .next (s.put32 a 0x3800010 1#32)

/-- STREAM_CLOSE (R430): command 2. -/
def execStreamClose (a : Agent) (s : State) : Host.Outcome State Fault Refusal := .next (s.put32 a 0x3800010 2#32)

/-- STREAM_RESUME (R430): command 3. -/
def execStreamResume (a : Agent) (s : State) : Host.Outcome State Fault Refusal := .next (s.put32 a 0x3800010 3#32)

/-- STREAM_DOORBELL (R431): the tail index written to the stream's doorbell. -/
def execStreamDoorbell (a : Agent) (i : StreamIx) (v : W32) (s : State) : Host.Outcome State Fault Refusal :=
  .next (s.put32 a (0x3810000 + 4 * i.val) v)

/-- HAMPER_FETCH (R432). -/
def execHamperFetch (i : StreamIx) (s : State) : Host.Outcome State Fault Refusal := .next (s.servePending i.val)

/-- COMMAND_DISPATCH (R430, R433 to R435): the engine fetches and starts the next command of the stream whose turn it is. -/
def execCommandDispatch (host : List PByte) (s : State) : Host.Outcome State Fault Refusal := .next (s.firstStart host s.readyStreams)

/-- NOP (R435). -/
def execNop (i : StreamIx) (c : StreamCmd) (s : State) : Host.Outcome State Fault Refusal := .next (s.streamCmd i.val 0 c [] [])

/-- COPY (R380, R435): a system channel copies for the stream. -/
def execCopy (i : StreamIx) (c : StreamCmd) (s : State) : Host.Outcome State Fault Refusal := .next (s.streamCmd i.val 3 c [] [])

/-- SEAL (R462, R464, R465). -/
def execSeal (i : StreamIx) (c : StreamCmd) (s : State) : Host.Outcome State Fault Refusal := .next (s.streamCmd i.val 4 c [] [])

/-- SIGNAL (R435): a stream event counter is set or added to. -/
def execSignal (i : StreamIx) (c : StreamCmd) (s : State) : Host.Outcome State Fault Refusal := .next (s.streamCmd i.val 6 c [] [])

/-- WAIT (R435): complete when the counter has reached the threshold, else WAITING. -/
def execWait (i : StreamIx) (c : StreamCmd) (s : State) : Host.Outcome State Fault Refusal := .next (s.streamCmd i.val 7 c [] [])

/-- BARRIER (R435). -/
def execBarrier (i : StreamIx) (c : StreamCmd) (s : State) : Host.Outcome State Fault Refusal := .next (s.streamCmd i.val 8 c [] [])

/-- CONVOY (R405, R435). -/
def execConvoy (i : StreamIx) (c : StreamCmd) (s : State) : Host.Outcome State Fault Refusal := .next (s.streamCmd i.val 0xa c [] [])

/-- RECONCILE (R419, R435). -/
def execReconcile (i : StreamIx) (c : StreamCmd) (s : State) : Host.Outcome State Fault Refusal := .next (s.streamCmd i.val 0xb c [] [])

/-- LAUNCH (R291, R292, R435). -/
def execLaunch (i : StreamIx) (c : StreamCmd) (s : State) : Host.Outcome State Fault Refusal := .next (s.streamCmd i.val 1 c [] [])

/-- LAUNCH_COMPLETE (R306, R435, R437). -/
def execLaunchComplete (i : StreamIx) (s : State) : Host.Outcome State Fault Refusal := .next (s.endLaunch i.val)

/-- PATCH (R292, R435): `host` is what the host supplies for an entry list in its memory. -/
def execPatch (i : StreamIx) (c : StreamCmd) (host : List PByte) (s : State) : Host.Outcome State Fault Refusal :=
  .next (s.streamCmd i.val 2 c host [])

/-- UNSEAL (R462, R464, R465): the command starts with the chunks that the host supplies, or a running one takes more of them. -/
def execUnseal (i : StreamIx) (c : StreamCmd) (host : List (List PByte × List PByte)) (s : State) : Host.Outcome State Fault Refusal :=
  match (s.entry i.val).run with
  | some (c', .crypt slot gen n j) =>
    .next (if withOp c 5 = c' then s.unsealGo i.val c' slot gen n j host else s)
  | _ => .next (s.streamCmd i.val 5 c [] host)

/-- WAIT_SATISFIED (R430, R435). -/
def execWaitSatisfied (i : StreamIx) (s : State) : Host.Outcome State Fault Refusal := .next (s.waitDone i.val)

/-- WAIT_TIMEOUT (R435, R437). -/
def execWaitTimeout (i : StreamIx) (s : State) : Host.Outcome State Fault Refusal := .next (s.waitTimeout i.val)

end Sys2Proof.Machine
end

