-- ==== Sys2Proof/Machine/Translator.lean ====
section
/-! DEFINITION. The translator's requests, and the requests of translated code to the convoy engine and the stratus units (09). -/

namespace Sys2Proof.Machine

/-- NPC_REQUEST_WRITE (R265). -/
def execNpcRequestWrite (a : Agent) (p : PartIx) (v : W64) (s : State) : Host.Outcome State Fault Refusal :=
  .next (s.put64 a (0x50000 + 0x20 * p.val) v)

/-- NPC_LOAD (R265, R268, R291, R293): the doorbell; the request block says that it is a load. -/
def execNpcLoad (a : Agent) (p : PartIx) (s : State) : Host.Outcome State Fault Refusal :=
  .next (s.put32 a (0x50008 + 0x20 * p.val) 1#32)

/-- NPC_UNLOAD (R265, R269): the doorbell; the request block says that it is an unload. -/
def execNpcUnload (a : Agent) (p : PartIx) (s : State) : Host.Outcome State Fault Refusal :=
  .next (s.put32 a (0x50008 + 0x20 * p.val) 1#32)

/-- NPC_REQUEST_COMPLETE (R265, R473). -/
def execNpcRequestComplete (p : PartIx) (s : State) : Host.Outcome State Fault Refusal := .next (s.npcComplete p.val)

/-- COLL (R288, R405): a tile's collective is queued; it is held back while 64 wait, and a gated engine takes none (R489). -/
def execColl (t : TileIx) (r : CollReq) (off : Nat) (ev : Fin 16) (s : State) : Host.Outcome State Fault Refusal :=
  if s.hubEn 2 then .next ((s.queueColl (partOfTile s.partMode t.val) (s.ctxOf t.val) r (.tile t off ev)).getD s)
  else .next s

/-- UPD (R289, R368, R370): a tile's update is queued on the twelve units; it is held back while a queue is full. -/
def execUpd (t : TileIx) (group : BitVec 32) (step : W64) (off : Nat) (ev : Fin 16) (s : State) : Host.Outcome State Fault Refusal :=
  .next ((s.queueUpdate (partOfTile s.partMode t.val) (s.ctxOf t.val) group.toNat step (.tile t off ev)).getD s)

end Sys2Proof.Machine
end

