-- ==== Sys2Proof/Machine/Vector.lean ====
section
/-! DEFINITION. The vector engine's commands (05, 06, 08). -/

namespace Sys2Proof.Machine

/-- VADD (R176). -/
def execVadd (t : TileIx) (f : VecF) (ck : List CheckFail) (s : State) : Host.Outcome State Fault Refusal :=
  .next (s.veOp t .add f ck)

/-- VSUB (R176). -/
def execVsub (t : TileIx) (f : VecF) (ck : List CheckFail) (s : State) : Host.Outcome State Fault Refusal :=
  .next (s.veOp t .sub f ck)

/-- VMUL (R176). -/
def execVmul (t : TileIx) (f : VecF) (ck : List CheckFail) (s : State) : Host.Outcome State Fault Refusal :=
  .next (s.veOp t .mul f ck)

/-- VFMA (R176). -/
def execVfma (t : TileIx) (f : VecF) (ck : List CheckFail) (s : State) : Host.Outcome State Fault Refusal :=
  .next (s.veOp t .fma f ck)

/-- VFMS (R176). -/
def execVfms (t : TileIx) (f : VecF) (ck : List CheckFail) (s : State) : Host.Outcome State Fault Refusal :=
  .next (s.veOp t .fms f ck)

/-- VNEG (R176). -/
def execVneg (t : TileIx) (f : VecF) (ck : List CheckFail) (s : State) : Host.Outcome State Fault Refusal :=
  .next (s.veOp t .neg f ck)

/-- VABS (R176). -/
def execVabs (t : TileIx) (f : VecF) (ck : List CheckFail) (s : State) : Host.Outcome State Fault Refusal :=
  .next (s.veOp t .abs f ck)

/-- VAND (R176). -/
def execVand (t : TileIx) (f : VecF) (ck : List CheckFail) (s : State) : Host.Outcome State Fault Refusal :=
  .next (s.veOp t .and f ck)

/-- VOR (R176). -/
def execVor (t : TileIx) (f : VecF) (ck : List CheckFail) (s : State) : Host.Outcome State Fault Refusal :=
  .next (s.veOp t .or f ck)

/-- VXOR (R176). -/
def execVxor (t : TileIx) (f : VecF) (ck : List CheckFail) (s : State) : Host.Outcome State Fault Refusal :=
  .next (s.veOp t .xor f ck)

/-- VSHL (R549). -/
def execVshl (t : TileIx) (f : VecF) (ck : List CheckFail) (s : State) : Host.Outcome State Fault Refusal :=
  .next (s.veOp t .shl f ck)

/-- VSHR (R549). -/
def execVshr (t : TileIx) (f : VecF) (ck : List CheckFail) (s : State) : Host.Outcome State Fault Refusal :=
  .next (s.veOp t .shr f ck)

/-- VMAC (R549). -/
def execVmac (t : TileIx) (f : VecF) (ck : List CheckFail) (s : State) : Host.Outcome State Fault Refusal :=
  .next (s.veOp t .mac f ck)

/-- VMAX (R44). -/
def execVmax (t : TileIx) (f : VecF) (ck : List CheckFail) (s : State) : Host.Outcome State Fault Refusal :=
  .next (s.veOp t .max f ck)

/-- VMIN (R44). -/
def execVmin (t : TileIx) (f : VecF) (ck : List CheckFail) (s : State) : Host.Outcome State Fault Refusal :=
  .next (s.veOp t .min f ck)

/-- VCMP (R177). -/
def execVcmp (t : TileIx) (f : VecF) (ck : List CheckFail) (s : State) : Host.Outcome State Fault Refusal :=
  .next (s.veOp t .cmp f ck)

/-- VSEL (R177). -/
def execVsel (t : TileIx) (f : VecF) (ck : List CheckFail) (s : State) : Host.Outcome State Fault Refusal :=
  .next (s.veOp t .sel f ck)

/-- VMOV (R176). -/
def execVmov (t : TileIx) (f : VecF) (ck : List CheckFail) (s : State) : Host.Outcome State Fault Refusal :=
  .next (s.veOp t .mov f ck)

/-- VBCAST (R176). -/
def execVbcast (t : TileIx) (f : VecF) (ck : List CheckFail) (s : State) : Host.Outcome State Fault Refusal :=
  .next (s.veOp t .bcast f ck)

/-- VCVT (R38). -/
def execVcvt (t : TileIx) (f : VecF) (ck : List CheckFail) (s : State) : Host.Outcome State Fault Refusal :=
  .next (s.veOp t .cvt f ck)

/-- VPERM (R176). -/
def execVperm (t : TileIx) (f : VecF) (ck : List CheckFail) (s : State) : Host.Outcome State Fault Refusal :=
  .next (s.veOp t .perm f ck)

/-- VSEGRED (R178): a segmented sum, maximum or minimum. -/
def execVsegred (t : TileIx) (kind : Fin 3) (f : VecF) (ck : List CheckFail) (s : State) : Host.Outcome State Fault Refusal :=
  .next (s.veOp t (match kind with | 0 => .segSum | 1 => .segMax | 2 => .segMin) f ck)

/-- VSUM (R179). -/
def execVsum (t : TileIx) (f : VecF) (ck : List CheckFail) (s : State) : Host.Outcome State Fault Refusal :=
  .next (s.veOp t .summary f ck)

/-- VRNG (R192). -/
def execVrng (t : TileIx) (f : VecF) (ck : List CheckFail) (s : State) : Host.Outcome State Fault Refusal :=
  .next (s.veOp t .rng f ck)

/-- VDROP (R192). -/
def execVdrop (t : TileIx) (f : VecF) (ck : List CheckFail) (s : State) : Host.Outcome State Fault Refusal :=
  .next (s.veOp t .drop f ck)

/-- SUMMARY_BROADCAST_CLEAR (R171): the vector control operation of that name. -/
def execSummaryBroadcastClear (t : TileIx) (s : State) : Host.Outcome State Fault Refusal :=
  .next (s.veOp t .sumClear ⟨false, 0, 0, 0, 0, 0, 0, 0, 0, 0, 0, 0, 0, 0, false, false, 0⟩ [])

/-- PTLD (R194). -/
def execPtld (t : TileIx) (f : VecF) (ck : List CheckFail) (s : State) : Host.Outcome State Fault Refusal :=
  .next (s.veOp t .ptld f ck)

/-- PTMAC (R195). -/
def execPtmac (t : TileIx) (f : VecF) (ck : List CheckFail) (s : State) : Host.Outcome State Fault Refusal :=
  .next (s.veOp t .ptmac f ck)

/-- PTSWAP (R196): live and shadow banks change places. -/
def execPtswap (t : TileIx) (f : VecF) (s : State) : Host.Outcome State Fault Refusal :=
  .next (s.veOp t .ptswap f [])

/-- RCMB (R188). -/
def execRcmb (t : TileIx) (f : VecF) (ck : List CheckFail) (s : State) : Host.Outcome State Fault Refusal :=
  .next (s.veOp t .rcmb f ck)

/-- EXPAND (R187). -/
def execExpand (t : TileIx) (f : VecF) (ck : List CheckFail) (s : State) : Host.Outcome State Fault Refusal :=
  .next (s.veOp t .expand f ck)

/-- VLD (R186). -/
def execVld (t : TileIx) (f : LsF) (s : State) : Host.Outcome State Fault Refusal :=
  .next (s.lsOp t 1 f)

/-- VLDS (R186). -/
def execVldS (t : TileIx) (f : LsF) (s : State) : Host.Outcome State Fault Refusal :=
  .next (s.lsOp t 2 f)

/-- VST (R186). -/
def execVst (t : TileIx) (f : LsF) (s : State) : Host.Outcome State Fault Refusal :=
  .next (s.lsOp t 3 f)

/-- VSTZ (R157). -/
def execVstZ (t : TileIx) (f : LsF) (s : State) : Host.Outcome State Fault Refusal :=
  .next (s.lsOp t 4 f)

/-- VECTOR_CLEAR (R201): TVE_CTRL written with the value and the clr bit. -/
def execVectorClear (a : Agent) (t : TileIx) (v : W32) (s : State) : Host.Outcome State Fault Refusal :=
  .next (s.ctlWrite a t.val 0x820000 (v ||| 1#32))

/-- RNG_RESEED (R191): TVE_RNGCTL written with the value and the reseed bit. -/
def execRngReseed (a : Agent) (t : TileIx) (v : W32) (s : State) : Host.Outcome State Fault Refusal :=
  .next (s.ctlWrite a t.val 0x820010 (v ||| 1#32))

/-- OPERATION_RETIRE (R306, R307): the cycles up to and with the next retirement pass. -/
def execOperationRetire (t : TileIx) (s : State) : Host.Outcome State Fault Refusal :=
  .next (s.tileWork t.val (fun e x => retireNext e x))

/-- RNG_RESEED_COMPLETE (R191): busy clears. -/
def execRngReseedComplete (t : TileIx) (s : State) : Host.Outcome State Fault Refusal :=
  .next (s.modTile t.val (fun x => { x with ve := { x.ve with rngBusy := false } }))

/-- VECTOR_CLEAR_COMPLETE (R201): busy clears. -/
def execVectorClearComplete (t : TileIx) (s : State) : Host.Outcome State Fault Refusal :=
  .next (s.modTile t.val (fun x => { x with ve := { x.ve with clrBusy := false } }))

end Sys2Proof.Machine
end

