-- ==== Sys2Proof/Machine/Dispatch.lean ====
section
/-! DEFINITION. One arm per command: the meaning of each, called directly. -/

namespace Sys2Proof.Machine

/-- The effect of a command on everything but the queue. -/
def exec (i : Instr) (s : State) : Host.Outcome State Fault Refusal :=
  match i with
  | .registerWrite a addr w8 v => Sys2Proof.Machine.execRegisterWrite a addr w8 v s
  | .rcRegisterRead a addr w8 => Sys2Proof.Machine.execRcRegisterRead a addr w8 s
  | .windowRequest r => Sys2Proof.Machine.execWindowRequest r s
  | .evtMessage m => Sys2Proof.Machine.execEvtMessage m s
  | .bundleIssue t ck => Sys2Proof.Machine.execBundleIssue t ck s
  | .halt t => Sys2Proof.Machine.execHalt t s
  | .trap t f => Sys2Proof.Machine.execTrap t f s
  | .seqMov t f => Sys2Proof.Machine.execSeqMov t f s
  | .seqAdd t f => Sys2Proof.Machine.execSeqAdd t f s
  | .seqSub t f => Sys2Proof.Machine.execSeqSub t f s
  | .seqMul t f => Sys2Proof.Machine.execSeqMul t f s
  | .seqAnd t f => Sys2Proof.Machine.execSeqAnd t f s
  | .seqOr t f => Sys2Proof.Machine.execSeqOr t f s
  | .seqXor t f => Sys2Proof.Machine.execSeqXor t f s
  | .seqShl t f => Sys2Proof.Machine.execSeqShl t f s
  | .seqShr t f => Sys2Proof.Machine.execSeqShr t f s
  | .seqSra t f => Sys2Proof.Machine.execSeqSra t f s
  | .seqMin t f => Sys2Proof.Machine.execSeqMin t f s
  | .seqMax t f => Sys2Proof.Machine.execSeqMax t f s
  | .seqMinu t f => Sys2Proof.Machine.execSeqMinu t f s
  | .seqMaxu t f => Sys2Proof.Machine.execSeqMaxu t f s
  | .movh t f => Sys2Proof.Machine.execMovh t f s
  | .rdid t f => Sys2Proof.Machine.execRdid t f s
  | .ld t f => Sys2Proof.Machine.execLd t f s
  | .st t f => Sys2Proof.Machine.execSt t f s
  | .br t f => Sys2Proof.Machine.execBr t f s
  | .bcc t f => Sys2Proof.Machine.execBcc t f s
  | .bcnd t f => Sys2Proof.Machine.execBcnd t f s
  | .loop t f => Sys2Proof.Machine.execLoop t f s
  | .seqWait t f => Sys2Proof.Machine.execSeqWait t f s
  | .waitResume t cycles => Sys2Proof.Machine.execWaitResume t cycles s
  | .fence t f => Sys2Proof.Machine.execFence t f s
  | .fenceResume t cycles => Sys2Proof.Machine.execFenceResume t cycles s
  | .waitLimitTimeout t => Sys2Proof.Machine.execWaitLimitTimeout t s
  | .cmpset t f => Sys2Proof.Machine.execCmpset t f s
  | .evset t f => Sys2Proof.Machine.execEvset t f s
  | .evadd t f => Sys2Proof.Machine.execEvadd t f s
  | .sig t f => Sys2Proof.Machine.execSig t f s
  | .hsig t f => Sys2Proof.Machine.execHsig t f s
  | .phase t f => Sys2Proof.Machine.execPhase t f s
  | .phaseExportRecord m => Sys2Proof.Machine.execPhaseExportRecord m s
  | .phaseTimerClear a t n => Sys2Proof.Machine.execPhaseTimerClear a t n s
  | .hubPhaseStart a n => Sys2Proof.Machine.execHubPhaseStart a n s
  | .hubPhaseStop a n => Sys2Proof.Machine.execHubPhaseStop a n s
  | .traceUnfreeze a => Sys2Proof.Machine.execTraceUnfreeze a s
  | .tseqStart a t v => Sys2Proof.Machine.execTseqStart a t v s
  | .codeCopyComplete t => Sys2Proof.Machine.execCodeCopyComplete t s
  | .tseqStop a t v => Sys2Proof.Machine.execTseqStop a t v s
  | .setCheckedMode a t v => Sys2Proof.Machine.execSetCheckedMode a t v s
  | .mma t f ck => Sys2Proof.Machine.execMma t f ck s
  | .accld t f ck => Sys2Proof.Machine.execAccld t f ck s
  | .accst t f => Sys2Proof.Machine.execAccst t f s
  | .pendingOperationStart t arr ck => Sys2Proof.Machine.execPendingOperationStart t arr ck s
  | .arrayEnableWrite a t v => Sys2Proof.Machine.execArrayEnableWrite a t v s
  | .drizzleOpen a t v => Sys2Proof.Machine.execDrizzleOpen a t v s
  | .drizzleClose a t v => Sys2Proof.Machine.execDrizzleClose a t v s
  | .drizzleAbort a t v => Sys2Proof.Machine.execDrizzleAbort a t v s
  | .vadd t f ck => Sys2Proof.Machine.execVadd t f ck s
  | .vsub t f ck => Sys2Proof.Machine.execVsub t f ck s
  | .vmul t f ck => Sys2Proof.Machine.execVmul t f ck s
  | .vfma t f ck => Sys2Proof.Machine.execVfma t f ck s
  | .vfms t f ck => Sys2Proof.Machine.execVfms t f ck s
  | .vneg t f ck => Sys2Proof.Machine.execVneg t f ck s
  | .vabs t f ck => Sys2Proof.Machine.execVabs t f ck s
  | .vand t f ck => Sys2Proof.Machine.execVand t f ck s
  | .vor t f ck => Sys2Proof.Machine.execVor t f ck s
  | .vxor t f ck => Sys2Proof.Machine.execVxor t f ck s
  | .vshl t f ck => Sys2Proof.Machine.execVshl t f ck s
  | .vshr t f ck => Sys2Proof.Machine.execVshr t f ck s
  | .vmac t f ck => Sys2Proof.Machine.execVmac t f ck s
  | .vmax t f ck => Sys2Proof.Machine.execVmax t f ck s
  | .vmin t f ck => Sys2Proof.Machine.execVmin t f ck s
  | .vcmp t f ck => Sys2Proof.Machine.execVcmp t f ck s
  | .vsel t f ck => Sys2Proof.Machine.execVsel t f ck s
  | .vmov t f ck => Sys2Proof.Machine.execVmov t f ck s
  | .vbcast t f ck => Sys2Proof.Machine.execVbcast t f ck s
  | .vcvt t f ck => Sys2Proof.Machine.execVcvt t f ck s
  | .vperm t f ck => Sys2Proof.Machine.execVperm t f ck s
  | .vsegred t kind f ck => Sys2Proof.Machine.execVsegred t kind f ck s
  | .vsum t f ck => Sys2Proof.Machine.execVsum t f ck s
  | .vrng t f ck => Sys2Proof.Machine.execVrng t f ck s
  | .vdrop t f ck => Sys2Proof.Machine.execVdrop t f ck s
  | .summaryBroadcastClear t => Sys2Proof.Machine.execSummaryBroadcastClear t s
  | .ptld t f ck => Sys2Proof.Machine.execPtld t f ck s
  | .ptmac t f ck => Sys2Proof.Machine.execPtmac t f ck s
  | .ptswap t f => Sys2Proof.Machine.execPtswap t f s
  | .rcmb t f ck => Sys2Proof.Machine.execRcmb t f ck s
  | .expand t f ck => Sys2Proof.Machine.execExpand t f ck s
  | .vld t f => Sys2Proof.Machine.execVld t f s
  | .vldS t f => Sys2Proof.Machine.execVldS t f s
  | .vst t f => Sys2Proof.Machine.execVst t f s
  | .vstZ t f => Sys2Proof.Machine.execVstZ t f s
  | .vectorClear a t v => Sys2Proof.Machine.execVectorClear a t v s
  | .rngReseed a t v => Sys2Proof.Machine.execRngReseed a t v s
  | .sfnFunc t f ck => Sys2Proof.Machine.execSfnFunc t f ck s
  | .softmax t f ck => Sys2Proof.Machine.execSoftmax t f ck s
  | .rstat t f ck => Sys2Proof.Machine.execRstat t f ck s
  | .sfld t f ck => Sys2Proof.Machine.execSfld t f ck s
  | .claim r a v => Sys2Proof.Machine.execClaim r a v s
  | .release r a v => Sys2Proof.Machine.execRelease r a v s
  | .evtIoFallingEdge => Sys2Proof.Machine.execEvtIoFallingEdge s
  | .dmaStart b a => Sys2Proof.Machine.execDmaStart b a s
  | .dmaAbort c a => Sys2Proof.Machine.execDmaAbort c a s
  | .dmaDisable c a => Sys2Proof.Machine.execDmaDisable c a s
  | .dmaBurstIssue c => Sys2Proof.Machine.execDmaBurstIssue c s
  | .dmaResponse c k => Sys2Proof.Machine.execDmaResponse c k s
  | .dmaRetryReissue c burst => Sys2Proof.Machine.execDmaRetryReissue c burst s
  | .stashClaim a x tag => Sys2Proof.Machine.execStashClaim a x tag s
  | .stashSeal a x => Sys2Proof.Machine.execStashSeal a x s
  | .stashRelease a x => Sys2Proof.Machine.execStashRelease a x s
  | .stashFieldWrite a x f v => Sys2Proof.Machine.execStashFieldWrite a x f v s
  | .npcRequestWrite a p v => Sys2Proof.Machine.execNpcRequestWrite a p v s
  | .npcLoad a p => Sys2Proof.Machine.execNpcLoad a p s
  | .npcUnload a p => Sys2Proof.Machine.execNpcUnload a p s
  | .npcRequestComplete p => Sys2Proof.Machine.execNpcRequestComplete p s
  | .coll t r off ev => Sys2Proof.Machine.execColl t r off ev s
  | .upd t group step off ev => Sys2Proof.Machine.execUpd t group step off ev s
  | .stackRequest r => Sys2Proof.Machine.execStackRequest r s
  | .stackRequestIssue k cls nth ecc => Sys2Proof.Machine.execStackRequestIssue k cls nth ecc s
  | .regulatorRefill k => Sys2Proof.Machine.execRegulatorRefill k s
  | .refresh k bank postpone => Sys2Proof.Machine.execRefresh k bank postpone s
  | .scrubStep k symbols => Sys2Proof.Machine.execScrubStep k symbols s
  | .scrubPeriodEnd k => Sys2Proof.Machine.execScrubPeriodEnd k s
  | .pageRetire a k v => Sys2Proof.Machine.execPageRetire a k v s
  | .remapLoad a k v => Sys2Proof.Machine.execRemapLoad a k v s
  | .faultRecordPop a k v => Sys2Proof.Machine.execFaultRecordPop a k v s
  | .thresholdWrite a k v => Sys2Proof.Machine.execThresholdWrite a k v s
  | .stackThermalSample k temp => Sys2Proof.Machine.execStackThermalSample k temp s
  | .stackResume a k v => Sys2Proof.Machine.execStackResume a k v s
  | .update x c => Sys2Proof.Machine.execUpdate x c s
  | .stratusPassStart k ck => Sys2Proof.Machine.execStratusPassStart k ck s
  | .stratusPassComplete k => Sys2Proof.Machine.execStratusPassComplete k s
  | .add k c => Sys2Proof.Machine.execAdd k c s
  | .finalAdd k c => Sys2Proof.Machine.execFinalAdd k c s
  | .finalSet k c => Sys2Proof.Machine.execFinalSet k c s
  | .stratusReseed a k v => Sys2Proof.Machine.execStratusReseed a k v s
  | .portEnable a n => Sys2Proof.Machine.execPortEnable a n s
  | .portDisable a n => Sys2Proof.Machine.execPortDisable a n s
  | .portRetrain a n => Sys2Proof.Machine.execPortRetrain a n s
  | .trainingComplete n peerId peerPort => Sys2Proof.Machine.execTrainingComplete n peerId peerPort s
  | .trainingTimeout n => Sys2Proof.Machine.execTrainingTimeout n s
  | .keepaliveSend n => Sys2Proof.Machine.execKeepaliveSend n s
  | .keepaliveWindow n => Sys2Proof.Machine.execKeepaliveWindow n s
  | .data n c => Sys2Proof.Machine.execData n c s
  | .ctrl n c => Sys2Proof.Machine.execCtrl n c s
  | .nak n ack => Sys2Proof.Machine.execNak n ack s
  | .keepalive n c => Sys2Proof.Machine.execKeepalive n c s
  | .collectiveStart => Sys2Proof.Machine.execCollectiveStart s
  | .ready n m r => Sys2Proof.Machine.execReady n m r s
  | .chunk n m c => Sys2Proof.Machine.execChunk n m c s
  | .refuse n m epoch => Sys2Proof.Machine.execRefuse n m epoch s
  | .abort n m c => Sys2Proof.Machine.execAbort n m c s
  | .memberFail n m c => Sys2Proof.Machine.execMemberFail n m c s
  | .slow n m c => Sys2Proof.Machine.execSlow n m c s
  | .slowRepeat k => Sys2Proof.Machine.execSlowRepeat k s
  | .convoyTimeout fgid rank => Sys2Proof.Machine.execConvoyTimeout fgid rank s
  | .collectiveComplete fgid => Sys2Proof.Machine.execCollectiveComplete fgid s
  | .streamOpen a => Sys2Proof.Machine.execStreamOpen a s
  | .streamClose a => Sys2Proof.Machine.execStreamClose a s
  | .streamResume a => Sys2Proof.Machine.execStreamResume a s
  | .streamDoorbell a x v => Sys2Proof.Machine.execStreamDoorbell a x v s
  | .hamperFetch x => Sys2Proof.Machine.execHamperFetch x s
  | .commandDispatch host => Sys2Proof.Machine.execCommandDispatch host s
  | .nop x c => Sys2Proof.Machine.execNop x c s
  | .launch x c => Sys2Proof.Machine.execLaunch x c s
  | .launchComplete x => Sys2Proof.Machine.execLaunchComplete x s
  | .patch x c host => Sys2Proof.Machine.execPatch x c host s
  | .copy x c => Sys2Proof.Machine.execCopy x c s
  | .seal x c => Sys2Proof.Machine.execSeal x c s
  | .unseal x c host => Sys2Proof.Machine.execUnseal x c host s
  | .signal x c => Sys2Proof.Machine.execSignal x c s
  | .wait x c => Sys2Proof.Machine.execWait x c s
  | .waitSatisfied x => Sys2Proof.Machine.execWaitSatisfied x s
  | .waitTimeout x => Sys2Proof.Machine.execWaitTimeout x s
  | .barrier x c => Sys2Proof.Machine.execBarrier x c s
  | .convoy x c => Sys2Proof.Machine.execConvoy x c s
  | .reconcile x c => Sys2Proof.Machine.execReconcile x c s
  | .bar0Access b => Sys2Proof.Machine.execBar0Access b s
  | .bar2Access b => Sys2Proof.Machine.execBar2Access b s
  | .msixVectorWrite vec word v => Sys2Proof.Machine.execMsixVectorWrite vec word v s
  | .hostCompletion id ok d => Sys2Proof.Machine.execHostCompletion id ok d s
  | .hostCompletionTimeout id => Sys2Proof.Machine.execHostCompletionTimeout id s
  | .pcieLinkUp width rate => Sys2Proof.Machine.execPcieLinkUp width rate s
  | .pcieLinkDown => Sys2Proof.Machine.execPcieLinkDown s
  | .hostLost => Sys2Proof.Machine.execHostLost s
  | .getVersion => Sys2Proof.Machine.execGetVersion s
  | .getCapabilities => Sys2Proof.Machine.execGetCapabilities s
  | .negotiateAlgorithms req => Sys2Proof.Machine.execNegotiateAlgorithms req s
  | .getDigests => Sys2Proof.Machine.execGetDigests s
  | .getCertificate req => Sys2Proof.Machine.execGetCertificate req s
  | .challenge req => Sys2Proof.Machine.execChallenge req s
  | .getMeasurements index nonce => Sys2Proof.Machine.execGetMeasurements index nonce s
  | .keyExchange req => Sys2Proof.Machine.execKeyExchange req s
  | .finish req => Sys2Proof.Machine.execFinish req s
  | .heartbeat => Sys2Proof.Machine.execHeartbeat s
  | .keyUpdate => Sys2Proof.Machine.execKeyUpdate s
  | .endSession => Sys2Proof.Machine.execEndSession s
  | .confEnter => Sys2Proof.Machine.execConfEnter s
  | .windowSet w data hdr chunks part ctx => Sys2Proof.Machine.execWindowSet w data hdr chunks part ctx s
  | .windowClear w => Sys2Proof.Machine.execWindowClear w s
  | .keyInstall g => Sys2Proof.Machine.execKeyInstall g s
  | .keyRetire g => Sys2Proof.Machine.execKeyRetire g s
  | .regWrite off v => Sys2Proof.Machine.execRegWrite off v s
  | .regRead off => Sys2Proof.Machine.execRegRead off s
  | .measurementExtend a v => Sys2Proof.Machine.execMeasurementExtend a v s
  | .tileClear a v => Sys2Proof.Machine.execTileClear a v s
  | .entropyHealthFail => Sys2Proof.Machine.execEntropyHealthFail s
  | .powerOn p => Sys2Proof.Machine.execPowerOn p s
  | .powerOff p => Sys2Proof.Machine.execPowerOff p s
  | .stage p slot image => Sys2Proof.Machine.execStage p slot image s
  | .svnCommit p => Sys2Proof.Machine.execSvnCommit p s
  | .revoke p erev lrev => Sys2Proof.Machine.execRevoke p erev lrev s
  | .debugToken p uid nonce token => Sys2Proof.Machine.execDebugToken p uid nonce token s
  | .layout p mode => Sys2Proof.Machine.execLayout p mode s
  | .devid p v => Sys2Proof.Machine.execDevid p v s
  | .telemetry p => Sys2Proof.Machine.execTelemetry p s
  | .faultlog p => Sys2Proof.Machine.execFaultlog p s
  | .attest p nonce => Sys2Proof.Machine.execAttest p nonce s
  | .anchorSet p slot anchor => Sys2Proof.Machine.execAnchorSet p slot anchor s
  | .lookoutHeartbeat => Sys2Proof.Machine.execLookoutHeartbeat s
  | .lookoutMailboxRequest a v => Sys2Proof.Machine.execLookoutMailboxRequest a v s
  | .lookoutMailboxReply v => Sys2Proof.Machine.execLookoutMailboxReply v s
  | .interruptLevelChange => Sys2Proof.Machine.execInterruptLevelChange s
  | .icuClaim a n => Sys2Proof.Machine.execIcuClaim a n s
  | .icuComplete a n src => Sys2Proof.Machine.execIcuComplete a n src s
  | .pendset a w v => Sys2Proof.Machine.execPendset a w v s
  | .pendclr a w v => Sys2Proof.Machine.execPendclr a w v s
  | .tmaskset a src v => Sys2Proof.Machine.execTmaskset a src v s
  | .tmaskclr a src v => Sys2Proof.Machine.execTmaskclr a src v s
  | .opChange a v => Sys2Proof.Machine.execOpChange a v s
  | .pllLock pg => Sys2Proof.Machine.execPllLock pg s
  | .pllLockTimeout pg => Sys2Proof.Machine.execPllLockTimeout pg s
  | .voltageSettle => Sys2Proof.Machine.execVoltageSettle s
  | .clockSwitchWatchdog domain => Sys2Proof.Machine.execClockSwitchWatchdog domain s
  | .powerSample watts => Sys2Proof.Machine.execPowerSample watts s
  | .excursionBackstop => Sys2Proof.Machine.execExcursionBackstop s
  | .powerEvaluation => Sys2Proof.Machine.execPowerEvaluation s
  | .tileStateRequest a v => Sys2Proof.Machine.execTileStateRequest a v s
  | .tileIdleDusk t => Sys2Proof.Machine.execTileIdleDusk t s
  | .tileWakeComplete t => Sys2Proof.Machine.execTileWakeComplete t s
  | .deviceDuskRequest a v => Sys2Proof.Machine.execDeviceDuskRequest a v s
  | .deviceWake => Sys2Proof.Machine.execDeviceWake s
  | .deviceDawnComplete => Sys2Proof.Machine.execDeviceDawnComplete s
  | .scDusk n => Sys2Proof.Machine.execScDusk n s
  | .scWake n => Sys2Proof.Machine.execScWake n s
  | .hubClockEnable a v => Sys2Proof.Machine.execHubClockEnable a v s
  | .porstNAssert => Sys2Proof.Machine.execPorstNAssert s
  | .porstNDeassert straps fuseOk stackOk => Sys2Proof.Machine.execPorstNDeassert straps fuseOk stackOk s
  | .perstNAssert => Sys2Proof.Machine.execPerstNAssert s
  | .lkoRstNAssert => Sys2Proof.Machine.execLkoRstNAssert s
  | .pgoodTimeout => Sys2Proof.Machine.execPgoodTimeout s
  | .aoClkLoss => Sys2Proof.Machine.execAoClkLoss s
  | .refclkLoss => Sys2Proof.Machine.execRefclkLoss s
  | .scWatchdogExpiry n => Sys2Proof.Machine.execScWatchdogExpiry n s
  | .watchdogKick a n v => Sys2Proof.Machine.execWatchdogKick a n v s
  | .scRelease a n v => Sys2Proof.Machine.execScRelease a n v s
  | .scMachineCheck n residue addr => Sys2Proof.Machine.execScMachineCheck n residue addr s
  | .sc0FailureRestart => Sys2Proof.Machine.execSc0FailureRestart s
  | .operationRetire t => Sys2Proof.Machine.execOperationRetire t s
  | .rngReseedComplete t => Sys2Proof.Machine.execRngReseedComplete t s
  | .vectorClearComplete t => Sys2Proof.Machine.execVectorClearComplete t s
  | .tileClearComplete => Sys2Proof.Machine.execTileClearComplete s
  | .stratusReseedComplete k => Sys2Proof.Machine.execStratusReseedComplete k s
  | .junctionSample temp => Sys2Proof.Machine.execJunctionSample temp s
  | .perstNDeassert => Sys2Proof.Machine.execPerstNDeassert s
  | .lkoRstNDeassert => Sys2Proof.Machine.execLkoRstNDeassert s
  | .pgoodRise => Sys2Proof.Machine.execPgoodRise s
  | .aoClkRestore => Sys2Proof.Machine.execAoClkRestore s
  | .evtIoRisingEdge => Sys2Proof.Machine.execEvtIoRisingEdge s
  | .mctpHeartbeatRequest => Sys2Proof.Machine.execMctpHeartbeatRequest s
  | .tlsSessionOpen cert => Sys2Proof.Machine.execTlsSessionOpen cert s

end Sys2Proof.Machine
end

