-- ==== Sys2Proof/Safety.lean ====
section
/-! DEFINITION. What a safe run is: a state that meets the invariants of the manual's tables. -/

namespace Sys2Proof

open Sys2Proof.Machine

/-- What every step keeps: the memory is in its canonical form (log entry 3), the partition layout is one of the three of R83, the
hamper holds at most 512 entries (R432), the trace buffer at most 65,536 records (R517), at most four TLS sessions are
open (R467), and the priorities of the interrupt sources stand in their canonical form, by rising source number (R475). -/
structure Orderly (s : State) : Prop where
  memory : Memory.wf s.mem = true
  layout : s.partMode ≤ 2
  hamper : s.stream.hamper.length ≤ 512
  trace : s.trc.held ≤ trcSize
  sessions : s.lko.tls ≤ 4
  priorities : Tab.wf (0 : BitVec 4) s.icu.prio = true

/-- A run of `n` steps from `s` stops at no fault and at no refusal. -/
def safeRun : Nat → State → Prop
  | 0, _ => True
  | n + 1, s => match step s with
    | .next t => safeRun n t
    | .fault _ => False
    | .refused _ => False

end Sys2Proof
end

