-- ==== Sys2Proof/Certificates/Slice0/Obligations.lean ====
section
/-! DEFINITION. The statements about the block: what each command does (its effect and, by the equation with the next state, that it
changes nothing else), and what every command keeps. -/

namespace Sys2Proof.Slice0

open Sys2Proof.Machine

/-! ### Tiles -/

/-- The state with one tile replaced, as a command's outcome. -/
def tileNext (s : State) (t : TileIx) (x : Tile) : Host.Outcome State Fault Refusal := .next (s.setTile t.val x)

/-- Nothing in flight falls due in the tile's cycle, and no hsig waits to leave it. -/
structure Quiet (x : Tile) : Prop where
  due : (∀ k ∈ x.tasks, x.cyc < k.at_) ∧ (∀ r ∈ x.rets, x.cyc < r.at_)
  outs : x.outs.all TileOut.isPhase = true

/-- The sequencer of a tile in Noon may issue in this cycle (R93, R303, R305, R495); the tile is quiet and not in checked mode (R314). -/
structure Calm (x : Tile) : Prop extends Quiet x where
  noon : x.power = .noon
  running : x.seq.st = .running
  may : x.seq.nextAt ≤ x.cyc
  unchecked : x.seq.chk = false

/-- The tile after a bundle without a transfer: the pc goes on (or a live loop goes back, R312), and a cycle has passed. -/
def after (x : Tile) : Tile := clockTile (goOn (issued x))

/-- Work put in flight. -/
def inFlight (x : Tile) (k : List Task) (r : List Ret) : Tile := { x with tasks := x.tasks ++ k, rets := x.rets ++ r }

/-- TSEQ_HAZ.lwr is set: a write of a loop counter is ignored (R302, R312). -/
def lwrSet (x : Tile) : Tile := { x with seq := { x.seq with haz := x.seq.haz ||| 4#32 } }

/-- Destination d takes v (R302): a scalar register, an event counter its low 32 bits; a loop counter ignores it and sets lwr. -/
def withDst (x : Tile) (d : Nat) (v : W64) : Tile :=
  match dstKind d with
  | .loopCounter => lwrSet x
  | _ =>
    if d < 0x10 then { x with seq := { x.seq with scalar := tset 0 x.seq.scalar d v } }
    else { x with seq := { x.seq with ev := tset 0 x.seq.ev (d - 0x60) (v.truncate 32) } }

/-- The bundle at the pc has issued and halted the sequencer: the pc is that of the next bundle, live loops end (R305, R312). -/
def stopped (x : Tile) : Tile :=
  let y := issued x
  { y with seq := { y.seq with st := .halted, loops := [], wait := none, pc := BitVec.ofNat 11 ((x.seq.pc.toNat + 1) % 2048) } }

/-- The bundle halted the sequencer with trap code `v`; the tile fault is raised (R303, R305). -/
def trapped (x : Tile) (v : W32) : Tile :=
  clockTile { stopped x with seq := { (stopped x).seq with trap := v, faultHalt := true, trapHalt := true } }

/-- The bundle jumped to bundle `n`: no bundle issues in the next cycle, and the loops that do not contain `n` end (R303, R312). -/
def jumped (x : Tile) (n : Nat) : Tile :=
  let y := issued x
  clockTile { y with seq := { y.seq with
    pc := BitVec.ofNat 11 n, nextAt := x.cyc + 2, loops := x.seq.loops.filter (fun r => r.a < n && n ≤ r.e) } }

/-- The bundle's wait or fence blocks: the sequencer waits from this cycle on (R93). -/
def waits (x : Tile) (w : WaitFor) : Tile :=
  let y := goOn (issued x)
  clockTile { y with seq := { y.seq with st := .waiting, wait := some w, waitAt := x.cyc } }

/-- A wait reached its limit: the sequencer halts after bundle `pc`, and no loop-back of that bundle counts (R94, R305, R313). -/
def timedOut (x : Tile) (pc : Nat) (loop : Tab W32) (w : WaitFor) : Tile :=
  clockTile { x with seq := { x.seq with
    st := .halted, loops := [], wait := none, pc := BitVec.ofNat 11 pc, loop := loop, waitflt := waitFltOf w, faultHalt := true } }

/-! ### Registers -/

/-- An agent's request reaches tile t (R100, R101, R103): no PLL group on its way is stopped, and its tag may; no BAR reaches a window. -/
structure Reaches (s : State) (a : Agent) (t : TileIx) : Prop where
  bar : a ≠ .bar0 ∧ a ≠ .bar2
  way : s.routeRuns a t.val = true
  tag : (s.tagOf a).fw = true ∨ (s.tagOf a).part = partOfTile s.partMode t.val

/-- A write of a tile register has left tile `x` and answered with a status: the step drew one free value and `ent` words of entropy
(log entries 5, 6). -/
def tileWrote (s : State) (t : TileIx) (x : Tile) (status : Nat := 0) (ent : Nat := 0) : Host.Outcome State Fault Refusal :=
  .next (({ s.setTile t.val x with draws := s.draws + 1, drawsEnt := s.drawsEnt + ent } : State).emit (.regValue status 0))

/-- The agent may write hub registers: BAR 2 reaches none, and BAR 0 none in confidential operation (R423, R426). -/
def MayWrite (s : State) (a : Agent) : Prop := a ≠ .bar2 ∧ (a = .bar0 → s.sec.conf = false)

/-- The agents that reach the interrupt, clock and power blocks: the service cores and the Lookout (R440, R482, R504). -/
def Manages (a : Agent) : Prop := (∃ n, a = .sc n) ∨ a = .lookout

/-- A write of a hub register has left state `s`: its status goes back to the agent, and a host write has no answer. -/
def hubWrote (a : Agent) (s : State) (status : Nat := 0) : Host.Outcome State Fault Refusal :=
  .next (match a with | .bar0 | .bar2 => s | _ => s.emit (.regValue status 0))

/-- The two-operand commands of the sequencer with the value that they give (R303), the multiplication apart. -/
def scalarOps : List ((TileIx → SeqF → Instr) × (W64 → W64 → W64)) :=
  [ (.seqAdd, fun a b => a + b), (.seqSub, fun a b => a - b), (.seqAnd, fun a b => a &&& b), (.seqOr, fun a b => a ||| b),
    (.seqXor, fun a b => a ^^^ b), (.seqShl, fun a b => a <<< (b.toNat % 64)), (.seqShr, fun a b => a >>> (b.toNat % 64)),
    (.seqSra, fun a b => a.sshiftRight (b.toNat % 64)), (.seqMin, fun a b => if a.toInt ≤ b.toInt then a else b),
    (.seqMax, fun a b => if a.toInt ≤ b.toInt then b else a), (.seqMinu, fun a b => if a.toNat ≤ b.toNat then a else b),
    (.seqMaxu, fun a b => if a.toNat ≤ b.toNat then b else a) ]

/-- The sequencer commands that write destination d. -/
def dstOps : List (TileIx → SeqF → Instr) := scalarOps.map (·.1) ++ [.seqMul, .seqMov, .movh, .rdid, .evset, .evadd, .ld]
/-- The sequencer commands that always read operand a. -/
def aOps : List (TileIx → SeqF → Instr) := scalarOps.map (·.1) ++ [.seqMul, .movh, .ld, .st, .hsig]
/-- The sequencer commands that always read operand b. -/
def bOps : List (TileIx → SeqF → Instr) := scalarOps.map (·.1) ++ [.seqMul, .seqMov, .evset, .evadd, .st]

/-- The number that R303 gives each operation of the sequencer slot. -/
def seqCodes : List (Nat × (TileIx → SeqF → Instr)) :=
  [ (0x01, fun t _ => .halt t), (0x02, .trap), (0x10, .seqMov), (0x11, .seqAdd), (0x12, .seqSub), (0x13, .seqMul), (0x14, .seqAnd),
    (0x15, .seqOr), (0x16, .seqXor), (0x17, .seqShl), (0x18, .seqShr), (0x19, .seqSra), (0x1A, .seqMin), (0x1B, .seqMax),
    (0x1C, .seqMinu), (0x1D, .seqMaxu), (0x1E, .movh), (0x1F, .rdid), (0x20, .ld), (0x21, .st), (0x30, .br), (0x31, .bcc),
    (0x32, .bcnd), (0x38, .loop), (0x40, .seqWait), (0x41, .cmpset), (0x42, .evset), (0x43, .evadd), (0x48, .sig), (0x49, .hsig),
    (0x4A, .fence), (0x50, .phase) ]

/-- The address of a load or store, operand a plus the immediate, and its number of bytes (R303). -/
def accessOf (f : SeqF) (a : W64) : Nat × Nat := ((a + f.imm.signExtend 64).toNat, 2 ^ (f.sub.toNat % 4))

/-- The value of the little-endian number `n` of `len` loaded bytes: extended by zeros or by its sign (R303). -/
def loadValue (len : Nat) (zx : Bool) (n : Nat) : W64 :=
  BitVec.ofInt 64 (if zx = false ∧ 2 ^ (8 * len - 1) ≤ n then (n : Int) - 2 ^ (8 * len) else n)

/-- The count that a loop takes: the immediate's bits 23:11 for operand code 0x7F, else the low half of operand a (R311). -/
def loopCount (x : Tile) (f : SeqF) : W32 :=
  if f.a.toNat = 0x7F then BitVec.ofNat 32 (f.imm.toNat / 2048)
  else ((srcOperand x f.a.toNat f.imm).getD 0).truncate 32

/-- A start of the sequencer clears what the last run left (R305, R312, R472): loops, fault latches; the pc is 0. -/
def started (x : Tile) (chk : Bool) (st : SeqSt) (valid : Bool) (at_ : Nat) : Tile :=
  { x with seq := { x.seq with
      st := st, valid := valid, chk := chk, pc := 0, nextAt := at_, loop := [], loops := [], undo := none, wait := none
      mcHalt := false, faultHalt := false, trapHalt := false } }

/-- A start that may not be: badstart is set (R304, R495). -/
def badStart (x : Tile) (chk : Bool) : Tile :=
  { x with seq := { x.seq with chk := chk, faultHalt := false, trapHalt := false, haz := x.seq.haz ||| 0x10#32 } }

/-- Hub timer n stopped (R514, R516): a running one takes a free count (log entry 41), adds it to the sum and leaves a record. -/
def hubStopped (s : State) (n : Fin 8) : State :=
  let p := tget PhTimer.zero s.trc.tph n.val
  if p.run then
    let q : PhTimer := { p with run := false, cnt := s.free, sum := p.sum + s.free, ivl := if p.ivl = 0xFFF#12 then p.ivl else p.ivl + 1 }
    ({ s with trc := { s.trc with tph := tset PhTimer.zero s.trc.tph n.val q }, draws := s.draws + 1 } : State).traceRecord true
      ⟨true, 0, n, p.tag, s.free⟩
  else s

end Sys2Proof.Slice0

open Sys2Proof Sys2Proof.Machine Sys2Proof.Slice0

/-- One step takes the front of the queue and runs it on the block with the queue's rest; with an empty queue the block idles (the model's choice, log
entry 1). -/
def Obligations.StepRunsFrontCommand : Prop :=
  (∀ (s : State) (c : Instr) (rest : List Instr), s.pending = c :: rest → step s = exec c { s with pending := rest }) ∧
  (∀ s : State, s.pending = [] → step s = .next s)

/-- Every step from an orderly state leads to an orderly state (R83, R432, R467, R517; the canonical forms of memory and priorities are the model's
own, log entry 3). Rests on the readings and choices of log entry 3. -/
def Obligations.StepKeepsStateOrderly : Prop :=
  ∀ s t : State, Orderly s → step s = .next t → Orderly t

/-- The state after reset is orderly; tiles are in Night and halted, service cores in reset, and the registers with a reset value other than 0 hold it
(R317, R350, R391, R438, R504, R524). Rests on the readings and choices of log entries 3, 4, 36. -/
def Obligations.ResetStateIsOrderly : Prop :=
  let s := State.reset
  Orderly s ∧
  (∀ t : TileIx, (s.tile t.val).power = .night ∧ (s.tile t.val).seq.st = .halted ∧ (s.tile t.val).seq.valid = false) ∧
  (∀ n : Fin 8, s.core n.val = .reset ∧ tget 0xF4240#32 s.hub.scwd n.val = 0xF4240#32) ∧
  (∀ k : StackIx, (s.stack k.val).thr = 0x0369645F#32 ∧ (s.stack k.val).scrub = 0x00015180#32 ∧ (s.stack k.val).scrubEn = true ∧
    (s.stack k.val).cethr = 4 ∧ (s.stack k.val).ready = false) ∧
  s.pwr.limit = 0x0E100C80#32 ∧ s.pwr.vsettle = 0x04E2 ∧ s.pwr.idle = 100 ∧ s.pwr.opCur = 3 ∧ s.pwr.opTarget = 3 ∧
  s.pci.cto = 50 ∧ s.pci.lostTmo = 10 ∧ s.hub.ready = false ∧ s.mem = [] ∧ s.pending = []

/-- No command writes the queue of waiting commands or the ordering code (log entries 1 and 2: the queue and the part are the model's). -/
def Obligations.ExecKeepsQueueAndPart : Prop :=
  ∀ (c : Instr) (s t : State), exec c s = .next t → t.pending = s.pending ∧ t.fx = s.fx

/-- R303: SEQ_ADD to SEQ_MAXU give the value of the operation table to a scalar register or an event counter; SEQ_MOV and EVSET give operand b, MOVH
and RDID their values; EVADD adds to a counter or a register. A loop counter ignores a value and sets lwr. Nothing else of the block changes but
the pc and the clock of the tile. Rests on the readings and choices of log entry 14. -/
def Obligations.ScalarOperationsGiveTheirValue : Prop :=
  (∀ (s : State) (t : TileIx) (f : SeqF) (a b : W64), ∀ p ∈ scalarOps,
    Calm (s.tile t.val) → readSrc (s.tile t.val) f.a.toNat f.imm = .ok a → readSrc (s.tile t.val) f.b.toNat f.imm = .ok b →
    dstKind f.d.toNat ≠ .trap → exec (p.1 t f) s = tileNext s t (after (withDst (s.tile t.val) f.d.toNat (p.2 a b)))) ∧
  (∀ (s : State) (t : TileIx) (f : SeqF) (a b : W64),
    let x := s.tile t.val
    let d := f.d.toNat
    Calm x → dstKind d ≠ .trap →
    (readSrc x f.b.toNat f.imm = .ok b → exec (.seqMov t f) s = tileNext s t (after (withDst x d b))) ∧
    (readSrc x f.b.toNat f.imm = .ok b → exec (.evset t f) s = tileNext s t (after (withDst x d b))) ∧
    (readSrc x f.a.toNat f.imm = .ok a →
      exec (.movh t f) s = tileNext s t (after (withDst x d ((f.imm.signExtend 64 <<< 24) + (a &&& 0xFFFFFF#64))))) ∧
    exec (.rdid t f) s = tileNext s t (after (withDst x d ((tileIdReg s.partMode t.val).zeroExtend 64))) ∧
    (readSrc x f.b.toNat f.imm = .ok b →
      exec (.evadd t f) s = tileNext s t (after
        (if 0x60 ≤ d then evInc x (d - 0x60) (b.truncate 32) else withDst x d (scalarOf x d + b)))))

/-- R302, R550: a destination that is no register, and a source operand code that is none, trap with code 0xFFFF_0002. Rests on the readings and
choices of log entry 14. -/
def Obligations.ReservedOperandsTrap : Prop :=
  ∀ (s : State) (t : TileIx) (f : SeqF),
    let x := s.tile t.val
    Calm x →
    (dstKind f.d.toNat = .trap → ∀ p ∈ dstOps, exec (p t f) s = tileNext s t (trapped x 0xFFFF0002#32)) ∧
    (srcOperand x f.a.toNat f.imm = none → ∀ p ∈ aOps, exec (p t f) s = tileNext s t (trapped x 0xFFFF0002#32)) ∧
    ((∃ a, readSrc x f.a.toNat f.imm = .ok a) → srcOperand x f.b.toNat f.imm = none →
      ∀ p ∈ bOps, exec (p t f) s = tileNext s t (trapped x 0xFFFF0002#32))

/-- R303: the product of SEQ_MUL retires at the end of the third cycle, the issue cycle counted; a loop counter ignores it. Rests on the readings and
choices of log entry 14. -/
def Obligations.ProductRetiresInThirdCycle : Prop :=
  ∀ (s : State) (t : TileIx) (f : SeqF) (a b : W64),
    let x := s.tile t.val
    Calm x → readSrc x f.a.toNat f.imm = .ok a → readSrc x f.b.toNat f.imm = .ok b →
    (dstKind f.d.toNat = .reg →
      exec (.seqMul t f) s = tileNext s t (after (inFlight x [] [⟨x.cyc + 2, 0, x.seqNo, x.seq.pc.toNat, .sreg f.d.toNat (a * b)⟩]))) ∧
    (dstKind f.d.toNat = .loopCounter → exec (.seqMul t f) s = tileNext s t (after (lwrSet x)))

/-- R303, R305: HALT stops issue at the next bundle's address; TRAP does so with its code and raises the tile fault. Rests on the readings and choices
of log entry 14. -/
def Obligations.HaltAndTrapStopIssue : Prop :=
  ∀ (s : State) (t : TileIx) (f : SeqF), Calm (s.tile t.val) →
    exec (.halt t) s = tileNext s t (clockTile (stopped (s.tile t.val))) ∧
    exec (.trap t f) s = tileNext s t (trapped (s.tile t.val) (f.imm.signExtend 32))

/-- R303, R312: BR jumps; BCC and BCND jump when their condition holds and go on when not; a comparison that is none traps. Rests on the readings and
choices of log entry 14. -/
def Obligations.BranchesJumpOnTheirCondition : Prop :=
  ∀ (s : State) (t : TileIx) (f : SeqF) (a b : W64),
    let x := s.tile t.val
    let dest := f.imm.toNat % 2048
    Calm x →
    exec (.br t f) s = tileNext s t (jumped x dest) ∧
    exec (.bcnd t f) s = tileNext s t (if cond x (f.sub.toNat % 4) then jumped x dest else after x) ∧
    (5 < f.sub.toNat ∨ 2 < f.d.toNat → exec (.bcc t f) s = tileNext s t (trapped x 0xFFFF0002#32)) ∧
    (f.sub.toNat ≤ 5 → f.d.toNat ≤ 2 → readSrc x f.a.toNat f.imm = .ok a → readSrc x f.b.toNat f.imm = .ok b →
      exec (.bcc t f) s = tileNext s t (if bccHolds f.d.toNat f.sub.toNat a b then jumped x dest else after x))

/-- R311, R312: LOOP sets its counter and opens the loop, skips the body of a count of 0, or leaves a live counter and sets lwr. A bundle at the end of
the one live loop goes back to the bundle after LOOP while the counter is above 1, and ends the loop with the counter 0 when not. Rests on the
readings and choices of log entries 14, 15. -/
def Obligations.LoopOpensSkipsAndGoesBack : Prop :=
  (∀ (s : State) (t : TileIx) (f : SeqF),
    let x := s.tile t.val
    let n := f.d.toNat - 0x58
    let e := f.imm.toNat % 2048
    let y : Tile := { x with seq := { x.seq with loop := tset 0 x.seq.loop n (loopCount x f) } }
    Calm x → 0x58 ≤ f.d.toNat → f.d.toNat < 0x5C → x.seq.pc.toNat < e → (f.a.toNat < 0x50 ∨ f.a.toNat = 0x7F) →
    (x.seq.loops.any (·.k = n) = true → exec (.loop t f) s = tileNext s t (after (lwrSet x))) ∧
    (x.seq.loops.any (·.k = n) = false → loopCount x f ≠ 0 →
      exec (.loop t f) s = tileNext s t (after { y with seq := { y.seq with loops := ⟨n, x.seq.pc.toNat, e⟩ :: x.seq.loops } })) ∧
    (x.seq.loops.any (·.k = n) = false → loopCount x f = 0 →
      exec (.loop t f) s = tileNext s t
        (clockTile { issued y with seq := { (issued y).seq with pc := BitVec.ofNat 11 ((e + 1) % 2048), nextAt := x.cyc + 2 } }))) ∧
  (∀ (s : State) (t : TileIx) (f : SeqF) (r : LoopRec),
    let x := s.tile t.val
    let n := tget 0 x.seq.loop r.k
    let y := issued x
    Calm x → x.seq.loops = [r] → r.e = x.seq.pc.toNat → r.a < r.e →
    (1 < n.toNat → cond x (f.sub.toNat % 4) = false → exec (.bcnd t f) s = tileNext s t (clockTile
      { y with seq := { y.seq with pc := BitVec.ofNat 11 (r.a + 1), loop := tset 0 x.seq.loop r.k (n - 1), loops := [r] } })) ∧
    (n.toNat ≤ 1 → cond x (f.sub.toNat % 4) = false → exec (.bcnd t f) s = tileNext s t (clockTile
      { y with seq := { y.seq with
        pc := BitVec.ofNat 11 ((r.e + 1) % 2048), loop := tset 0 x.seq.loop r.k 0, loops := [] } })))

/-- R303: LD and ST put their access in the next cycle; one that passes the end of the scratchpad traps with code 0xFFFF_0006. Rests on the readings
and choices of log entries 14, 15. -/
def Obligations.LoadAndStoreAccessNextCycle : Prop :=
  ∀ (s : State) (t : TileIx) (f : SeqF) (a b : W64),
    let x := s.tile t.val
    let m := accessOf f a
    Calm x → readSrc x f.a.toNat f.imm = .ok a → readSrc x f.b.toNat f.imm = .ok b → dstKind f.d.toNat ≠ .trap →
    (m.1 + m.2 ≤ spSize →
      exec (.ld t f) s = tileNext s t (after (inFlight x
        [⟨x.cyc + 1, 0, 0, x.seqNo, x.seq.pc.toNat, .ld f.d.toNat m.1 m.2 f.sub[2]⟩] [])) ∧
      exec (.st t f) s = tileNext s t (after (inFlight x
        [⟨x.cyc + 1, 0, 0, x.seqNo, x.seq.pc.toNat, .st m.1 (leBytes m.2 b.toNat)⟩] []))) ∧
    (spSize < m.1 + m.2 →
      exec (.ld t f) s = tileNext s t (trapped x 0xFFFF0006#32) ∧ exec (.st t f) s = tileNext s t (trapped x 0xFFFF0006#32))

/-- R303, R307, R528: OPERATION_RETIRE performs what is due: a store's bytes enter the scratchpad, a load's value is on its way two cycles more or its
poison halts the sequencer, a retirement takes effect; with nothing in flight the tile stays as it is. Rests on the readings and choices of log
entries 14, 15. -/
def Obligations.RetireStepPerformsDueWork : Prop :=
  ∀ (s : State) (t : TileIx) (q pc d off len p : Nat) (loop : Tab W32) (zx : Bool) (bs : List Byte) (r : RAct),
    let x := s.tile t.val
    let ld : List Task := [⟨x.cyc, 0, 0, q, pc, .ld d off len zx⟩]
    x.power = .noon → x.seq.st = .running → x.outs.all TileOut.isPhase = true → x.seq.chk = false → len ∈ [1, 2, 4, 8] →
    x.seq.undo = some (p, loop) → dstKind d = .reg →
    (x.tasks = [] → x.rets = [] → exec (.operationRetire t) s = tileNext s t x) ∧
    (x.tasks = [⟨x.cyc, 0, 0, q, pc, .st off bs⟩] → x.rets = [] →
      exec (.operationRetire t) s = tileNext s t (clockTile (spWrite { x with tasks := [] } off (clean bs)))) ∧
    (x.tasks = ld → x.rets = [] → anyPois (spRead x off len) = false →
      exec (.operationRetire t) s = tileNext s t (clockTile { x with
        tasks := [], rets := [⟨x.cyc + 2, 0, q, pc, .sreg d (loadValue len zx (leNatP (spRead x off len)))⟩] })) ∧
    (x.tasks = ld → x.rets = [] → anyPois (spRead x off len) = true →
      exec (.operationRetire t) s = tileNext s t (clockTile { x with
        tasks := [], seq := { x.seq with
          st := .halted, loops := [], wait := none, pc := BitVec.ofNat 11 p, loop := loop, trap := 0xFFFF0005#32, mcHalt := true } })) ∧
    (x.tasks = [] → x.rets = [⟨x.cyc, 0, q, pc, r⟩] →
      exec (.operationRetire t) s = tileNext s t (clockTile (applyRet { x with rets := [] } r)))

/-- R92, R303, R435: CMPSET gives a comparator its source, enable and threshold; SIG sends an EVT message for the tile that operand a names, and a
counter that d does not name traps; HSIG adds operand a to a stream event counter of the context that the tile runs. Rests on the readings and
choices of log entries 14, 15, 40. -/
def Obligations.CmpsetSigAndHsigActAtIssue : Prop :=
  (∀ (s : State) (t : TileIx) (f : SeqF) (a b : W64),
    let x := s.tile t.val
    Calm x →
    (readSrc x f.b.toNat f.imm = .ok b → (f.a.toNat < 0x10 ∨ (0x60 ≤ f.a.toNat ∧ f.a.toNat < 0x70)) →
      exec (.cmpset t f) s = tileNext s t (after { x with seq := { x.seq with
        cmpsel := tset 0 x.seq.cmpsel (f.sub.toNat % 4)
          (BitVec.ofNat 32 ((if f.sub[2] then 0 else 0x100) + (if f.a.toNat < 0x10 then 0x10 else 0) + f.a.toNat % 16))
        cmpthr := tset 0 x.seq.cmpthr (f.sub.toNat % 4) (b.truncate 32) } })) ∧
    (¬ (f.a.toNat < 0x10 ∨ (0x60 ≤ f.a.toNat ∧ f.a.toNat < 0x70)) →
      exec (.cmpset t f) s = tileNext s t (trapped x 0xFFFF0002#32)) ∧
    (readSrc x f.a.toNat f.imm = .ok a → ∀ e : Fin 16, f.d.toNat = 0x60 + e.val →
      exec (.sig t f) s = tileNext s t (after { x with evOut := x.evOut ++
        [(⟨.tile t, ⟨a.toNat % 256, Nat.mod_lt _ (by decide)⟩, e, f.imm.truncate 16⟩, f.imm[16])] })) ∧
    (¬ (0x60 ≤ f.d.toNat ∧ f.d.toNat < 0x70) → exec (.sig t f) s = tileNext s t (trapped x 0xFFFF0002#32))) ∧
  (∀ (s : State) (t : TileIx) (f : SeqF) (a v : W64),
    let x := s.tile t.val
    let p := partOfTile s.partMode t.val
    let j := (f.imm.truncate 16 : BitVec 16).toNat
    let at_ := s.evAddr p (s.ctxOf t.val) j
    Calm x → readSrc x f.a.toNat f.imm = .ok a → s.evGet p (s.ctxOf t.val) j = some v →
    exec (.hsig t f) s = .next ((s.setTile t.val (after x)).memWrite at_ (clean (leBytes 8 (v + a).toNat))))

/-- R93, R94, R303: SEQ_WAIT and FENCE go on when their condition holds, else the sequencer waits; a limit of one cycle halts it at once. A wait
whose condition holds ends, and the next bundle issues three cycles later; in the limit's last cycle one that still blocks halts the sequencer
with its record in TSEQ_WAITFLT. Rests on the readings and choices of log entries 14, 15. -/
def Obligations.WaitsBlockEndAndTimeOut : Prop :=
  (∀ (s : State) (t : TileIx) (f : SeqF),
    let x := s.tile t.val
    Calm x → ∀ p ∈ [(exec (.seqWait t f) s, WaitFor.comparator ⟨f.sub.toNat % 4, Nat.mod_lt _ (by decide)⟩), (exec (.fence t f) s, WaitFor.fence)],
    (waitHolds x p.2 = true → p.1 = tileNext s t (after x)) ∧
    (waitHolds x p.2 = false → x.seq.waitlim ≠ 1 → p.1 = tileNext s t (waits x p.2)) ∧
    (waitHolds x p.2 = false → x.seq.waitlim = 1 → p.1 = tileNext s t
      (timedOut { issued x with seq := { (issued x).seq with waitAt := x.cyc } } ((x.seq.pc.toNat + 1) % 2048) x.seq.loop p.2))) ∧
  (∀ (s : State) (t : TileIx) (n : Nat) (w : WaitFor) (pc : Nat) (loop : Tab W32),
    let x := s.tile t.val
    let last := x.seq.waitAt + x.seq.waitlim.toNat - 1
    Quiet x → x.seq.st = .waiting → x.seq.wait = some w → x.seq.undo = some (pc, loop) →
    ((x.seq.waitlim = 0 ∨ x.cyc ≤ last) → waitHolds x w = true →
      ∀ c ∈ [Instr.waitResume t (n + 1), Instr.fenceResume t (n + 1)], exec c s = tileNext s t
        (clockTile { x with seq := { x.seq with st := .running, wait := none, nextAt := x.cyc + 3 } })) ∧
    (x.seq.waitlim ≠ 0 → x.cyc = last → x.seq.waitAt ≤ x.cyc → waitHolds x w = false →
      exec (.waitLimitTimeout t) s = tileNext s t (timedOut x pc loop w)))

/-- R300, R303: a bundle that holds a sequencer operation alone does what that operation's command does. Rests on the readings and choices of log
entries 14, 15. -/
def Obligations.BundleRunsSequencerOperation : Prop :=
  ∀ (s : State) (t : TileIx) (b : BitVec 256), ∀ p ∈ seqCodes,
    let x := s.tile t.val
    Calm x → tget false x.seq.storeBad x.seq.pc.toNat = false → tget 0 x.seq.store x.seq.pc.toNat = b →
    (b.extractLsb' 0 8).toNat = p.1 → b.extractLsb' 56 200 = 0 →
    exec (.bundleIssue t []) s =
      exec (p.2 t ⟨b.extractLsb' 8 7, b.extractLsb' 15 7, b.extractLsb' 22 7, b.extractLsb' 29 3, b.extractLsb' 32 24⟩) s

/-- R304, R528: a bundle with an uncorrectable word does not issue: the sequencer halts, its loops end, and the machine check is noted. Rests on the
readings and choices of log entry 15. -/
def Obligations.BadBundleHaltsWithoutIssue : Prop :=
  ∀ (s : State) (t : TileIx) (ck : List CheckFail),
    let x := s.tile t.val
    Calm x → tget false x.seq.storeBad x.seq.pc.toNat = true →
    exec (.bundleIssue t ck) s = tileNext s t
      (clockTile { x with seq := { x.seq with st := .halted, loops := [], wait := none, mcHalt := true } })

/-- R515, R516: PHASE starts or stops a timer of the tile; a running one that is stopped adds its count to the sum and sends its record when export is
on. Rests on the readings and choices of log entry 14. -/
def Obligations.PhaseStartsAndStopsTileTimer : Prop :=
  ∀ (s : State) (t : TileIx) (f : SeqF) (n : Fin 8),
    let x := s.tile t.val
    let p := tphOf x n.val
    let tag : BitVec 16 := f.imm.truncate 16
    let q : PhTimer := if p.run then
      { p with run := false, sum := p.sum + p.cnt, ivl := if p.ivl = 0xFFF#12 then p.ivl else p.ivl + 1 } else p
    Calm x → f.imm.toNat / 2 ^ 16 % 8 = n.val →
    exec (.phase t f) s = tileNext s t (after { x with
      outs := if p.run && x.tphExport then x.outs ++ [.phase n p.tag p.cnt] else x.outs
      tph := tset PhTimer.zero x.tph n.val (if f.imm[19] then q else { q with run := true, cnt := 0, tag := tag }) })


/-- R304, R305, R314, R495: TSEQ_START copies the code or keeps the bundle store, or sets badstart; TSEQ_STOP halts; checked mode changes only
on a halted sequencer. When the copy is done the bundle store holds the bundles, a poisoned one marked, valid is set and bundle 0 may issue;
with no copy in progress nothing changes. Rests on the readings and choices of log entries 5, 6, 15, 23. -/
def Obligations.StartCopiesCodeAndStopHalts : Prop :=
  (∀ (s : State) (a : Agent) (t : TileIx) (v : W32),
    let x := s.tile t.val
    let len := x.seq.codelen.toNat % 4096
    let copies := v[3] = false ∨ x.seq.valid = false
    let fits := 0 < len ∧ len ≤ 2048 ∧ x.seq.codebase.toNat + 32 * len ≤ spSize
    Reaches s a t →
    (x.seq.st = .halted →
      (x.power = .noon → copies → fits →
        exec (.tseqStart a t v) s = tileWrote s t (started x v[2] .loading false (x.cyc + 8 + (len + 31) / 32))) ∧
      (x.power = .noon → ¬ copies → exec (.tseqStart a t v) s = tileWrote s t (started x v[2] .running x.seq.valid (x.cyc + 7))) ∧
      (x.power ≠ .noon ∨ (copies ∧ ¬ fits) → exec (.tseqStart a t v) s = tileWrote s t (badStart x v[2])) ∧
      (v[0] = false → exec (.tseqStop a t v) s = tileWrote s t { x with seq := { x.seq with chk := v[2] } }) ∧
      (v[0] = true → exec (.tseqStop a t v) s = exec (.tseqStart a t (v ||| 2#32)) s) ∧
      exec (.setCheckedMode a t v) s = tileWrote s t { x with seq := { x.seq with chk := v[2] } }) ∧
    (x.seq.st ≠ .halted →
      exec (.tseqStop a t v) s = tileWrote s t { x with seq := { x.seq with st := .halted, loops := [], wait := none } } ∧
      exec (.setCheckedMode a t v) s = tileWrote s t x ∧
      (v[1] = false → exec (.tseqStart a t v) s = tileWrote s t x))) ∧
  (∀ (s : State) (t : TileIx),
    let x := s.tile t.val
    let bundles := (List.range (x.seq.codelen.toNat % 4096)).map (fun i => spRead x (x.seq.codebase.toNat + 32 * i) 32)
    x ≠ Tile.reset → Quiet x →
    (x.seq.st ≠ .loading → exec (.codeCopyComplete t) s = tileNext s t x) ∧
    (x.seq.st = .loading → x.seq.nextAt ≤ x.cyc → exec (.codeCopyComplete t) s = tileNext s t { x with seq := { x.seq with
      st := .running, valid := true, nextAt := x.cyc
      store := tsetList 0 [] 0 (bundles.map (fun b => BitVec.ofNat 256 (leNatP b)))
      storeBad := tsetList false [] 0 (bundles.map anyPois) } }))

/-- R139, R140: TMX_CLKEN takes the value; an array whose enable falls loses its running and pending operation, and no other array changes. Rests on
the readings and choices of log entries 5, 16, 23. -/
def Obligations.ArrayEnableAbandonsItsArray : Prop :=
  ∀ (s : State) (a : Agent) (t : TileIx) (v : W32) (n : Fin 4),
    let x := s.tile t.val
    let w : BitVec 4 := v.truncate 4
    Reaches s a t → x.power = .noon →
    ((∀ m < 4, x.mx.clken.getLsbD m = true → w.getLsbD m = true) →
      exec (.arrayEnableWrite a t v) s = tileWrote s t { x with mx := { x.mx with clken := w } }) ∧
    (x.mx.clken.getLsbD n.val = true → w.getLsbD n.val = false →
      (∀ m < 4, m ≠ n.val → x.mx.clken.getLsbD m = true → w.getLsbD m = true) →
      ∃ (y : Tile) (b : MxArr), exec (.arrayEnableWrite a t v) s = tileWrote s t y ∧
        y.mx = { x.mx with clken := w, arr := tset MxArr.zero x.mx.arr n.val b } ∧ b.run = none ∧ b.pend = none ∧
        y.sp = x.sp ∧ y.seq = x.seq ∧ y.ve = x.ve)

/-- R158, R159, R162: DRIZZLE_OPEN opens with the statistics cleared or refuses with badcfg, DRIZZLE_CLOSE puts the record ten cycles on, DRIZZLE_ABORT
ends the tensor. Rests on the readings and choices of log entries 23, 24. -/
def Obligations.DrizzleOpensClosesAborts : Prop :=
  ∀ (s : State) (a : Agent) (t : TileIx) (v : W32) (f : Fmt),
    let x := s.tile t.val
    let d := { x.dz with fmt := v.extractLsb' 24 4, rowlen := v.extractLsb' 0 24 }
    let aligned := d.rowlen ≠ 0 ∧ d.rows ≠ 0 ∧ d.data.toNat % 64 = 0 ∧ d.dir.toNat % 64 = 0 ∧ d.dstr.toNat % 64 = 0 ∧
      4 * ((d.rowlen.toNat + 63) / 64) ≤ d.dstr.toNat
    Reaches s a t → x.power = .noon →
    (Fmt.ofCode (v.extractLsb' 24 4).toNat = some f → dzFmtOk f = true → aligned →
      exec (.drizzleOpen a t v) s = tileWrote s t { x with dz := { d with
        active := true, pos := 0, nnz := 0, elem := 0, occ := 0, pass := 0, row := 0, blk := 0, seg := [], fullSeen := false, dropSeen := false } }) ∧
    ((Fmt.ofCode (v.extractLsb' 24 4).toNat = none ∨ ¬ aligned ∨ (Fmt.ofCode (v.extractLsb' 24 4).toNat = some f ∧ dzFmtOk f = false)) →
      exec (.drizzleOpen a t v) s = tileWrote s t { x with dz := { d with stat := d.stat ||| 8#4, active := false } }) ∧
    (v[29] = false → x.dz.active = true → exec (.drizzleClose a t v) s = tileWrote s t { x with
      dz := d, tasks := x.tasks ++ [⟨x.cyc + 11, 4, 0, x.seqNo, 0, .dzRec⟩] }) ∧
    (v[29] = false → x.dz.active = false → exec (.drizzleClose a t v) s = tileWrote s t { x with dz := d }) ∧
    exec (.drizzleAbort a t v) s = tileWrote s t { x with dz := { d with active := false } }

/-- R190, R191, R201: VECTOR_CLEAR zeros registers, summaries and tables, RNG_RESEED loads the lane generators, on a halted sequencer only; each is
busy until its completion. Rests on the readings and choices of log entries 5, 6, 23. -/
def Obligations.VectorClearAndReseedSetBusy : Prop :=
  ∀ (s : State) (a : Agent) (t : TileIx) (v : W32),
    let x := s.tile t.val
    Reaches s a t → x.power = .noon →
    (x.seq.st = .halted →
      exec (.vectorClear a t v) s = tileWrote s t { x with
        seq := { x.seq with sum := [] }
        sf := { x.sf with tram := [], tpar := [] }
        ve := { x.ve with clrBusy := true, vreg := [], vpois := [], sumpois := 0 } } ∧
      (v[1] = true → exec (.rngReseed a t v) s = tileWrote s t
        { x with ve := { x.ve with rngBusy := true, rngFixed := true, rngN := 0, rng := rngLoad true x.ve.seed s.drawsEnt } }) ∧
      (v[1] = false → exec (.rngReseed a t v) s = tileWrote s t
        { x with ve := { x.ve with rngBusy := true, rngFixed := false, rngN := 0, rng := rngLoad false x.ve.seed s.drawsEnt } } 0 512)) ∧
    (x.seq.st ≠ .halted → exec (.vectorClear a t v) s = tileWrote s t x 4 ∧ exec (.rngReseed a t v) s = tileWrote s t x 4) ∧
    exec (.vectorClearComplete t) s = tileNext s t { x with ve := { x.ve with clrBusy := false } } ∧
    exec (.rngReseedComplete t) s = tileNext s t { x with ve := { x.ve with rngBusy := false } }

/-- R514, R515, R517, R518: PHASE_TIMER_CLEAR zeros a tile's timer, HUB_PHASE_START and HUB_PHASE_STOP run a hub timer, TRACE_UNFREEZE thaws the trace
buffer. Rests on the readings and choices of log entries 23, 41. -/
def Obligations.PhaseTimersClearStartAndStop : Prop :=
  ∀ (s : State) (a : Agent) (t : TileIx) (n : Fin 8),
    let x := s.tile t.val
    let s1 := hubStopped s n
    (Reaches s a t → x.power = .noon →
      exec (.phaseTimerClear a t n) s = tileWrote s t { x with tph := tset PhTimer.zero x.tph n.val PhTimer.zero }) ∧
    (MayWrite s a →
      exec (.hubPhaseStop a n) s = hubWrote a s1 ∧
      exec (.hubPhaseStart a n) s = hubWrote a { s1 with trc := { s1.trc with
        tph := tset PhTimer.zero s1.trc.tph n.val { tget PhTimer.zero s1.trc.tph n.val with run := true, cnt := 0, tag := 0 } } } ∧
      exec (.traceUnfreeze a) s = hubWrote a { s with trc := { s.trc with frozen := false } })

/-- R509, R516, R517: a record that leaves its tile is written at the buffer's next place when the buffer is claimed for phases and not frozen; one of
another context, and one that finds the buffer full, are counted instead. Rests on the readings and choices of log entry 38. -/
def Obligations.PhaseRecordsReachTraceBuffer : Prop :=
  ∀ (s : State) (m : PhaseMsg) (rest : List TileOut),
    let x := s.tile m.tile.val
    let b := s.trc
    let y := { x with outs := rest }
    let way := (routeTiles m.tile.val (hubPortTile m.tile.val)).all (fun i => s.groupRuns (groupOf i))
    let gone := s.setTile m.tile.val y
    m.hub = false → x.outs = .phase m.timer m.tag m.cycles :: rest →
    (way = false ∨ b.clmTrc &&& 0xF#32 ≠ 1 ∨ b.frozen = true → exec (.phaseExportRecord m) s = .next gone) ∧
    (way = true → b.clmTrc &&& 0xF#32 = 1 → b.frozen = false →
      (s.ownsTrace m.tile.val = false → exec (.phaseExportRecord m) s = .next { gone with
        trc := { b with xctx := if b.xctx = 0xFFFF then b.xctx else b.xctx + 1 } }) ∧
      (s.ownsTrace m.tile.val = true → b.held = trcSize → b.wrap = false → exec (.phaseExportRecord m) s = .next { gone with
        trc := { b with full := if b.full = 0xFFFF then b.full else b.full + 1 } }) ∧
      (s.ownsTrace m.tile.val = true → b.held ≠ trcSize ∨ b.wrap = true → exec (.phaseExportRecord m) s = .next { gone with
        trc := { b with
          buf := tset 0 b.buf b.next (BitVec.ofNat 128 (m.cycles.toNat + m.tag.toNat * 2 ^ 64 + m.timer.val * 2 ^ 80 +
            m.tile.val * 2 ^ 88 + b.seq.toNat * 2 ^ 96))
          next := (b.next + 1) % trcSize, held := min trcSize (b.held + 1), seq := b.seq + 1 } }))

namespace Sys2Proof.Slice0

/-! ### Work of the engines -/

/-- The cycle of tile t ends on tile x: the work that is due in it is done, and the clock advances. -/
def cycleOn (s : State) (t : TileIx) (x : Tile) : Host.Outcome State Fault Refusal :=
  .next (s.tileWork t.val (fun e _ => ((e.cyc x).runTasks).finish))

/-- A bundle issued its one operation on tile x, with work placed from the issue cycle on. -/
def issues (s : State) (t : TileIx) (x : Tile) : Host.Outcome State Fault Refusal := cycleOn s t (goOn (issued x))

/-- Work of the bundle that issues, placed in cycles with ranks (R310). -/
def placed (x : Tile) (slot : Nat) (l : List (Nat × Nat × Act)) : Tile :=
  { x with tasks := x.tasks ++ l.map (fun k => ⟨k.1, slot, k.2.1, x.seqNo, x.seq.pc.toNat, k.2.2⟩) }

/-- Results of the bundle that issues, retiring at the ends of cycles. -/
def retiring (x : Tile) (slot : Nat) (l : List (Nat × RAct)) : Tile :=
  { x with rets := x.rets ++ l.map (fun r => ⟨r.1, slot, x.seqNo, x.seq.pc.toNat, r.2⟩) }

/-- A vector instruction with what it reads at issue (R299). -/
def vInst (x : Tile) (op : VOp) (f : VecF) (ck : List CheckFail) : VInst :=
  ⟨op, f, scalarOf x (f.va.toNat % 16), scalarOf x (f.vb.toNat % 16), scalarOf x (f.vd.toNat % 16), ck.filter (·.unit = 1), x.cyc,
    x.ve.ptbank⟩

/-- The lanes are occupied for n cycles from this one on (R171). -/
def lanesFor (x : Tile) (n : Nat) : Tile := { x with ve := { x.ve with lanesFree := x.cyc + n } }
/-- The lanes, and the load and store paths, are occupied for three cycles while descriptors are read (R185; log entry 22). -/
def pathsFor (x : Tile) : Tile := { lanesFor x 3 with ve := { (lanesFor x 3).ve with pathFree := x.cyc + 3 } }

/-- A refused instruction of the vector or load/store slot: inv, src_ve and a bit of TVE_STAT, and no other effect (R172). -/
def veRefused (x : Tile) (b : BitVec 5) : Tile :=
  { x with ve := { x.ve with stat := x.ve.stat ||| b }, seq := { x.seq with numflags := numflagsRaise x.seq.numflags fInv 1 } }
/-- A refused instruction of the special-function slot (R231). -/
def sfRefused (x : Tile) (b : BitVec 6) : Tile :=
  { x with sf := { x.sf with stat := x.sf.stat ||| b }, seq := { x.seq with numflags := numflagsRaise x.seq.numflags fInv 2 } }
/-- A refused operation of matrix array n (R134, R139). -/
def mxRefused (x : Tile) (n : Nat) (b : BitVec 5) : Tile :=
  let y := setMarr x n { marr x n with stat := (marr x n).stat ||| b }
  { y with seq := { y.seq with numflags := numflagsRaise y.seq.numflags fInv 0 } }

/-- The elementwise operations of the vector slot (R176, R177, R38). -/
def elemOps : List (VOp × (TileIx → VecF → List CheckFail → Instr)) :=
  [ (.add, .vadd), (.sub, .vsub), (.mul, .vmul), (.fma, .vfma), (.fms, .vfms), (.neg, .vneg), (.abs, .vabs), (.and, .vand), (.or, .vor),
    (.xor, .vxor), (.shl, .vshl), (.shr, .vshr), (.max, .vmax), (.min, .vmin), (.cmp, .vcmp), (.sel, .vsel), (.mov, .vmov),
    (.bcast, .vbcast), (.cvt, .vcvt) ]

/-- The operations that enter the lanes by chunks or accumulator rows. -/
def vecOps : List (VOp × (TileIx → VecF → List CheckFail → Instr)) :=
  elemOps ++ [ (.mac, .vmac), (.perm, .vperm), (.segSum, fun t => .vsegred t 0), (.segMax, fun t => .vsegred t 1),
    (.segMin, fun t => .vsegred t 2), (.summary, .vsum), (.rng, .vrng), (.drop, .vdrop) ]

/-- A descriptor-form instruction that is refused at issue (R167, R184). -/
def descRefused (v : VInst) : Bool :=
  !descOk v.op || v.f.fmt?.isNone || !vfmtOk v.op v.f.fm v.f.sub.toNat || 3 ≤ v.f.bsrc.toNat || v.f.asrc ≠ 0 ||
    (v.op = .cvt && !((Fmt.ofCode v.f.dfmt.toNat).any (fun d => regFmt d && d ≠ .raw)))

/-- A transfer of the load/store slot with what it reads at issue. -/
def lInst (x : Tile) (op : Nat) (f : LsF) : LInst :=
  ⟨op, f, (scalarOf x f.sa.toNat).toNat % 2 ^ 23, (scalarOf x f.sm.toNat).toNat % 2 ^ 23, x.cyc⟩

/-- The load/store slot is occupied for n cycles (R186). -/
def lsFor (x : Tile) (n : Nat) : Tile := { x with ve := { x.ve with lsFree := x.cyc + n } }

/-- A special-function instruction with what it reads at issue. -/
def sInst (x : Tile) (op : Nat) (f : SfF) (ck : List CheckFail) : SInst :=
  ⟨op, f, scalarOf x (f.va.toNat % 16), scalarOf x (f.vd.toNat % 16), scalarOf x f.sx.toNat, ck.filter (·.unit = 2), x.cyc,
    tramGet x.sf 0 64⟩

/-- The special-function slot is occupied for n cycles (R230). -/
def sfFor (x : Tile) (n : Nat) : Tile := { x with sf := { x.sf with free := x.cyc + n } }

/-- The matrix operations with their kinds. -/
def mxOps : List (MxKind × (TileIx → MxF → List CheckFail → Instr)) :=
  [(.mma, .mma), (.accld, .accld), (.accst, fun t f _ => .accst t f)]

end Sys2Proof.Slice0

/-- R167, R169 to R173, R182: an accepted vector instruction occupies the lanes, and its chunks, accumulator rows or descriptors enter from the issue
cycle on; a refused one sets bad or drop and changes nothing else. Rests on the readings and choices of log entries 14, 17, 21, 22. -/
def Obligations.VectorOperationsEnterLanes : Prop :=
  ∀ (s : State) (t : TileIx) (f : VecF) (ck : List CheckFail), ∀ o ∈ vecOps,
    let x := s.tile t.val
    let v := vInst x o.1 f ck
    let free := x.ve.lanesFree ≤ x.cyc
    let enters (y : Tile) (l : List (Nat × Nat × Act)) := issues s t (placed y 2 l)
    Calm x →
    (f.form = false → v.countBad = false → free → f.asrc = 0 → exec (o.2 t f ck) s = enters (lanesFor x (vq o.1 f.fm * v.chunks))
      ((List.range v.chunks).map (fun j => (x.cyc + vq o.1 f.fm * j, 20, .vChunk v j)))) ∧
    (f.form = false → v.countBad = false → free → f.asrc ≠ 0 → exec (o.2 t f ck) s = enters (lanesFor x v.accRows)
      ((List.range v.accRows).map (fun i => (x.cyc + i, 20, .vRow v i)))) ∧
    (f.form = true → descRefused v = false → free → exec (o.2 t f ck) s = enters (pathsFor x)
      ((List.range v.nDesc).map (fun i => (x.cyc + i, 0, .vDesc v i)))) ∧
    (f.form = false → v.countBad = true → exec (o.2 t f ck) s = tileNext s t (after (veRefused x 4))) ∧
    (f.form = true → descRefused v = true → exec (o.2 t f ck) s = tileNext s t (after (veRefused x 4))) ∧
    (f.form = false → v.countBad = false → ¬ free → exec (o.2 t f ck) s = tileNext s t (after (veRefused x 2))) ∧
    (f.form = true → descRefused v = false → ¬ free → exec (o.2 t f ck) s = tileNext s t (after (veRefused x 2)))

/-- R176, R177, R200: the results of an elementwise instruction of one chunk are those of the operation on its operand elements; they and their flags
retire L − 1 cycles after the issue cycle. Rests on the readings and choices of log entries 8, 14, 17. -/
def Obligations.ElementwiseResultsRetireAtLatency : Prop :=
  ∀ (s : State) (t : TileIx) (f : VecF) (ck : List CheckFail), ∀ o ∈ elemOps,
    let x := s.tile t.val
    let v := vInst x o.1 f ck
    let at_ (use : Bool) (r i : Nat) : Elem := if use then velem x.ve f.fm r i else ⟨i, 0, false⟩
    let rs := (List.range f.cnt).map (fun i => v.elem x (x.ve.rngN + 1) (at_ (usesA o.1) f.va.toNat i)
      (at_ (usesB o.1 && f.bsrc = 0) f.vb.toNat i) (at_ (usesC o.1) f.vc.toNat i) (v.bval x))
    let fl := fUnion (rs.map (·.2))
    Calm x → f.form = false → f.asrc = 0 → v.countBad = false → x.ve.lanesFree ≤ x.cyc → v.ck = [] → f.cnt ≤ v.C →
    exec (o.2 t f ck) s = tileNext s t (after (retiring (lanesFor x (vq o.1 f.fm)) 2
      ([(x.cyc + v.L - 1, .vec (elemsWr v.rf f.vd.toNat (rs.map (·.1))))] ++ if fl = 0 then [] else [(x.cyc + v.L - 1, .flags fl 1)])))

/-- R171, R187, R188, R193 to R197: product tables, expansion, recombination, and the two control operations of the vector slot. Rests on the readings
and choices of log entries 14, 18, 21, 22. -/
def Obligations.TableExpandAndRecombineIssue : Prop :=
  ∀ (s : State) (t : TileIx) (f : VecF) (ck : List CheckFail),
    let x := s.tile t.val
    let free := x.ve.lanesFree ≤ x.cyc
    let v (op : VOp) := vInst x op f ck
    let nb := (f.cnt * 2 ^ f.sub.toNat + 15) / 16
    let ne := (marr x f.arr.toNat).sliceN.toNat
    Calm x →
    (s.fx = true → x.sf.use = 1 → free → (v .ptld).ptBad = false → exec (.ptld t f ck) s = issues s t
      (placed { lanesFor x nb with ve := { (lanesFor x nb).ve with ptldEnd := x.cyc + 4 + nb } } 2 [(x.cyc, 20, .vPtld (v .ptld) 0)])) ∧
    (s.fx = true → x.sf.use = 1 → free → (v .ptmac).ptBad = false → exec (.ptmac t f ck) s = issues s t
      (placed (lanesFor x (v .ptmac).chunks) 2 ((List.range (v .ptmac).chunks).map (fun j => (x.cyc + j, 20, .vChunk (v .ptmac) j))))) ∧
    (s.fx = true → x.sf.use = 1 → exec (.ptswap t f) s = tileNext s t (after { x with ve := { x.ve with ptbank := !x.ve.ptbank } })) ∧
    (∀ i ∈ [Instr.ptld t f ck, .ptmac t f ck, .ptswap t f],
      (s.fx = false → exec i s = tileNext s t (after (veRefused x 4))) ∧
      (s.fx = true → x.sf.use ≠ 1 → exec i s = tileNext s t (after (veRefused x 8)))) ∧
    (free → exec (.expand t f ck) s = issues s t (placed (pathsFor x) 2 ((List.range 2).map (fun i => (x.cyc + i, 0, .vDesc (v .expand) i))))) ∧
    ((v .rcmb).rcBad = false → ne ≠ 0 → f.arow.toNat + f.cnt * ne ≤ 128 → free → exec (.rcmb t f ck) s = issues s t
      (placed (lanesFor x (f.cnt * ne)) 2 ((List.range (f.cnt * ne)).map (fun q => (x.cyc + q, 20, .rcRow (v .rcmb) ne q))))) ∧
    (¬ free → exec (.expand t f ck) s = tileNext s t (after (veRefused x 2))) ∧
    ∃ keep : Nat → Bool, exec (.summaryBroadcastClear t) s = tileNext s t (after { x with
      seq := { x.seq with sum := (List.range 8).foldl (fun m k => tset 0 m k (if keep k then tget 0 x.seq.sum k else 0)) x.seq.sum }
      ve := { x.ve with sumpois := 0 } })

/-- R157, R186, R551: loads read their units from the cycle after issue, stores write theirs from the third cycle on with the elements that they read
at issue; a refused transfer sets bad, one that comes too early drop. Rests on the readings and choices of log entries 14, 17. -/
def Obligations.LoadStoreSlotMovesUnits : Prop :=
  ∀ (s : State) (t : TileIx) (f : LsF),
    let x := s.tile t.val
    let l (op : Nat) := lInst x op f
    let free := x.ve.lsFree ≤ x.cyc ∧ x.ve.pathFree ≤ x.cyc
    let badZ := f.fmt?.isNone || !regFmt f.fm || f.fm = .raw || groupBad f.fm f.vr.toNat (64 * f.e.toNat + 64)
    let reads (op : Nat) := (List.range (l op).units).map (fun u => (x.cyc + 1 + u, 20, Act.vldUnit (l op) u))
    Calm x →
    ((l 1).bad = false → free → exec (.vld t f) s = tileNext s t (after (placed (lsFor x (l 1).units) 4 (reads 1)))) ∧
    ((l 2).bad = false → free → exec (.vldS t f) s = tileNext s t (after (placed (lsFor x (l 2).units) 4 (reads 2 ++
      (List.range (((f.cnt + 31) / 32 + 63) / 64)).map (fun v => (x.cyc + 1 + v, 30, Act.vldScale (l 2) v)))))) ∧
    ((l 3).bad = false → free → exec (.vst t f) s = tileNext s t (after (placed (lsFor x (l 3).units) 4
      ((List.range (l 3).units).map (fun u => (x.cyc + 3 + u, 40,
        Act.vstUnit (l 3) u (velems x.ve f.fm f.vr.toNat (u * (l 3).perUnit) ((l 3).unitCnt u)))))))) ∧
    (badZ = false → free → exec (.vstZ t f) s = tileNext s t (after (placed (lsFor x 1) 4
      [(x.cyc + 3, 50, Act.vstZ (l 4) (velems x.ve f.fm f.vr.toNat (64 * f.e.toNat) 64))]))) ∧
    (∀ o ∈ [((l 1).bad, Instr.vld t f), ((l 2).bad, .vldS t f), ((l 3).bad, .vst t f), (badZ, .vstZ t f)],
      (o.1 = true → exec o.2 s = tileNext s t (after (veRefused x 4))) ∧
      (o.1 = false → ¬ free → exec o.2 s = tileNext s t (after (veRefused x 2))))

/-- R205, R207, R219, R220, R223, R230, R231: an accepted special-function instruction occupies the slot, and its chunks, descriptors or units follow
in their cycles; a refused one sets noclaim, bad or drop and changes nothing else. Rests on the readings and choices of log entries 14, 19. -/
def Obligations.SpecialFunctionsTakeGrants : Prop :=
  ∀ (s : State) (t : TileIx) (f : SfF) (ck : List CheckFail),
    let x := s.tile t.val
    let free := x.sf.free ≤ x.cyc
    Calm x →
    (∀ o ∈ [(0, Instr.sfnFunc t f ck), (1, .softmax t f ck), (2, .rstat t f ck)],
      let i := sInst x o.1 f ck
      let took := [i.G, 2 * i.G + 20, i.G + 30 + (if i.rstd then 12 else 0)].getD o.1 0
      let claimed := i.isUser = true → x.sf.use = 2
      let bad := i.bad = true ∨ (i.isUser = true ∧ hdrBad i.hdr = true)
      (claimed → ¬ bad → free → f.form = false → exec o.2 s = issues s t (placed (sfFor x took) 3
        ((List.range i.chunks).map (fun j => (x.cyc + i.gSum j, 5, .sfChunk i j (x.cyc + 1 + i.gSum j)))))) ∧
      (claimed → ¬ bad → free → f.form = true →
        exec o.2 s = issues s t (placed (sfFor x 2) 3 [(x.cyc, 0, .sfDesc i 0), (x.cyc + 1, 0, .sfDesc i 1)])) ∧
      (¬ claimed → exec o.2 s = tileNext s t (after (sfRefused x 0x20))) ∧
      (claimed → bad → exec o.2 s = tileNext s t (after (sfRefused x 4))) ∧
      (claimed → ¬ bad → ¬ free → exec o.2 s = tileNext s t (after (sfRefused x 2)))) ∧
    (let i := sInst x 3 f ck
     let src := i.sva.toNat % 2 ^ 23
     let dst := i.svd.toNat
     let fits := src % 64 = 0 ∧ dst % 64 = 0 ∧ src + 64 * i.cnt ≤ spSize ∧ dst + 64 * i.cnt ≤ 0x20000
     (x.sf.use = 2 → fits → free → exec (.sfld t f ck) s = tileNext s t (after (placed (sfFor x i.cnt) 3
       ((List.range i.cnt).map (fun u => (x.cyc + 2 + u, 10, .sfldUnit (src + 64 * u) (dst + 64 * u))))))) ∧
     (x.sf.use ≠ 2 → exec (.sfld t f ck) s = tileNext s t (after (sfRefused x 0x20))) ∧
     (x.sf.use = 2 → ¬ fits → exec (.sfld t f ck) s = tileNext s t (after (sfRefused x 4))) ∧
     (x.sf.use = 2 → fits → ¬ free → exec (.sfld t f ck) s = tileNext s t (after (sfRefused x 2))))

/-- R115, R134 to R136, R139: a matrix operation on a free array becomes its running operation, behind a running one the pending operation; no other
array, no memory and no vector register changes in its issue cycle; a refused one sets drop, off, bad or clash. Rests on the readings and choices
of log entries 14, 16. -/
def Obligations.MatrixOperationsRunPendOrDrop : Prop :=
  ∀ (s : State) (t : TileIx) (f : MxF) (ck : List CheckFail), ∀ o ∈ mxOps,
    let x := s.tile t.val
    let n := f.arr.val
    let a := marr x n
    let off := (scalarOf x f.sr.toNat).toNat % 2 ^ 23
    let words := (List.range 8).map (fun i => BitVec.ofNat 64 (leNatP (((spRead x off 64).drop (8 * i)).take 8)))
    let c := if o.1 = .accst then [] else ck.filter (fun k => k.unit = 0)
    let q : MxOp := ⟨x.seqNo, x.seq.pc.toNat, o.1, words, c⟩
    let on := a.pend = none ∧ x.mx.clken.getLsbD n = true ∧ off % 64 = 0
    Calm x →
    (on → q.bad s.fx = false → q.clash a = false → ∃ (y : Tile) (b : MxArr), exec (o.2 t f ck) s = tileNext s t y ∧
      y.mx = { x.mx with arr := tset MxArr.zero x.mx.arr n b } ∧ b.acc = a.acc ∧
      (a.run = none → b.run = some q ∧ b.pend = none) ∧ (∀ r, a.run = some r → b.run = some r ∧ b.pend = some q) ∧ y.sp = x.sp ∧ y.spPois = x.spPois ∧ y.ve.vreg = x.ve.vreg ∧
      y.seq = (goOn (issued x)).seq ∧ y.rets = x.rets) ∧
    (on → q.bad s.fx = true → exec (o.2 t f ck) s = tileNext s t (after (mxRefused x n 4))) ∧
    (on → q.bad s.fx = false → q.clash a = true → exec (o.2 t f ck) s = tileNext s t (after (mxRefused x n 8))) ∧
    (a.pend ≠ none → exec (o.2 t f ck) s = tileNext s t (after (mxRefused x n 2))) ∧
    (a.pend = none → x.mx.clken.getLsbD n = false → exec (o.2 t f ck) s = tileNext s t (after (mxRefused x n 16))) ∧
    (a.pend = none → x.mx.clken.getLsbD n = true → off % 64 ≠ 0 → exec (o.2 t f ck) s = tileNext s t (after (mxRefused x n 4)))

/-- R115, R116: when the running operation of an array ends in this cycle and nothing else falls due, the pending one becomes the running one; without
a pending operation nothing changes. Rests on the readings and choices of log entries 16, 55. -/
def Obligations.PendingOperationTakesArray : Prop :=
  ∀ (s : State) (t : TileIx) (n : Fin 4) (ck : List CheckFail) (k : Task) (rest : List Task) (r p : MxOp),
    let x := s.tile t.val
    let a := marr x n.val
    (a.pend = none → x ≠ Tile.reset → x.outs.all TileOut.isPhase = true → exec (.pendingOperationStart t n ck) s = tileNext s t x) ∧
    (a.pend = some p → a.run = some r → x.power = .noon → x.seq.st ≠ .waiting → x.seq.chk = false → x.outs.all TileOut.isPhase = true →
      x.tasks = k :: rest → k.act = .mxEnd n.val → k.at_ = x.cyc → (∀ j ∈ rest, x.cyc < j.at_) → (∀ j ∈ x.rets, x.cyc < j.at_) →
      ∃ (y : Tile) (b : MxArr), exec (.pendingOperationStart t n ck) s = tileNext s t y ∧ y.cyc = x.cyc + 1 ∧
        y.mx = { x.mx with arr := tset MxArr.zero x.mx.arr n.val b } ∧ b.acc = a.acc ∧
        b.run = some { p with ck := p.ck ++ ck.filter (fun c => c.unit = 0) } ∧ b.pend = none ∧ y.sp = x.sp ∧ y.seq = x.seq ∧ y.rets = x.rets)

namespace Sys2Proof.Slice0

/-! ### Claims, channels, directory, translator -/

/-- A claims register whose command had result r: 0 none, 1 held, 2 refused, 3 mode (R506). -/
def claimResult (c : W32) (r : Nat) : W32 := (c &&& ~~~0x30000000#32) ||| BitVec.ofNat 32 (r * 2 ^ 28)

/-- A claims register after CLAIM of a use by tag g (R506): `ok` whether the mode permits the use, `may` whether the claimer may claim. -/
def claimTaken (c : W32) (g : Tag) (use : W32) (ok may : Bool) : W32 :=
  if may = false then claimResult c 2
  else if c &&& 0xF#32 ≠ 0 then claimResult c 1
  else if use = 0 then claimResult c 0
  else if ok = false then claimResult c 3
  else (if g.fw then 0x00800000#32 else 0) ||| BitVec.ofNat 32 (g.part % 4 * 2 ^ 20) ||| BitVec.ofNat 32 (g.ctx % 16 * 2 ^ 16) ||| use

/-- A claims register after RELEASE by tag g (R506): its owner and firmware release it. -/
def claimReleased (c : W32) (g : Tag) : W32 :=
  if c &&& 0xF#32 = 0 then claimResult c 0
  else if g.fw = true ∨ (c.getLsbD 23 = false ∧ c.toNat / 2 ^ 20 % 4 = g.part ∧ c.toNat / 2 ^ 16 % 16 = g.ctx) then 0
  else claimResult c 2

/-- EVT_IO low under use 4 of its claim: PWR_SWALLOW is held at 8 or more, and PWR_EVT.fast is set (R508). -/
def evtHeld (s : State) : State :=
  if s.trc.clmEvt &&& 0xF#32 = 4 ∧ s.pin.evtIo = false then
    { s with pwr := { s.pwr.event 4 with swallow := if s.pwr.swallow < 8 then 8 else s.pwr.swallow } }
  else s

/-- The channel as a control write that leaves its fields as they stand finds it: bits that the register does not have are 0 (R12, R378). -/
def ctlKept (c : DmaCh) (sys : Bool) : DmaCh := if c.st = .idle then c.setWord sys 7 c.ctrl else c

end Sys2Proof.Slice0

/-- R506 to R509, R517: CLAIM and RELEASE change the claims registers; a claim of the trace buffer that succeeds empties it. A falling edge of EVT_IO
freezes it under use 2 and starts the hold of use 4; a rising edge ends the hold. Rests on the readings and choices of log entries 23, 26. -/
def Obligations.ClaimAndReleaseSetOwner : Prop :=
  ∀ (s : State) (a : Agent) (v : W32),
    let g := s.tagOf a
    let use := v &&& 0xF#32
    let e := s.trc.clmEvt
    let c := s.trc.clmTrc
    let evtOk := use = 1 ∨ use = 4 ∨ ((use = 2 ∨ use = 3) ∧ s.sec.debugOpen = true)
    let trcOk := use = 1 ∨ (use = 2 ∧ s.sec.debugOpen = true ∧ s.sec.conf = false)
    (∀ t : TileIx, Reaches s a t → (s.tile t.val).power = .noon →
      let x := s.tile t.val
      exec (.claim (.tsf t) a v) s = tileWrote s t { x with sf := { x.sf with claim := claimTaken x.sf.claim g use (use ≠ 3 ∨ g.fw = true) true } } ∧
      exec (.release (.tsf t) a v) s = tileWrote s t { x with sf := { x.sf with claim := claimReleased x.sf.claim g } }) ∧
    (MayWrite s a →
      exec (.claim .evt a v) s = hubWrote a (evtHeld { s with trc := { s.trc with clmEvt := claimTaken e g use evtOk g.fw } }) ∧
      exec (.release .evt a v) s = hubWrote a (evtHeld { s with trc := { s.trc with clmEvt := claimReleased e g } }) ∧
      (c &&& 0xF#32 = 0 → use ≠ 0 → trcOk → exec (.claim .trc a v) s = hubWrote a { s with trc := { s.trc with
        clmTrc := claimTaken c g use true true, held := 0, next := 0, seq := 0, xctx := 0, full := 0, buf := [] } }) ∧
      (c &&& 0xF#32 ≠ 0 ∨ use = 0 ∨ ¬ trcOk →
        exec (.claim .trc a v) s = hubWrote a { s with trc := { s.trc with clmTrc := claimTaken c g use trcOk true } }) ∧
      exec (.release .trc a v) s = hubWrote a { s with trc := { s.trc with clmTrc := claimReleased c g } }) ∧
    (let low := { s with pin := { s.pin with evtIo := false } }
     exec .evtIoRisingEdge s = .next { s with pin := { s.pin with evtIo := true } } ∧
     (e &&& 0xF#32 ≠ 2 → exec .evtIoFallingEdge s = .next (evtHeld low)) ∧
     (e &&& 0xF#32 = 2 → exec .evtIoFallingEdge s = .next { low with trc := { s.trc with frozen := true } }))

/-- R300, R301, R378, R379, R390, R391: DMA_START, DMA_ABORT and DMA_DISABLE by a register write or by the DMA slot act on their channel; a start of an
idle channel whose checks pass makes it Running, of a busy one sets again. Rests on the readings and choices of log entries 5, 14, 23, 25. -/
def Obligations.DmaControlActsOnItsChannel : Prop :=
  ∀ (s : State) (a : Agent),
    (∀ (t : TileIx) (n : Fin 8), Reaches s a t → (s.tile t.val).power = .noon →
      let x := s.tile t.val
      let c := ctlKept (tdma x n.val) false
      let wrote (e : DmaEnd) := tileWrote s t (tileDmaEnd x n.val e)
      exec (.dmaStart (.reg (.tile t n)) a) s = wrote (c.start false) ∧
      (a ≠ .tile t → exec (.dmaAbort (.tile t n) a) s = wrote c.abort ∧
        exec (.dmaDisable (.tile t n) a) s = wrote (c.disable (s.free.truncate 40))) ∧
      (c.st = .idle → c.check false = 0 → c.isZero = false →
        wrote (c.start false) = tileWrote s t (setTdma x n.val { c with st := .running, code := 1, next := 0, infl := [] })) ∧
      (c.st ≠ .idle → wrote (c.start false) = tileWrote s t (setTdma x n.val { c with again := true }))) ∧
    (∀ n : Fin 64, MayWrite s a → s.hubEn 1 = true → s.sec.conf = false →
      let c := ctlKept (s.chan n.val) true
      let wrote (e : DmaEnd) := hubWrote a ((s.drawn 1).chanEnd (.sys n) e)
      exec (.dmaStart (.reg (.sys n)) a) s = wrote (c.start true) ∧ exec (.dmaAbort (.sys n) a) s = wrote c.abort ∧
      exec (.dmaDisable (.sys n) a) s = wrote (c.disable (s.free.truncate 40))) ∧
    (∀ (t : TileIx) (n : Fin 8) (sr : BitVec 4), Calm (s.tile t.val) →
      let x := s.tile t.val
      exec (.dmaStart (.slot t n sr) a) s = tileNext s t (after (placed x 5
        [(x.cyc + 1, 0, .dmaImg n.val ((scalarOf x sr.toNat).toNat % 2 ^ 23))])) ∧
      ((tdma x n.val).st = .running → (tdma x n.val).infl.any (·.outstanding) = true →
        exec (.dmaAbort (.tile t n) (.tile t)) s = tileNext s t (after (setTdma x n.val { tdma x n.val with st := .halting, exit := 3 })) ∧
        exec (.dmaDisable (.tile t n) (.tile t)) s = tileNext s t (after (setTdma x n.val { tdma x n.val with st := .draining, code := 7 }))))

/-- R385, R386, R388: a Running channel issues its next write, or the read of its next burst while it has room; a response reaches the channel that
issued its request, and after a retry delay the request goes out again. Rests on the readings and choices of log entries 5, 25. -/
def Obligations.DmaBurstsIssueRespondAndRetry : Prop :=
  ∀ (s : State) (t : TileIx) (n : Fin 8),
    let x := s.tile t.val
    let c := tdma x n.val
    let b := c.burst c.next
    let send (d : DmaCh) (q : Req) := State.sendReq (s.setTile t.val (setTdma x n.val d)) q
    (c.st = .running → issueWrite c.infl = none → c.inFlight < 4 → c.next < c.bursts →
      exec (.dmaBurstIssue (.tile t n)) s = .next (send { c with next := c.next + 1, infl := c.infl ++ [b] }
        ⟨.tile t, n.val, b.idx, b.raddr, .read b.rlen⟩)) ∧
    (∀ d w l, c.st = .running → issueWrite c.infl = some (d, w, l) → exec (.dmaBurstIssue (.tile t n)) s = .next (send { c with infl := l }
      ⟨.tile t, n.val, d.idx, w.addr, .write ((d.data.drop w.off).take w.len)⟩)) ∧
    (∀ (i : Nat) (r : Resp), s.resps[i]? = some r →
      (r.req.src = .tile t → r.req.chan = n.val → exec (.dmaResponse (.tile t n) i) s =
        .next (({ s with resps := s.resps.eraseIdx i, draws := s.draws + 1 } : State).setTile t.val
          (tileDmaEnd x n.val (c.response r (s.free.truncate 40))))) ∧
      (r.req.src ≠ .tile t ∨ r.req.chan ≠ n.val → exec (.dmaResponse (.tile t n) i) s = .next s)) ∧
    (∀ (k : Nat) (d : DmaBurst), c.st = .running → c.infl.find? (fun y => y.idx = k) = some d → d.rst = 3 →
      exec (.dmaRetryReissue (.tile t n) k) s = .next (send { c with
        infl := c.infl.map (fun y => if y.idx = d.idx then { d with rst := 1, rtries := d.rtries + 1 } else y) }
          ⟨.tile t, n.val, d.idx, d.raddr, .read d.rlen⟩))

/-- R258, R260: a stash slot is claimed when it is free, sealed by its owner with a base on 4 KiB inside the stacks, released by its owner or firmware;
its fields are written by the owner while it is open. Rests on the readings and choices of log entry 39. -/
def Obligations.StashSlotsFollowTheirOwner : Prop :=
  ∀ (s : State) (a : Agent) (i : Fin 64) (tag : BitVec 20) (v : W64),
    let x := s.slotOf i.val
    let g := s.tagOf a
    let owner := x.part.toNat = g.part ∧ x.ctx.toNat = g.ctx
    let wrote (y : StashSlot) := hubWrote a (s.setSlotOf i.val y)
    let sealable := x.st = 1 ∧ owner ∧ x.base.toNat % 4096 = 0 ∧ x.base.toNat + x.size.toNat ≤ memEnd
    let mine := x.st = 1 ∧ owner
    s.stashFree.getLsbD i.val = decide (x.st = 0) ∧
    (MayWrite s a →
    (x.st = 0 → exec (.stashClaim a i tag) s =
      wrote { x with st := 1, part := BitVec.ofNat 2 g.part, ctx := BitVec.ofNat 4 g.ctx, tag := tag }) ∧
    (x.st ≠ 0 → exec (.stashClaim a i tag) s = wrote x) ∧
    (sealable → exec (.stashSeal a i) s = wrote { x with st := 2 }) ∧ (¬ sealable → exec (.stashSeal a i) s = wrote x) ∧
    (x.st ≠ 0 → owner ∨ g.fw = true → exec (.stashRelease a i) s = wrote { x with st := 0, part := 0, ctx := 0, tag := 0 }) ∧
    (x.st = 0 ∨ (¬ owner ∧ g.fw = false) → exec (.stashRelease a i) s = wrote x) ∧
    (mine → exec (.stashFieldWrite a i .base v) s = wrote { x with base := v &&& 0x1FFFFFFFFFF#64 } ∧
      exec (.stashFieldWrite a i .size v) s = wrote { x with size := v } ∧
      exec (.stashFieldWrite a i .nrec v) s = wrote { x with nrec := v.truncate 32 }) ∧
    (¬ mine → ∀ f, exec (.stashFieldWrite a i f v) s = wrote x))

/-- R265 to R269, R473: a translator request is written and served by its doorbell, one while another is in progress sets over, and its completion
writes the record, clears busy and sets the latch of R473. A load that passes the checks adds its module (R268, R291), an unload takes out one that
no launch uses (R269). Rests on the readings and choices of log entries 10, 39. -/
def Obligations.TranslatorServesOneRequest : Prop :=
  ∀ (s : State) (a : Agent) (p : PartIx) (v : W64),
    let b := s.npcOf p.val
    let req := b.req.toNat
    let r := s.hubRead ⟨false, p.val, noCtx⟩ req 64
    let busy (addr : Option Nat) (rec_ : List Byte) := s.setNpc p.val { b with busy := some ⟨addr, rec_, 10⟩ }
    MayWrite s a → p.val < partCount s.partMode →
    (b.busy = none → exec (.npcRequestWrite a p v) s = hubWrote a (s.setNpc p.val { b with req := v &&& 0x1FFFFFFFFC0#64 })) ∧
    (∀ i ∈ [Instr.npcRequestWrite a p v, .npcLoad a p, .npcUnload a p], b.busy ≠ none →
      exec i s = hubWrote a (s.setNpc p.val { b with overrun := true })) ∧
    (∀ i ∈ [Instr.npcLoad a p, .npcUnload a p], b.busy = none →
      (req % 64 ≠ 0 ∨ r.1 ≠ 0 → exec i s = hubWrote a (busy none [])) ∧
      (req % 64 = 0 → r.1 = 0 → s.reqOk p.val r.2 = true → leAt r.2 0 2 = 1 → exec i s = hubWrote a (s.npcLoadGo p.val r.2)) ∧
      (req % 64 = 0 → r.1 = 0 → s.reqOk p.val r.2 = true → leAt r.2 0 2 = 2 → exec i s = hubWrote a (s.npcUnloadGo p.val r.2))) ∧
    (b.busy = none → exec (.npcRequestComplete p) s = .next s) ∧
    (∀ x, b.busy = some x → x.recAddr = none → exec (.npcRequestComplete p) s =
      .next ((s.setNpc p.val { b with busy := none, last := x.status }).latch (12 + p.val))) ∧
    (∀ x m, b.busy = some x → x.recAddr = some m → exec (.npcRequestComplete p) s =
      .next ((((s.hubWrite ⟨false, p.val, noCtx⟩ m (clean x.record)).1).setNpc p.val { b with busy := none, last := x.status }).latch (12 + p.val))) ∧
    (∀ d : List PByte,
      let c := leAt d 2 1
      let r := s.hubRead ⟨false, p.val, noCtx⟩ (leAt d 8 8) (leAt d 16 8)
      let m := plain r.2
      let checked := decide (leAt d 3 1 = 1) || decide (modAt m 5 1 % 2 = 1)
      let h := leAt d 32 4
      (s.npcLoadGo p.val d).modules = (if r.1 = 0 ∧ moduleFail s.fx s.partMode p.val checked m = none then
        s.modules ++ [⟨s.nextSerial, p.val, c, checked, moduleKernels s.fx s.partMode checked m⟩] else s.modules) ∧
      (s.npcUnloadGo p.val d).modules = match s.modules.find? (fun y => y.serial = h / 65536 && y.part = p.val && y.ctx = c) with
        | some x => if h % 65536 = 0 ∧ s.moduleInUse x = false then s.modules.filter (fun y => y.serial ≠ x.serial) else s.modules
        | none => s.modules)

/-- R288, R289, R368, R370, R405: a collective is queued with the next sequence number of its group, an update on all twelve units; the model leaves
one that finds a full queue out (log entry 53), and a gated convoy engine takes no collective. Rests on the readings and choices of log entries 14,
31, 53. -/
def Obligations.TilesQueueCollectivesAndUpdates : Prop :=
  ∀ (s : State) (t : TileIx) (r : CollReq) (off : Nat) (ev : Fin 16) (group : BitVec 32) (step : W64),
    let p := partOfTile s.partMode t.val
    let c := s.ctxOf t.val
    let key := 1024 * c + r.group.toNat % 1024
    let seq := tget 0 s.cvy.seqs key
    let full := (List.range 12).any (fun k => decide (32 ≤ (s.unit k).queue.length))
    (s.hubEn 2 = true → s.cvy.queue.length < 64 → exec (.coll t r off ev) s = .next { s with
      nextId := s.nextId + 1
      cvy := { s.cvy with
        queue := s.cvy.queue ++ [{ id := s.nextId, part := p, ctx := c, req := r, reply := .tile t off ev, seq := seq }]
        seqs := tset 0 s.cvy.seqs key (seq + 1) } }) ∧
    (s.hubEn 2 = false ∨ 64 ≤ s.cvy.queue.length → exec (.coll t r off ev) s = .next s) ∧
    (full = true → exec (.upd t group step off ev) s = .next s) ∧
    (full = false → exec (.upd t group step off ev) s = .next
      { (List.range 12).foldl (fun x k => x.setUnit k { x.unit k with
          queue := (x.unit k).queue ++ [.pass s.nextId p c group.toNat step] }) s with
        nextId := s.nextId + 1, upds := s.upds ++ [⟨s.nextId, p, c, .tile t off ev, [], false⟩] })

/-- R322, R327, R329, R330, R340, R342, R348: a request is refused or queued under its class, issued while its class is eligible and then performed;
regulators refill, banks refresh, scrub steps and its period ends. Rests on the readings and choices of log entries 5, 29, 57. -/
def Obligations.StackControllersQueueAndIssue : Prop :=
  ∀ (s : State) (k : StackIx),
    let b := s.stack k.val
    let row (r : Req) := rowIdOf (r.addr % 2 ^ 37)
    let nothing (op : ReqOp) (pois : Bool) : List PByte := match op with | .read n => List.replicate n (0, pois) | .write _ => []
    (∀ r : Req, r.wf = true → r.addr < memEnd → s.mayArrive r = true →
      let u := { s with transit := s.transit.erase r }
      let g := s.tagOf r.src
      let j := r.addr / 2 ^ 37
      let c := s.memCheck g r.addr (opLen r.op)
      (c = 0 → exec (.stackRequest r) s =
        .next (u.setStack j { s.stack j with queue := (s.stack j).queue ++ [⟨r, if g.fw then 4 else g.part, 0⟩] })) ∧
      (c ≠ 0 → exec (.stackRequest r) s = .next (u.respond r c (nothing r.op (c = 5))))) ∧
    (∀ (cls : Fin 5) (nth : Nat) (ecc : List (Nat × Nat)) (x : StkReq), eccWf ecc = true → (b.queue.filter (·.cls = cls.val))[nth]? = some x →
      let older := (b.queue.filter (·.cls = cls.val)).take nth
      let goes := (tget 0 b.reg cls.val &&& 0x3FF#32 = 0 ∨ 0 ≤ tget 0 b.bucket cls.val) ∧ b.selfRefresh = false ∧ mayPass b x older = true
      let u := (s.setStack k.val { b with
        queue := (b.queue.erase x).map (fun y => if older.contains y && y.req.addr / 256 % 64 = x.req.addr / 256 % 64 then
          { y with passed := y.passed + 1 } else y)
        openRow := tset (2 ^ 32) b.openRow (bankOfRow (row x.req)) (row x.req) }).chargeStack k.val cls.val (reqCharge x.req)
      (∀ n, goes → x.req.op = .read n →
        let v := u.accessErrs k.val x.req.addr n (fun _ => false) ecc
        exec (.stackRequestIssue k cls nth ecc) s =
          .next (v.respond x.req (if anyPois (v.memRead x.req.addr n) then 5 else 0) (v.memRead x.req.addr n))) ∧
      (∀ d, goes → x.req.op = .write d →
        let whole (w : Nat) := decide (x.req.addr ≤ 32 * w ∧ 32 * w + 32 ≤ x.req.addr + d.length)
        exec (.stackRequestIssue k cls nth ecc) s =
          .next (((u.accessErrs k.val x.req.addr d.length whole ecc).memWrite x.req.addr d).respond x.req 0 [])) ∧
      (¬ goes → exec (.stackRequestIssue k cls nth ecc) s = .next s)) ∧
    exec (.regulatorRefill k) s = .next (s.setStack k.val (if b.halted then b else { b with
      bucket := [0, 1, 2, 3, 4].foldl (fun m c =>
        let reg := tget 0 b.reg c
        let rate := reg.toNat % 1024
        if rate = 0 then m
        else tset 0 m c (min (16384 * (reg.toNat / 65536 % 1024 + 1) : Nat)
          (tget 0 m c + (rate * 1000 / (if b.level = 1 then 2 else if b.level = 2 then 4 else 1) : Nat)))) b.bucket })) ∧
    (∀ (bank : Nat) (postpone : Bool), bankWf bank = true →
      let n := tget 0 b.postponed bank
      let waits := postpone = true ∧ n < 8 ∧ b.queue.any (fun x => bankOfRow (row x.req) = bank) = true
      exec (.refresh k bank postpone) s = .next (s.setStack k.val (if b.selfRefresh then b
        else { b with postponed := tset 0 b.postponed bank (if waits then n + 1 else 0) }))) ∧
    (∀ n ≤ 36,
      let on := b.scrubEn = true ∧ b.ready = true ∧ b.selfRefresh = false ∧ (tget 0 b.reg 4 &&& 0x3FF#32 = 0 ∨ 0 ≤ tget 0 b.bucket 4)
      (on → exec (.scrubStep k n) s = .next (((s.setStack k.val { b with scrubPos := b.scrubPos + 32 }).chargeStack k.val 4 32).sectorErr
        k.val ((k.val * 2 ^ 37 + b.scrubPos.toNat) / 32 * 32) n true)) ∧
      (¬ on → exec (.scrubStep k n) s = .next s)) ∧
    exec (.scrubPeriodEnd k) s = .next (s.setStack k.val { b with ce := [], ceRep := [] })

/-- R334, R335, R338, R343, R346, R347: writes of STK_RETADD, STK_RMLOAD, STK_FLTPOP, STK_THR and STK_CTRL.resume; a thermal sample moves the level.
Rests on the readings and choices of log entries 5, 23, 29, 42, 51. -/
def Obligations.StackSettingsAndLevelsFollowRules : Prop :=
  ∀ (s : State) (k : StackIx) (a : Agent) (v : W32) (e : W64) (t : Int),
    let b := s.stack k.val
    let wrote (x : StkBlk) := hubWrote a (s.setStack k.val x)
    (MayWrite s a →
      ((∃ n, a = .sc n) ∨ a = .bar0 → exec (.pageRetire a k v) s = wrote (
        if v.toNat / 2 ^ 21 ≠ k.val then { b with retBad := true }
        else if v.truncate 25 ∈ b.ret then b
        else if 4096 ≤ b.ret.length then { b with retFull := true }
        else { b with ret := b.ret ++ [v.truncate 25] })) ∧
      ((∀ n, a ≠ .sc n) → a ≠ .bar0 → exec (.pageRetire a k v) s = hubWrote a s) ∧
      (let row := e.toNat % 2 ^ 32
       let spare := e.toNat / 2 ^ 32 % 4
       let taken := b.rmap.any (fun x => pairOf (x.2.toNat % 2 ^ 32) = pairOf row && x.2.toNat / 2 ^ 32 % 4 = spare)
       exec (.remapLoad a k e) s = wrote (
        if b.ready = false ∧ e[63] = true ∧ b.remapped row = false ∧ row < 2 ^ 27 ∧ taken = false then
          { b with rmap := tset 0 b.rmap (b.freeEntry s.draws) (BitVec.ofNat 64 (2 ^ 63 + spare * 2 ^ 32 + row)) }
        else b)) ∧
      (v[0] = false → exec (.faultRecordPop a k v) s = hubWrote a s) ∧
      (v[0] = true → (∀ n, a ≠ .sc n) ∨ b.flt = [] ∨ s.lko.up = false → exec (.faultRecordPop a k v) s = wrote { b with flt := b.flt.drop 1 }) ∧
      (∀ r l n, v[0] = true → a = .sc n → b.flt = r :: l → s.lko.up = true → exec (.faultRecordPop a k v) s =
        hubWrote a { s.setStack k.val { b with flt := l } with lko := { s.lko with faultlog := s.lko.faultlog ++ [(k.val, r)] } }) ∧
      (let w := v &&& 0x0FFFFFFF#32
       exec (.thresholdWrite a k v) s = wrote (
        if thrOf w 0 < thrOf w 1 ∧ thrOf w 1 < thrOf w 2 ∧ thrOf w 2 ≤ 110 ∧ 1 ≤ hystOf w then { b with thr := w } else b)) ∧
      (let u := s.setStack k.val { b with scrubEn := v[30] }
       let x := u.stack k.val
       exec (.stackResume a k v) s = hubWrote a (
        if x.halted = true ∧ x.temp.toInt < thrOf x.thr 1 - hystOf x.thr then
          (u.setStack k.val { x with halted := false, selfRefresh := false }).setLevel k.val (levelOf x.thr x.temp.toInt)
        else u))) ∧
    (let y := BitVec.ofInt 8 (max (-128) (min 127 t))
     let sampled := { b with temp := y, tmax := some (match b.tmax with | some m => if m.toInt < y.toInt then y else m | none => y) }
     let reached : BitVec 2 := if thrOf b.thr 2 ≤ t then 3 else if thrOf b.thr 1 ≤ t then 2 else if thrOf b.thr 0 ≤ t then 1 else 0
     let new : BitVec 2 := if b.level = 3 then 3 else if b.level < reached then reached
       else if b.level = 1 ∧ t < thrOf b.thr 0 - hystOf b.thr then 0
       else if b.level = 2 ∧ t < thrOf b.thr 1 - hystOf b.thr then 1 else b.level
     let s1 := s.setStack k.val sampled
     let s2 := if 110 < t then { s1 with pin := { s.pin with thermtrip := true } } else s1
     let s3 := (s2.setStack k.val { sampled with level := new }).stkRec k.val 6 0 (4 * b.level.toNat + new.toNat) 0 0 noPages
     let s4 := if new = b.level then s2 else if new = 3 then s3.enterStorm k.val else s3.slowNotices k.val new
     let s5 := if s4.pin.thermtrip = true ∧ s.pin.thermtrip = false then s4.trip else s4
     exec (.stackThermalSample k t) s = .next (if b.level < (s5.stack k.val).level then s5.devWake else s5))

/-- R354, R359, R368, R370, R371, R373: a stratus unit takes the pass at the head of its queue, finishes it, serves or queues fused chunks, and reloads
its generator. Rests on the readings and choices of log entries 5, 6, 23, 30. -/
def Obligations.StratusUnitsServePassesAndChunks : Prop :=
  ∀ (s : State) (k : StackIx) (a : Agent) (v : W32) (c : StratChunk) (ck : List CheckFail),
    let u := s.unit k.val
    let b := s.stack k.val
    (∀ id p x g step q, u.run = none → u.queue = .pass id p x g step :: q → b.selfRefresh = false ∨ b.halted = true →
      let s1 := s.setUnit k.val { u with queue := q, ctx := BitVec.ofNat 4 x, group := BitVec.ofNat 12 g, prog := 0, phase2 := false }
      let cnt := min 4096 (tget 0 (s1.unit k.val).gtCnt x).toNat
      let report (code : Nat) (sound : Bool) := ((s1.stratLast k.val x g (unitWord k.val code 0) sound).unitDone id k.val
        (unitWord k.val code 0) true).serveQueue k.val q.length
      (cnt = 0 → exec (.stratusPassStart k ck) s = .next ((s1.unitDone id k.val 0 false).serveQueue k.val q.length)) ∧
      (cnt ≠ 0 → b.halted = true → exec (.stratusPassStart k ck) s = .next (report 5 false)) ∧
      (cnt ≠ 0 → b.halted = false → partOfStack s.partMode k.val ≠ p → exec (.stratusPassStart k ck) s = .next (report 4 false)) ∧
      (cnt ≠ 0 → b.halted = false → partOfStack s.partMode k.val = p → cnt ≤ g → exec (.stratusPassStart k ck) s = .next (report 3 false)) ∧
      (∀ code sound, s1.stratCheck k.val p x g step = .fail code sound → exec (.stratusPassStart k ck) s = .next (report code sound)) ∧
      (∀ d sc ly, s1.stratCheck k.val p x g step = .ok d sc ly → exec (.stratusPassStart k ck) s =
        .next (s1.setUnit k.val { s1.unit k.val with run := some ⟨id, x, g, step, d, sc, ly, ck⟩ }))) ∧
    (u.run ≠ none → exec (.stratusPassStart k ck) s = .next s) ∧
    (u.run = none → exec (.stratusPassComplete k) s = .next s) ∧
    (∀ run, u.run = some run →
      let r := s.stratPass k.val run
      let s1 := r.1.chargeStack k.val (partOfStack s.partMode k.val) (shardN run.desc * elemTraffic run.desc / 32)
      let s2 := s1.setUnit k.val { s1.unit k.val with run := none }
      let word := (r.2 &&& 0xF00#32)
      let s3 := (s2.stratLast k.val run.ctx run.group word true).unitDone run.id k.val word true
      exec (.stratusPassComplete k) s = .next (s3.serveQueue k.val (s3.unit k.val).queue.length)) ∧
    (∀ o ∈ [(Instr.add k c, 0), (.finalAdd k c, 1), (.finalSet k c, 2)],
      (u.run = none → u.queue = [] → b.selfRefresh = false → exec o.1 s = .next (s.serveChunk k.val o.2 c)) ∧
      (u.run ≠ none ∨ u.queue ≠ [] ∨ b.selfRefresh = true →
        exec o.1 s = .next (s.setUnit k.val { u with queue := u.queue ++ [.chunk o.2 c] }))) ∧
    (∀ o f, u.fused.find? (fun x => x.ctx = c.ctx.val && x.group = c.group.toNat) = some f → chunkOk f.desc c = true → b.halted = false → o = 0 →
      let w := s.memWrite (leOf f.desc 32 8 + 4 * c.first) ((rangeFrom c.first c.vals.length).flatMap (fun e =>
        let x := addGrad (s.gradAt f.desc e) (chunkVal c e)
        markBytes 4 x.1 x.2))
      s.serveChunk k.val o c = w.setUnit k.val { w.unit k.val with fused := (w.unit k.val).fused.map (fun x =>
        if x.ctx = c.ctx.val && x.group = c.group.toNat then { f with accepted := true } else x) }) ∧
    (MayWrite s a →
      (u.run ≠ none → exec (.stratusReseed a k v) s = hubWrote a s 4) ∧
      (u.run = none → v[1] = true → exec (.stratusReseed a k v) s = hubWrote a (s.setUnit k.val { u with
        fixed := true, rng := rngNonzero (rngMix (u.seed + 0x9E3779B97F4A7C15#64)), reseedBusy := true })) ∧
      (u.run = none → v[1] = false → exec (.stratusReseed a k v) s = hubWrote a { s.setUnit k.val { u with
        fixed := false, rng := rngNonzero (Config.entropy s.drawsEnt), reseedBusy := true } with drawsEnt := s.drawsEnt + 1 })) ∧
    exec (.stratusReseedComplete k) s = .next (s.setUnit k.val { u with reseedBusy := false })

namespace Sys2Proof.Slice0

/-- A port that enters a state afresh (R398): nothing in flight, sequence numbers as at the start; what it counts and shows stays. -/
def portFresh (p : PortBlk) (st : PortSt) (en : Bool) : PortBlk :=
  { PortBlk.zero with
    st := st, en := en, trainFail := p.trainFail, peerPort := p.peerPort, peerId := p.peerId, replays := p.replays, crcErr := p.crcErr }

/-- Port n changes its state (R398, R473): the port, and its event latch. -/
def portMoved (s : State) (n : PortIx) (p : PortBlk) : State :=
  let t := s.setPort n.val p
  { t with icu := { t.icu with evlatch := t.icu.evlatch ||| (1#18 <<< n.val) } }

/-- The cells up to the acknowledged one leave the replay buffer of port n, and waiting payloads go out (R396). -/
def acked (s : State) (n : PortIx) (ack : BitVec 12) : State :=
  let p := s.portOf n.val
  let rest := if p.unacked.any (fun c => c.seq = ack) then (p.unacked.dropWhile (fun c => c.seq ≠ ack)).drop 1 else p.unacked
  (s.setPort n.val { p with unacked := rest }).pumpPort n (p.txq.length + 1)

/-- A NAK leaves port n: it names the last cell received in order (R396). -/
def nakSent (s : State) (n : PortIx) : State := s.emit (.cell n ⟨0, (s.portOf n.val).rxSeq, 0, true, .nak⟩)

/-- A count that stays at its highest value. -/
def counted16 (x : BitVec 16) : BitVec 16 := if x = BitVec.allOnes 16 then x else x + 1

end Sys2Proof.Slice0

/-- R395 to R398, R421, R498: enabling, disabling and retraining a port, and the end of its training, move its state and latch the event. A port in UP
takes cells in sequence, answers a bad or missing one with NAK, replays after a NAK, sends and hears KEEPALIVE, and is lost when 8 windows have
passed without one. Rests on the readings and choices of log entries 23, 32, 57. -/
def Obligations.PortsTrainAndTakeCellsInSequence : Prop :=
  ∀ (s : State) (n : PortIx) (a : Agent) (id : BitVec 16) (pp : BitVec 4) (c : Cell) (ack : BitVec 12),
    let p := s.portOf n.val
    (MayWrite s a → s.hubEn 2 = true → s.portHere n.val = true →
      (p.st = .down → exec (.portEnable a n) s = hubWrote a (portMoved s n (portFresh p .train true))) ∧
      (p.st ≠ .down → exec (.portEnable a n) s = hubWrote a (s.setPort n.val { p with en := true })) ∧
      (p.st = .down ∨ p.st = .lost → exec (.portRetrain a n) s = hubWrote a (portMoved s n (portFresh p .train true))) ∧
      (p.st = .train ∨ p.st = .up → exec (.portRetrain a n) s = hubWrote a (s.setPort n.val { p with en := true })) ∧
      (p.st = .down → exec (.portDisable a n) s = hubWrote a (s.setPort n.val { p with en := false })) ∧
      (p.st ≠ .down → exec (.portDisable a n) s = hubWrote a (portMoved s n (portFresh p .down false)))) ∧
    (p.st = .train → exec (.trainingComplete n id pp) s =
        .next (portMoved s n { p with st := .up, peerId := id, peerPort := pp, missed := 0, heard := false }) ∧
      exec (.trainingTimeout n) s = .next (portMoved s n { portFresh p .down p.en with trainFail := true })) ∧
    (p.st ≠ .train → exec (.trainingComplete n id pp) s = .next s ∧ exec (.trainingTimeout n) s = .next s) ∧
    (let w := s.devWake
     let q := w.portOf n.val
     let took : PortBlk := match c.pay with
       | .data m i => { q with rxSeq := c.seq, parts := q.parts ++ [(m, { i with
           data := i.data.zipIdx.map (fun x => (x.1.1, c.pois.getLsbD (x.2 / 32))) })] }
       | .ctrl x => { q with rxSeq := c.seq, inbox := q.inbox ++ [x] }
       | _ => { q with rxSeq := c.seq }
     (∀ i ∈ [Instr.data n c, .ctrl n c],
       (p.st ≠ .up → exec i s = .next s) ∧
       (p.st = .up → c.crcOk = false → exec i s = .next (nakSent (w.setPort n.val { q with crcErr := counted16 q.crcErr }) n)) ∧
       (p.st = .up → c.crcOk = true → c.seq ≠ q.rxSeq + 1 → exec i s = .next (nakSent w n)) ∧
       (p.st = .up → c.crcOk = true → c.seq = q.rxSeq + 1 → exec i s = .next (acked (w.setPort n.val took) n c.ack))) ∧
     (p.st = .up → exec (.nak n ack) s = .next (
       let rest := if p.unacked.any (fun c => c.seq = ack) then (p.unacked.dropWhile (fun c => c.seq ≠ ack)).drop 1 else p.unacked
       (rest.foldl (fun x c => x.emit (.cell n { c with ack := p.rxSeq }))
         (s.setPort n.val { p with unacked := rest, replays := counted16 p.replays })).pumpPort n (p.txq.length + 1))) ∧
     (p.st = .up → c.crcOk = true → exec (.keepalive n c) s = .next (acked (s.setPort n.val { p with heard := true, missed := 0 }) n c.ack)) ∧
     (p.st = .up → c.crcOk = false → exec (.keepalive n c) s = .next (nakSent (s.setPort n.val { p with crcErr := counted16 p.crcErr }) n)) ∧
     (p.st = .up → exec (.keepaliveSend n) s = .next (s.emit (.cell n ⟨0, p.rxSeq, 0, true, .keepalive⟩))) ∧
     (p.st = .up → p.heard = true → exec (.keepaliveWindow n) s = .next (s.setPort n.val { p with heard := false, missed := 0 })) ∧
     (p.st = .up → p.heard = false → exec (.keepaliveWindow n) s = .next (
       let t := s.setPort n.val { p with missed := p.missed + 1 }
       if 8 ≤ p.missed.toNat + 1 then t.portLost n else t)) ∧
     (p.st ≠ .up → ∀ i ∈ [Instr.nak n ack, .keepalive n c, .keepaliveSend n, .keepaliveWindow n], exec i s = .next s))

/-- R402, R405, R406, R410, R411, R414, R416: the engine starts a queued collective or ends it with the code of its failing check; silence aborts it,
naming the rank; one that has done everything ends with OK. Rests on the readings and choices of log entry 31. -/
def Obligations.CollectivesStartTimeOutAndEnd : Prop :=
  ∀ (s : State) (fgid : W32) (rank : BitVec 16),
    (s.hubEn 2 = false ∨ s.cvy.pick = none → exec .collectiveStart s = .next s) ∧
    (∀ c0, s.hubEn 2 = true → s.cvy.pick = some c0 →
      (s.startCheck c0 = none → exec .collectiveStart s = .next (s.endColl c0 9 0xFFFF#16 none)) ∧
      (∀ c1, s.startCheck c0 = some c1 →
        let c := { c1 with ranges := s.collRanges c1 }
        let failed := s.cvy.failed.find? (fun f => f.1 = c.fgid && f.2.1 = c.epoch)
        (s.tensorOk c = false → exec .collectiveStart s = .next (s.endColl c 10 0xFFFF#16 none)) ∧
        (∀ f, s.tensorOk c = true → failed = some f → exec .collectiveStart s = .next (s.endColl c 6 f.2.2 none)) ∧
        (s.tensorOk c = true → failed = none → c.req.kind ≠ 3 ∨ c.req.pgroup = none →
          let held := s.cvy.held.filter (fun h => h.1.fgid = c.fgid)
          exec .collectiveStart s = .next ((s.runColl c).takeHeld c held)))) ∧
    (∀ c, s.cvy.run.find? (fun x => x.fgid = fgid) = some c →
      (let i := s.newIdent
       exec (.convoyTimeout fgid rank) s = .next ((i.2.flood c none i.1 (.abort c.msg ⟨i.1, rank, 5, 0⟩)).endColl c 5 rank none)) ∧
      (c.done = true → exec (.collectiveComplete fgid) s = .next (s.endColl c 0 0xFFFF#16 none)) ∧
      (c.done = false → exec (.collectiveComplete fgid) s = .next s)) ∧
    (s.cvy.run.find? (fun x => x.fgid = fgid) = none →
      exec (.convoyTimeout fgid rank) s = .next s ∧ exec (.collectiveComplete fgid) s = .next s) ∧
    (∀ (k : StackIx), exec (.slowRepeat k) s = .next (if (s.stack k.val).level = 0 then s else s.slowNotices k.val (s.stack k.val).level)) ∧
    (∀ c code second, c.req.kind ≠ 3 → ∀ a w, c.reply = .stream a w →
      let left := { s with cvy := { s.cvy with
        run := s.cvy.run.filter (fun x => x.id ≠ c.id), queue := s.cvy.queue.filter (fun x => x.id ≠ c.id) } }
      let word := BitVec.ofNat 32 (rank.toNat * 2 ^ 16 + code) |||
        (if c.retried = true ∨ (code = 0 ∧ c.retryUsed = true) then 0x400#32 else 0) |||
        (if c.pois then 0x200#32 else 0) ||| (if c.slowSeen then 0x100#32 else 0)
      s.endColl c code rank (some second) = left.answer (.stream a w) [word, second] (if code = 0 then 0 else 0xC))

/-- R404, R406, R407, R410, R412, R414, R415: a message whose cells a port has received is taken from it; one of another epoch is refused or counted as
stale; READY opens the flow, CHUNK carries bytes, REFUSE, ABORT and MEMBER_FAIL end collectives, SLOW marks them. Rests on the readings and choices
of log entries 31, 32. -/
def Obligations.ConvoyMessagesActOnTheirCollective : Prop :=
  ∀ (s : State) (n : PortIx) (m : ConvoyMsg) (r : ReadyInfo) (ci : ChunkInfo) (e : Byte) (x : CtrlInfo),
    let p := s.portOf n.val
    let took (y : CtrlPay) := s.setPort n.val { p with inbox := p.inbox.erase y }
    let parts := s.setPort n.val { p with parts := (chunkParts m ci).foldl (fun q z => q.erase z) p.parts }
    (∀ y i, (i, y) ∈ [(Instr.ready n m r, CtrlPay.ready m r), (.refuse n m e, .refuse m e), (.abort n m x, .abort m x),
        (.memberFail n m x, .memberFail m x), (.slow n m x, .slow m x)] → y ∉ p.inbox → exec i s = .next s) ∧
    ((chunkParts m ci).all p.parts.contains = false → exec (.chunk n m ci) s = .next s) ∧
    (.ready m r ∈ p.inbox → ∀ g, (took (.ready m r)).epochOf m.fgid = some g →
      let t := took (.ready m r)
      let hold := { t with cvy := { t.cvy with
        held := t.cvy.held.filter (fun h => !(h.1.fgid = m.fgid && h.1.from_ = m.from_)) ++ [(m, r)] } }
      (m.epoch ≠ g → exec (.ready n m r) s = .next (t.sendPay n (.ctrl (.refuse m g)))) ∧
      (m.epoch = g → t.collOf m.fgid = none → exec (.ready n m r) s = .next hold) ∧
      (∀ c, m.epoch = g → t.collOf m.fgid = some c → m.from_.toNat ∈ c.readyIn → exec (.ready n m r) s = .next hold) ∧
      (∀ c, m.epoch = g → t.collOf m.fgid = some c → m.from_.toNat ∉ c.readyIn → c.readyCode m r = 0 →
        exec (.ready n m r) s = .next (t.pumpColl { c with readyIn := m.from_.toNat :: c.readyIn })) ∧
      (∀ c, m.epoch = g → t.collOf m.fgid = some c → m.from_.toNat ∉ c.readyIn → c.readyCode m r ≠ 0 →
        exec (.ready n m r) s = .next (t.abortColl c (c.readyCode m r) (BitVec.ofNat 16 c.rank) none))) ∧
    ((chunkParts m ci).all p.parts.contains = true → ∀ g, parts.epochOf m.fgid = some g →
      (m.epoch ≠ g → exec (.chunk n m ci) s = .next (parts.sendPay n (.ctrl (.refuse m g)))) ∧
      (∀ c, m.epoch = g → parts.collOf m.fgid = some c → m.seq = c.seq → exec (.chunk n m ci) s = .next (parts.takeChunk c m.from_.toNat ci)) ∧
      (∀ c ch, m.epoch = g → parts.collOf m.fgid = some c → m.seq = c.seq → c.chunks[ci.index]? = some ch →
        (ci.index, ci.gather, m.from_.toNat) ∉ c.got → ci.data.length = ch.len → c.req.kind ≠ 2 → c.req.kind ≠ 3 → ci.gather = true →
        exec (.chunk n m ci) s = .next ((parts.vwrite c.ranges ch.off ci.data).pumpColl { c with
          got := (ci.index, ci.gather, m.from_.toNat) :: c.got, pois := c.pois || anyPois ci.data
          final := if c.final.contains ci.index then c.final else ci.index :: c.final }))) ∧
    (.refuse m e ∈ p.inbox → ∀ c, (took (.refuse m e)).collOf m.fgid = some c →
      let t := took (.refuse m e)
      (m.seq ≠ c.seq → exec (.refuse n m e) s = .next t) ∧
      (m.seq = c.seq → c.req.retry = false ∨ c.retryUsed = true →
        exec (.refuse n m e) s = .next (t.endColl c 1 (BitVec.ofNat 16 (s.rankAt n m.fgid)) none))) ∧
    (∀ y i, (i, y) ∈ [(Instr.abort n m x, CtrlPay.abort m x), (.memberFail n m x, .memberFail m x), (.slow n m x, .slow m x)] →
      y ∈ p.inbox → ∀ g, (took y).epochOf m.fgid = some g →
      let t := took y
      (m.epoch ≠ g → exec i s = .next { t with cvy := { t.cvy with stale := if t.cvy.stale = 0xFF then t.cvy.stale else t.cvy.stale + 1 } }) ∧
      (m.epoch = g → x.ident ∈ t.cvy.seen → exec i s = .next t)) ∧
    (.abort m x ∈ p.inbox → let t := took (.abort m x); t.epochOf m.fgid = some m.epoch → x.ident ∉ t.cvy.seen →
      let u := t.forward n m x.ident (.abort m x)
      ∀ c, u.collOf m.fgid = some c → c.seq = m.seq → exec (.abort n m x) s = .next (u.endColl c x.code.toNat x.rank none)) ∧
    (.memberFail m x ∈ p.inbox → let t := took (.memberFail m x); t.epochOf m.fgid = some m.epoch → x.ident ∉ t.cvy.seen →
      let u := t.forward n m x.ident (.memberFail m x)
      let v := { u with cvy := { u.cvy with failed := (m.fgid, m.epoch, x.rank) :: u.cvy.failed } }
      exec (.memberFail n m x) s = .next ((u.cvy.run.filter (fun c => c.fgid = m.fgid)).foldl (fun y c => y.endColl c 6 x.rank none) v)) ∧
    (.slow m x ∈ p.inbox → let t := took (.slow m x); t.epochOf m.fgid = some m.epoch → x.ident ∉ t.cvy.seen →
      let u := t.forward n m x.ident (.slow m x)
      let v := { u with cvy := { u.cvy with slow := if u.cvy.slow = 0xFF then u.cvy.slow else u.cvy.slow + 1 } }
      ∀ c, v.collOf m.fgid = some c → exec (.slow n m x) s = .next (v.setColl { c with slowSeen := true }))

/-- R430, R431, R432: a command to STREAM_CMD and a doorbell act on the stream's entry once it is in the hamper; while every place is pinned the
request waits and is served when a place is free. Rests on the readings and choices of log entries 23, 33. -/
def Obligations.StreamRequestsActOnTheirEntry : Prop :=
  ∀ (s : State) (a : Agent) (n : StreamIx) (v : W32),
    let sel := s.stream.sel.toNat
    let waits (i : Nat) (r : StreamReq) := { s with stream := { s.stream with pending := s.stream.pending ++ [(i, r)] } }
    (MayWrite s a → s.hubEn 0 = true →
      (s.fetchEntry sel = none →
        exec (.streamOpen a) s = hubWrote a (waits sel .open_) ∧ exec (.streamClose a) s = hubWrote a (waits sel .close) ∧
        exec (.streamResume a) s = hubWrote a (waits sel .resume)) ∧
      (∀ t, s.fetchEntry sel = some t →
        let e := t.entry sel
        (e.st = .closed → t.openOk e = true → exec (.streamOpen a) s = hubWrote a (t.setEntry sel { e with
          st := .idle, head := 0, tail := 0, fidx := 0, nlaunch := 0, fault := 0, run := none, closing := false, resuming := false })) ∧
        (e.st = .closed → t.openOk e = false → exec (.streamOpen a) s = hubWrote a { t with stream := { t.stream with bad := true } }) ∧
        (e.st ≠ .closed → exec (.streamOpen a) s = hubWrote a t) ∧
        (e.st = .closed → exec (.streamClose a) s = hubWrote a t) ∧
        (e.st ≠ .closed → e.run ≠ none → exec (.streamClose a) s = hubWrote a (t.setEntry sel { e with closing := true })) ∧
        (e.st ≠ .closed → e.run = none →
          exec (.streamClose a) s = hubWrote a (t.setEntry sel { e with st := .closed, closing := false, resuming := false })) ∧
        (e.st = .faulted → exec (.streamResume a) s = hubWrote a (t.setEntry sel { e with
          st := if e.tail = e.fidx + 1 then .idle else .active, head := e.fidx + 1, fault := 0 })) ∧
        (e.st ≠ .faulted → e.run ≠ none → exec (.streamResume a) s = hubWrote a (t.setEntry sel { e with resuming := true })) ∧
        (e.st ≠ .faulted → e.run = none → exec (.streamResume a) s = hubWrote a t)) ∧
      (s.fetchEntry n.val = none → exec (.streamDoorbell a n v) s = hubWrote a (waits n.val (.doorbell v))) ∧
      (∀ t, s.fetchEntry n.val = some t →
        let e := t.entry n.val
        let room := (v - e.head).toNat ≤ 2 ^ e.lsize.toNat
        (e.st = .closed → exec (.streamDoorbell a n v) s = hubWrote a { t with stream := { t.stream with
          dbClosed := if t.stream.dbClosed = BitVec.allOnes 16 then t.stream.dbClosed else t.stream.dbClosed + 1 } }) ∧
        (e.st = .faulted → exec (.streamDoorbell a n v) s = hubWrote a (t.setEntry n.val { e with tail := v })) ∧
        (e.st ≠ .closed → e.st ≠ .faulted → ¬ room → exec (.streamDoorbell a n v) s = hubWrote a (t.faultStream n.val 2 0)) ∧
        (e.st = .idle → room → exec (.streamDoorbell a n v) s =
          hubWrote a (t.setEntry n.val { e with tail := v, st := if v = e.head then .idle else .active })) ∧
        (e.st = .active ∨ e.st = .waiting → room → exec (.streamDoorbell a n v) s = hubWrote a (t.setEntry n.val { e with tail := v })))) ∧
    (s.fetchEntry n.val = none → exec (.hamperFetch n) s = .next s) ∧
    (∀ t, s.fetchEntry n.val = some t →
      let mine := t.stream.pending.filter (fun r => r.1 = n.val)
      let u := { t with stream := { t.stream with pending := t.stream.pending.filter (fun r => r.1 ≠ n.val) } }
      (mine = [] → exec (.hamperFetch n) s = .next s) ∧
      (mine ≠ [] → exec (.hamperFetch n) s = .next (mine.foldl (fun x r => x.applyReq n.val r.2) u)))

/-- R292, R380, R405, R419, R433, R435, R464: a stream that may start a command starts it: a command that breaks the format faults, each other one has
the effect of its opcode. Rests on the readings and choices of log entries 9, 33, 40, 43. -/
def Obligations.StreamCommandsStart : Prop :=
  ∀ (s : State) (n : StreamIx) (c : StreamCmd) (host : List PByte) (chunks : List (List PByte × List PByte)),
    let i := n.val
    let e := s.entry i
    let w (op : Nat) := withOp c op
    let s1 (op : Nat) := s.setRun i (w op) .barrier .active
    let all := [(Instr.nop n c, 0), (.launch n c, 1), (.patch n c host, 2), (.copy n c, 3), (.seal n c, 4), (.unseal n c chunks, 5),
      (.signal n c, 6), (.wait n c, 7), (.barrier n c, 8), (.update n c, 9), (.convoy n c, 0xA), (.reconcile n c, 0xB)]
    let coll (kind : Fin 4) (pgroup : Option W32) (y : StreamCmd) : CollReq :=
      { kind := kind, retry := cmdAt y 13 1 = 1, root := BitVec.ofNat 16 (cmdAt y 14 2), group := BitVec.ofNat 32 (cmdAt y 8 4)
        tensor := cmdAt y 16 8, bytes := cmdAt y 24 8, elem := 8, step := BitVec.ofNat 64 (cmdAt y 32 8), pgroup := pgroup }
    (s.canStart i = false → ∀ o ∈ all, (∀ y slot gen k j, e.run ≠ some (y, .crypt slot gen k j)) → exec o.1 s = .next s) ∧
    (s.canStart i = true →
      (∀ o ∈ all, cmdOk (w o.2) = false → exec o.1 s = .next ((s1 o.2).faultStream i 1 0)) ∧
      (cmdOk (w 0) = true → exec (.nop n c) s = .next ((s1 0).completeCmd i (w 0))) ∧
      (cmdOk (w 1) = true →
        let h := BitVec.ofNat 32 (cmdAt (w 1) 8 4)
        (s.kernelOf e.part e.ctx h = none → exec (.launch n c) s = .next ((s1 1).faultStream i 3 0)) ∧
        (∀ m k, s.kernelOf e.part e.ctx h = some (m, k) →
          let ov := overridesOf (w 1) (cmdAt (w 1) 12 1)
          let code := (s1 1).paramCode e.part e.ctx k ov
          let held := (s1 1).setRun i (w 1) (.launch h k.tiles (ov.foldl (fun t x => tset 0 t x.1 x.2) k.image) false) .active
          (code ≠ 0 → exec (.launch n c) s = .next ((s1 1).faultStream i code 0)) ∧
          (code = 0 → s.tilesBusy i k.tiles = true → exec (.launch n c) s = .next s) ∧
          (code = 0 → s.tilesBusy i k.tiles = false →
            exec (.launch n c) s = .next ((k.tiles.foldl State.requestNoon held).startLaunch i)))) ∧
      (cmdOk (w 2) = true →
        let h := BitVec.ofNat 32 (cmdAt (w 2) 8 4)
        (s.kernelOf e.part e.ctx h = none → exec (.patch n c host) s = .next ((s1 2).faultStream i 3 0)) ∧
        (∀ m k, s.kernelOf e.part e.ctx h = some (m, k) → cmdAt (w 2) 13 1 = 0 →
          let l := overridesOf (w 2) (cmdAt (w 2) 12 1)
          let code := (s1 2).paramCode m.part m.ctx k l
          let m' : Module := { m with kernels := m.kernels.set (h.toNat % 65536) { k with image := l.foldl (fun t x => tset 0 t x.1 x.2) k.image } }
          (code ≠ 0 → exec (.patch n c host) s = .next ((s1 2).faultStream i code 0)) ∧
          (code = 0 → exec (.patch n c host) s =
            .next (({ s1 2 with modules := s.modules.map (fun x => if x.serial = m.serial then m' else x) } : State).completeCmd i (w 2)))) ∧
        (∀ m k d, s.kernelOf e.part e.ctx h = some (m, k) → cmdAt (w 2) 13 1 = 1 →
          (s1 2).fetch e (cmdAt (w 2) 16 8) (16 * cmdAt (w 2) 24 2) host = some (0, d) → exec (.patch n c host) s =
            .next ((s1 2).patchGo i (w 2) m k (h.toNat % 65536) (listEntries d (cmdAt (w 2) 24 2))))) ∧
      (cmdOk (w 3) = true →
        let free := chosen 2 s.draws ((List.finRange 64).filter (fun x => (s.chan x.val).st = .idle && (s.copyOf x.val).isNone))
        (free = none → exec (.copy n c) s = .next s) ∧
        (∀ x, free = some x → exec (.copy n c) s = .next ((((s.drawn 1).setChan x.val { s.chan x.val with
          src := BitVec.ofNat 64 (cmdAt (w 3) 8 8), dst := BitVec.ofNat 64 (cmdAt (w 3) 16 8), cnt := BitVec.ofNat 64 (cmdAt (w 3) 24 8)
          sstr := 0, sstr2 := 0, dstr := 0, dstr2 := 0, ctrl := copyCtrl
          tag := BitVec.ofNat 32 (e.part + 16 * e.ctx) }).setRun i (w 3) (.copy x.val) .active).sysCtrl x (copyCtrl ||| 1#64)))) ∧
      (∀ o ∈ [(Instr.seal n c, 4), (.unseal n c chunks, 5)], cmdOk (w o.2) = true →
        (s.sec.conf = false → exec o.1 s = .next ((s1 o.2).faultStream i 1 0)) ∧
        (∀ code, (s1 o.2).cryptStart e (w o.2) (decide (o.2 = 4)) = .inl code → exec o.1 s = .next ((s1 o.2).faultStream i code 0))) ∧
      (∀ win ch slot gen,
        let k (op : Nat) := (s1 op).sec.slot slot
        let held (op : Nat) := { s1 op with sec := (s1 op).sec.setSlot slot { k op with inflight := (k op).inflight + 1 } }
        (cmdOk (w 4) = true → (s1 4).cryptStart e (w 4) true = .inr (win, ch, slot, gen) →
          let r := (held 4).sealChunks e.tag (cmdAt (w 4) 8 8) (cmdAt (w 4) 24 8) win ch slot s.sec.sessionNo
            (List.range ((cmdAt (w 4) 24 8 + 4095) / 4096))
          exec (.seal n c) s = .next (r.1.cryptFinish i (w 4) slot gen s.sec.sessionNo r.2.1 r.2.2)) ∧
        (cmdOk (w 5) = true → (s1 5).cryptStart e (w 5) false = .inr (win, ch, slot, gen) → exec (.unseal n c chunks) s =
          .next (((held 5).setRun i (w 5) (.crypt slot gen s.sec.sessionNo 0) .active).unsealGo i (w 5) slot gen s.sec.sessionNo 0 chunks))) ∧
      (cmdOk (w 6) = true → exec (.signal n c) s = .next (((s1 6).evPut e.part e.ctx (cmdAt (w 6) 8 2) (cmdAt (w 6) 10 1 = 1)
        (BitVec.ofNat 64 (cmdAt (w 6) 16 8))).completeCmd i (w 6))) ∧
      (cmdOk (w 7) = true →
        let thr := BitVec.ofNat 64 (cmdAt (w 7) 16 8)
        let met := ∃ v, (s1 7).evGet e.part e.ctx (cmdAt (w 7) 8 2) = some v ∧ 0 ≤ (v - thr).toInt
        (met → exec (.wait n c) s = .next ((s1 7).completeCmd i (w 7))) ∧
        (¬ met → exec (.wait n c) s = .next ((s1 7).setRun i (w 7) (.wait (cmdAt (w 7) 8 2) thr) .waiting))) ∧
      (cmdOk (w 8) = true →
        ((s1 8).barrierOwn e (w 8) = false → exec (.barrier n c) s = .next ((s1 8).faultStream i 1 0)) ∧
        ((s1 8).barrierOwn e (w 8) = true → (s1 8).barrierMet (w 8) = true → exec (.barrier n c) s = .next ((s1 8).completeCmd i (w 8))) ∧
        ((s1 8).barrierOwn e (w 8) = true → (s1 8).barrierMet (w 8) = false →
          exec (.barrier n c) s = .next ((s1 8).setRun i (w 8) .barrier .waiting))) ∧
      (cmdOk (w 9) = true →
        let q := (s1 9).queueUpdate e.part e.ctx (cmdAt (w 9) 8 4) (BitVec.ofNat 64 (cmdAt (w 9) 16 8)) (.stream n (cmdAt (w 9) 24 8))
        (q = none → exec (.update n c) s = .next s) ∧
        (∀ t, q = some t → exec (.update n c) s = .next (t.setRun i (w 9) (.update s.nextId) .active))) ∧
      (∀ o ∈ [(Instr.convoy n c, 0xA, (⟨cmdAt (w 0xA) 12 1 % 4, Nat.mod_lt _ (by decide)⟩ : Fin 4),
          if cmdAt (w 0xA) 12 1 % 4 = 3 then some (BitVec.ofNat 32 (cmdAt (w 0xA) 14 2)) else none),
          (.reconcile n c, 0xB, 2, if cmdAt (w 0xB) 12 1 = 1 then some (BitVec.ofNat 32 (cmdAt (w 0xB) 48 4)) else none)],
        cmdOk (w o.2.1) = true →
        let q := (s1 o.2.1).queueColl e.part e.ctx (coll o.2.2.1 o.2.2.2 (w o.2.1)) (.stream n (cmdAt (w o.2.1) 40 8))
        (q = none → exec o.1 s = .next s) ∧
        (∀ t, q = some t → exec o.1 s = .next (t.setRun i (w o.2.1) (.coll s.nextId) .active))))

/-- R306, R433, R435, R436, R437, R462: the engine dispatches the next command of the stream whose turn it is; a launch ends when its tiles have
halted, a wait when its condition holds or its time is over; a completed command advances the head, a failing one faults the stream. Rests on the
readings and choices of log entries 33, 40. -/
def Obligations.StreamCommandsDispatchAndEnd : Prop :=
  ∀ (s : State) (n : StreamIx) (c : StreamCmd) (host : List PByte) (chunks : List (List PByte × List PByte)),
    let i := n.val
    let e := s.entry i
    (s.readyStreams = [] → exec (.commandDispatch host) s = .next s) ∧
    (∀ j l d t, s.readyStreams = j :: l → s.fetch (s.entry j) ((s.entry j).slotAddr (s.entry j).head.toNat) 64 host = some (0, d) →
      s.startCmd j (BitVec.ofNat 512 (leNatP d)) [] [] = some t →
      exec (.commandDispatch host) s = .next { t with stream := { t.stream with lastServed := j } }) ∧
    (∀ y h ts image, e.run = some (y, .launch h ts image true) →
      let done := ts.all (fun t => (s.tile t).seq.st = .halted && tileIdle (s.tile t))
      let bad := ts.any (fun t => (s.tile t).seq.faultHalt || (s.tile t).seq.mcHalt)
      let u := ts.foldl (fun x t => x.setTile t { x.tile t with sf := { (x.tile t).sf with
        claim := claimCmd (x.tile t).sf.claim e.tag 0x80000000#32 true true } }) s
      (done = false → exec (.launchComplete n) s = .next s) ∧
      (done = true → bad = true → exec (.launchComplete n) s = .next (u.faultStream i 0xA 0)) ∧
      (done = true → bad = false → exec (.launchComplete n) s = .next (u.completeCmd i y))) ∧
    (∀ y ev thr, e.st = .waiting → e.run = some (y, .wait ev thr) →
      let met := ∃ v, s.evGet e.part e.ctx ev = some v ∧ 0 ≤ (v - thr).toInt
      (met → exec (.waitSatisfied n) s = .next (s.completeCmd i y)) ∧ (¬ met → exec (.waitSatisfied n) s = .next s) ∧
      (cmdAt y 24 4 ≠ 0 → exec (.waitTimeout n) s = .next (s.faultStream i 9 0)) ∧
      (cmdAt y 24 4 = 0 → exec (.waitTimeout n) s = .next s)) ∧
    (∀ y, e.st = .waiting → e.run = some (y, .barrier) →
      (s.barrierMet y = true → exec (.waitSatisfied n) s = .next (s.completeCmd i y)) ∧
      (s.barrierMet y = false → exec (.waitSatisfied n) s = .next s) ∧ exec (.waitTimeout n) s = .next s) ∧
    (∀ slot gen k j, e.run = some (withOp c 5, .crypt slot gen k j) →
      exec (.unseal n c chunks) s = .next (s.unsealGo i (withOp c 5) slot gen k j chunks)) ∧
    (cmdAt c 1 1 = 0 →
      let e' := { e with head := e.head + 1, nlaunch := if cmdAt c 0 1 = 1 then e.nlaunch + 1 else e.nlaunch, run := none, resuming := false }
      s.completeCmd i c = s.setEntry i (if e.closing then { e' with st := .closed, closing := false }
        else { e' with st := if e.tail = e.head + 1 then .idle else .active })) ∧
    (∀ code hi, e.closing = false → e.resuming = false →
      let e' := { e with st := .faulted, fault := BitVec.ofNat 32 (hi * 2 ^ 24 + code), fidx := e.head, run := none }
      s.faultStream i code hi = ((s.setEntry i e').writeRecord e' (match e.run with | some x => cmdAt x.1 4 4 | none => 0)).streamVector e')

/-- R423, R424, R425, R426: a BAR access while the link is up wakes a device in Dusk and reaches hub registers or its stack; a refused read completes
with all ones and the access counts. MSIX_VECTOR_WRITE sets a word of the table (R427). Rests on the readings and choices of log entries 28, 37,
52. -/
def Obligations.HostAccessesAreServedOrRefused : Prop :=
  ∀ (s : State) (b : BarAcc) (vec : Fin 2048) (word : Fin 4) (v : W32),
    let w := s.devWake
    let ones := match b.op with | .read n => List.replicate n ((0xFF : Byte), false) | .write _ => []
    let answered (x : State) (d : List PByte) := match b.op with | .read _ => x.emit (.barData d) | .write _ => x
    let refused0 (x : State) := answered { x with pci := { x.pci with bar0err := satInc x.pci.bar0err } } ones
    let refused2 (x : State) := answered { x with pci := { x.pci with bar2err := satInc x.pci.bar2err } } ones
    let r : Req := ⟨.bar2, 0, 0, s.pci.b2base.toNat + b.off, b.op⟩
    (b.wf = false → exec (.bar0Access b) s = .fault .noSuchEvent ∧ exec (.bar2Access b) s = .fault .noSuchEvent) ∧
    (b.wf = true → s.pci.up = false → exec (.bar0Access b) s = .next s ∧ exec (.bar2Access b) s = .next s) ∧
    (b.wf = true → s.pci.up = true →
      (b.off ≥ 0x4000000 ∨ (s.sec.conf = true ∧ confPage b.off (opLen b.op) = false) → exec (.bar0Access b) s = .next (refused0 w)) ∧
      (b.off < 0x4000000 → s.sec.conf = false ∨ confPage b.off (opLen b.op) = true →
        let x := w.hubAccess .bar0 b.off b.op
        exec (.bar0Access b) s = .next (if x.status = 2 ∨ x.status = 3 then refused0 x.s else answered x.s x.data)) ∧
      (s.sec.conf = true ∨ bar2Size < b.off + opLen b.op ∨ memEnd < r.addr + opLen b.op →
        exec (.bar2Access b) s = .next (refused2 w)) ∧
      (s.sec.conf = false → b.off + opLen b.op ≤ bar2Size → r.addr + opLen b.op ≤ memEnd →
        let code := w.memCheck (w.tagOf .bar2) r.addr (opLen b.op)
        (code = 0 → exec (.bar2Access b) s = .next (w.modStack (r.addr / 2 ^ 37) (fun k => { k with
          queue := k.queue ++ [⟨r, clsOf (w.tagOf .bar2), 0⟩] }))) ∧
        (code ≠ 0 → code ≠ 5 → exec (.bar2Access b) s = .next (refused2 w)) ∧
        (code = 5 → exec (.bar2Access b) s =
          .next (answered w (match b.op with | .read n => List.replicate n ((0 : Byte), true) | .write _ => []))))) ∧
    (s.pci.up = false → exec (.msixVectorWrite vec word v) s = .next s) ∧
    (s.pci.up = true → s.sec.conf = true →
      exec (.msixVectorWrite vec word v) s = .next { w with pci := { s.pci with bar0err := satInc s.pci.bar0err } }) ∧
    (s.pci.up = true → s.sec.conf = false →
      let t : State := { w with pci := { s.pci with msix := tset 0 s.pci.msix (4 * vec.val + word.val) v } }
      (word.val = 3 ∧ v[0] = false ∧ tget false s.pci.msixPend vec.val = true →
        exec (.msixVectorWrite vec word v) s =
          .next (({ t with pci := { t.pci with msixPend := tset false s.pci.msixPend vec.val false } } : State).sendMsix vec.val)) ∧
      (¬ (word.val = 3 ∧ v[0] = false ∧ tget false s.pci.msixPend vec.val = true) → exec (.msixVectorWrite vec word v) s = .next t))

/-- R422, R428, R439, R463, R525: the host completes its requests or leaves them, and the link comes up and goes down; with the host lost its streams
fault. Rests on the readings and choices of log entries 27, 37. -/
def Obligations.HostAnswersAndLinkEvents : Prop :=
  ∀ (s : State) (id : Nat) (ok : Bool) (d : List PByte) (width rate : BitVec 4),
    (s.pci.hostReqs.find? (·.1 = id) = none →
      exec (.hostCompletion id ok d) s = .next s ∧ exec (.hostCompletionTimeout id) s = .next s) ∧
    (∀ x, s.pci.hostReqs.find? (·.1 = id) = some x →
      let n := opLen x.2.op
      let u : State := { s with pci := { s.pci with hostReqs := s.pci.hostReqs.filter (·.1 ≠ id) } }
      let d' := (d ++ List.replicate n (0, false)).take n
      exec (.hostCompletion id true d) s = .next (u.respond x.2 (if anyPois d' then 5 else 0) d') ∧
      exec (.hostCompletion id false d) s = .next (u.respond x.2 2 (List.replicate n (0, false))) ∧
      exec (.hostCompletionTimeout id) s = .next (u.respond x.2 2 (List.replicate n (0, false)))) ∧
    (s.pci.up = true ∨ s.pci.released = false ∨ s.pin.perst = false ∨ s.pwr.dev = .night →
      exec (.pcieLinkUp width rate) s = .next s) ∧
    (s.pci.up = false → s.pci.released = true → s.pin.perst = true → s.pwr.dev ≠ .night →
      exec (.pcieLinkUp width rate) s = .next (({ s with pci := { s.pci with up := true, width := width, rate := rate } } : State).latch 16)) ∧
    (s.pci.up = false → exec .pcieLinkDown s = .next s) ∧
    (s.pci.up = true → exec .pcieLinkDown s = .next ((s.pci.hostReqs.foldl
      (fun t x => t.respond x.2 2 (List.replicate (opLen x.2.op) (0, false)))
      ({ s with pci := { s.pci with up := false, width := 0, rate := 0, hostReqs := [] } } : State)).endSession.latch 16)) ∧
    (s.pci.up = true → exec .hostLost s = .next s) ∧
    (s.pci.up = false → exec .hostLost s =
      let u := (({ s with pci := { s.pci with lost := true } } : State).latch 16)
      let v := u.openStreams.foldl (fun t i =>
        if (t.entry i).st ≠ .closed && (t.entry i).st ≠ .faulted && (t.entry i).onHost then
          (match t.fetchEntry i with | some x => x.faultStream i 0xD 0 | none => t)
        else t) u
      .next { v with lko := { v.lko with notes := v.lko.notes ++ [(5, 0)] } })

/-- R446, R448, R449, R463, R466: each SPDM request receives its response while the endpoint is up, and those of the session UnexpectedRequest outside
it; a report counts and is refused once a health test has failed. Rests on the readings and choices of log entries 6, 9, 34. -/
def Obligations.SpdmRequestsAreAnswered : Prop :=
  ∀ (s : State) (req : List Byte) (index : Byte) (nonce : BitVec 256),
    let plain := [(Instr.getVersion, 0x04, 0x84, []), (.getCapabilities, 0x61, 0xE1, []), (.negotiateAlgorithms req, 0x63, 0xE3, req),
      (.getDigests, 0x01, 0x81, []), (.getCertificate req, 0x02, 0x82, req)]
    let inside := [Instr.heartbeat, .keyUpdate, .endSession]
    let word := leBytes 8 (Config.entropy s.drawsEnt).toNat
    let drew (b : SecBlk) : State := { s with drawsEnt := s.drawsEnt + 1, sec := b }
    let err (c : Instr) (code : Nat) := exec c s = .next (s.emit (.spdmError code))
    let measured (n : Nat) := leBytes 48 (tget 0 s.sec.meas n).toNat
    (s.pci.up = false → ∀ c ∈ plain.map (·.1) ++ inside ++ [.challenge req, .getMeasurements index nonce, .keyExchange req, .finish req],
      exec c s = .next s) ∧
    (s.pci.up = true →
      (∀ x ∈ plain, exec x.1 s = .next (s.emit (.spdm x.2.1 (Config.spdmBody x.2.2.1 x.2.2.2)))) ∧
      exec (.challenge req) s = .next ((drew s.sec).emit (.spdm 0x03 (Config.spdmBody 0x83 (req ++ word)))) ∧
      (∀ k : Fin 8, index.toNat = k.val + 1 → exec (.getMeasurements index nonce) s = .next (s.emit (.spdm 0x60 (measured k.val)))) ∧
      (index.toNat = 0xFD →
        (s.sec.entBad = true → err (.getMeasurements index nonce) 5) ∧
        (s.sec.entBad = false → exec (.getMeasurements index nonce) s =
          .next ((drew { s.sec with reportSeq := s.sec.reportSeq + 1 }).emit (.spdm 0x60 (s.report nonce).1)))) ∧
      (index.toNat = 0 ∨ index.toNat = 0xFF → exec (.getMeasurements index nonce) s =
        .next (s.emit (.spdm 0x60 (Config.spdmBody 0xE0 (index :: (List.range 8).flatMap measured))))) ∧
      (8 < index.toNat → index.toNat ≠ 0xFD → index.toNat ≠ 0xFF → err (.getMeasurements index nonce) 1) ∧
      (s.sec.session ≠ .none → err (.keyExchange req) 3) ∧
      (s.sec.session = .none → s.sec.entBad = true → err (.keyExchange req) 5) ∧
      (s.sec.session = .none → s.sec.entBad = false → exec (.keyExchange req) s =
        .next ((drew { s.sec with session := .handshake }).emit (.spdm 0x64 (Config.spdmBody 0xE4 (req ++ word))))) ∧
      (s.sec.session ≠ .handshake → err (.finish req) 4) ∧
      (s.sec.session = .handshake → exec (.finish req) s = .next (({ s with sec := { s.sec with
        session := .open_, sessionNo := s.sec.sessionNo + 1, key0 := KeySlot.zero, key1 := KeySlot.zero, lastGen := none } } : State).emit
          (.spdm 0x65 (Config.spdmBody 0xE5 req)))) ∧
      (s.sec.session ≠ .open_ → ∀ c ∈ inside, err c 4) ∧
      (s.sec.session = .open_ →
        exec .heartbeat s = .next (s.emit (.spdm 0x68 (Config.spdmBody 0xE8 []))) ∧
        exec .keyUpdate s = .next (s.emit (.spdm 0x69 (Config.spdmBody 0xE9 []))) ∧
        exec .endSession s = .next (({ s with sec := { s.sec with
          session := .none, key0 := KeySlot.zero, key1 := KeySlot.zero, lastGen := none, bwin := [] } } : State).emit
            (.spdm 0x6C (Config.spdmBody 0xEC [])))))

/-- R458, R459, R461, R463, R464: a vendor-defined request outside a session receives UnexpectedRequest; inside one it acts and a status answers it.
Rests on the readings and choices of log entries 9, 34. -/
def Obligations.VendorRequestsActInSession : Prop :=
  ∀ (s : State) (w : Fin 64) (data hdr : BitVec 44) (chunks : BitVec 20) (part : BitVec 2) (ctx : BitVec 4) (g : W32) (off : Nat) (v : W64),
    let all := [Instr.confEnter, .windowSet w data hdr chunks part ctx, .windowClear w, .keyInstall g, .keyRetire g, .regWrite off v, .regRead off]
    let answer (c : Instr) (t : State) (status : Nat) (value : W64) := exec c s = .next (t.emit (.vendor status value))
    let key := s.sec.slot g.toNat
    let next := match s.sec.lastGen with | none => (0 : W32) | some l => l + 1
    let bad := data.toNat % 4096 ≠ 0 ∨ hdr.toNat % 64 ≠ 0 ∨ partCount s.partMode ≤ part.toNat
    let owner : W64 := bit true 63 ||| fld part.toNat 36 ||| fld ctx.toNat 32 ||| chunks.zeroExtend 64
    let words := tset 0 (tset 0 (tset 0 s.sec.bwin (4 * w.val) (data.zeroExtend 64)) (4 * w.val + 1) (hdr.zeroExtend 64)) (4 * w.val + 2) owner
    let unable := (caps1 s.fx)[11] = false ∨ s.sec.debugOpen = true ∨ s.openStreams ≠ [] ∨ s.modules ≠ []
    (s.pci.up = false → ∀ c ∈ all, exec c s = .next s) ∧
    (s.pci.up = true → s.sec.session ≠ .open_ → ∀ c ∈ all, exec c s = .next (s.emit (.spdmError 4))) ∧
    (s.pci.up = true → s.sec.session = .open_ →
      (unable → answer .confEnter s 2 0) ∧
      (¬ unable → answer .confEnter ({ s with sec := { s.sec with conf := true, confAo := true } } : State).seeLine8 0 0) ∧
      (bad → answer (.windowSet w data hdr chunks part ctx) s 1 0) ∧
      (¬ bad → s.bwinValid w.val = true → answer (.windowSet w data hdr chunks part ctx) s 2 0) ∧
      (¬ bad → s.bwinValid w.val = false → answer (.windowSet w data hdr chunks part ctx)
        { s with sec := { s.sec with bwin := words } } 0 0) ∧
      (s.windowUsed w.val = true → answer (.windowClear w) s 3 0) ∧
      (s.windowUsed w.val = false → answer (.windowClear w)
        { s with sec := { s.sec with bwin := tset 0 s.sec.bwin (4 * w.val + 2) (s.bwin w.val 2 &&& 0x7FFFFFFFFFFFFFFF#64) } } 0 0) ∧
      (s.sec.entBad = true ∨ g ≠ next ∨ key.st = .live → answer (.keyInstall g) s 2 0) ∧
      (s.sec.entBad = false → g = next → key.st ≠ .live → answer (.keyInstall g)
        { s with sec := { s.sec.setSlot g.toNat { st := .live, gen := g } with lastGen := some g } } 0 0) ∧
      (key.st ≠ .live ∨ key.gen ≠ g → answer (.keyRetire g) s 2 0) ∧
      (key.st = .live → key.gen = g → key.inflight ≠ 0 → answer (.keyRetire g) s 3 0) ∧
      (key.st = .live → key.gen = g → key.inflight = 0 → answer (.keyRetire g)
        { s with sec := s.sec.setSlot g.toNat { key with st := .retired } } 0 0) ∧
      (vendorReg off = none → answer (.regWrite off v) s 4 0 ∧ answer (.regRead off) s 4 0) ∧
      (∀ wide, vendorReg off = some wide →
        let n := if wide then 8 else 4
        let x := s.regAccess (.sc 0) (hubBase + off) (.write (clean (leBytes n v.toNat)))
        let y := s.regAccess (.sc 0) (hubBase + off) (.read n)
        answer (.regWrite off v) x.s (if x.status = 0 then 0 else 2) 0 ∧
        answer (.regRead off) y.s (if y.status = 0 then 0 else 2) (BitVec.ofNat 64 (leNatP y.data))))

/-- R456: a write of SEC_TILECLR with go performs no clear while the tile's sequencer is not halted or the tile is not idle: refused is set, the
tile number is the one written, and nothing else changes, busy included. -/
def Obligations.BusyTileIsNotCleared : Prop :=
  ∀ (s : State) (core : Fin 8) (v : W32),
    let x := s.tile (v.toNat % 256)
    v &&& 0x1FFFFF00#32 = 0 → x.seq.st ≠ .halted ∨ tileIdle x = false →
    exec (.tileClear (.sc core) v) s = hubWrote (.sc core) { s with sec := { s.sec with clrRefused := true, clrTile := v.truncate 8 } }

/-- R334, R440, R446, R454, R456, R466, R471, R473, R523: a service core extends slots 5 to 7 and clears a tile that is idle; other agents may not. A
clear ends, and a health test that fails is remembered. A service core's word to the mailbox is served or held, and the Lookout's reply sets event
latch 17. Rests on the readings and choices of log entries 23, 27, 34, 49. -/
def Obligations.SecurityAndMailboxWritesAct : Prop :=
  (∀ (s : State) (a : Agent) (core : Fin 8) (v : W32),
    let t := v.toNat % 256
    let x := s.tile t
    let slot := v.toNat % 8
    let kept : State := { s with sec := { s.sec with clrRefused := s.sec.clrRefused && !v[29], clrTile := v.truncate 8 } }
    let old := tget 0 s.sec.meas slot
    ((∀ n, a ≠ .sc n) → a ≠ .bar0 → a ≠ .bar2 →
      exec (.measurementExtend a v) s = hubWrote a s 1 ∧ exec (.tileClear a v) s = hubWrote a s 1) ∧
    (slot < 5 → exec (.measurementExtend (.sc core) v) s = hubWrote (.sc core) s) ∧
    (5 ≤ slot → exec (.measurementExtend (.sc core) v) s = hubWrote (.sc core) { s with sec := { s.sec with
      meas := tset 0 s.sec.meas slot (Config.sha384 (leBytes 48 old.toNat ++ leBytes 48 s.sec.mextData.toNat)) } }) ∧
    (x.seq.st = .halted → tileIdle x = true → exec (.tileClear (.sc core) v) s = hubWrote (.sc core)
      { kept.setTile t { clearTile x with clearing := true } with sec := { kept.sec with clrBusy := true } }) ∧
    exec .tileClearComplete s = (
      let u := (List.range 256).foldl (fun y n => if (y.tile n).clearing then y.setTile n { y.tile n with clearing := false } else y) s
      .next { u with sec := { u.sec with clrBusy := false } }) ∧
    exec .entropyHealthFail s = .next { s with sec := { s.sec with entFail := true, entBad := true } }) ∧
  (∀ (s : State) (a : Agent) (core : Fin 8) (v : W64),
    let u : State := { s with lko := { s.lko with mbox := v } }
    ((∀ n, a ≠ .sc n) → a ≠ .lookout → a ≠ .bar0 → a ≠ .bar2 → exec (.lookoutMailboxRequest a v) s = hubWrote a s 1) ∧
    exec (.lookoutMailboxRequest .lookout v) s = hubWrote .lookout u ∧
    (s.lko.up = false → exec (.lookoutMailboxRequest (.sc core) v) s =
      hubWrote (.sc core) { s with lko := { s.lko with held := s.lko.held ++ [v] } } ∧ exec (.lookoutMailboxReply v) s = .next s) ∧
    (s.lko.up = true →
      (v[63] = true → exec (.lookoutMailboxRequest (.sc core) v) s = hubWrote (.sc core) { s with lko := { s.lko with
        mbox := v, remaps := s.lko.remaps ++ [(v.toNat / 2 ^ 56 % 16, rmapWord (v.toNat / 2 ^ 32 % 4) (v.toNat % 2 ^ 32))] } }) ∧
      (v[63] = false → exec (.lookoutMailboxRequest (.sc core) v) s = hubWrote (.sc core) { s with lko := { s.lko with
        mbox := v, pages := s.lko.pages ++ [(v.toNat / 2 ^ 21 % 16, v.truncate 25)] } }) ∧
      exec (.lookoutMailboxReply v) s = .next { u with icu := { s.icu with evlatch := s.icu.evlatch ||| (1#18 <<< 17) } }))

/-- R440, R441, R442, R445, R450, R457, R467 to R470, R497, R538: an operation of the Lookout acts on a path that carries it, and an answer leaves on
it; heartbeats leave on every session. Rests on the readings and choices of log entries 5, 9, 11, 12, 27. -/
def Obligations.LookoutOperationsActOnTheirPath : Prop :=
  ∀ (s : State) (p : MgmtPath) (slot : ImageSlot) (image token anchor cert : List Byte) (erev lrev : BitVec 4) (uid : BitVec 128) (nonce : W64)
    (mode : Fin 3) (v : BitVec 16) (n256 : BitVec 256) (k : Fin 4),
    let both := [Instr.powerOn p, .powerOff p, .telemetry p, .faultlog p, .attest p n256, .anchorSet p k anchor]
    let tls := [Instr.stage p slot image, .svnCommit p, .revoke p erev lrev, .debugToken p uid nonce token, .layout p mode, .devid p v]
    let takes (mctp : Prop) : Prop := s.lko.up = true ∧ (match p with | .tls => 0 < s.lko.tls | .mctp => mctp)
    let w := s.devWake
    let answer (c : Instr) (t : State) (ok : Bool) (d : List Byte) := exec c s = .next (t.emit (.mgmt p ok d))
    let key := 2 * slot.kind.val + (if slot.slotB then 1 else 0)
    let opens := uid.toNat = leNat (fuseBytes 1 16) ∧ nonce = s.sec.dbgNonce ∧ Config.tokenSigned token w.erev w.lrev = true
    let mayAnchor := match p with | .mctp => s.lko.anchors.length = 0 | .tls => s.lko.anchors.length ≠ 0
    let chained := s.pin.strap[2] = true ∧ s.lko.tls < 4 ∧ s.lko.anchors.any (fun x => Config.chainsTo cert x.2) = true
    let lkoNow (b : LkoBlk) : State := { w with lko := b }
    (¬ takes True → ∀ c ∈ both, exec c s = .next s) ∧ (¬ takes False → ∀ c ∈ tls, exec c s = .next s) ∧
    (takes True →
      (s.pwr.dev = .night → s.pin.waitPgood = false →
        answer (.powerOn p) { s with pwr := { s.pwr with dev := .dawn }, pin := { s.pin with pwren := true, waitPgood := true } } true []) ∧
      (s.pwr.dev ≠ .night ∨ s.pin.waitPgood = true → answer (.powerOn p) w true []) ∧
      (s.pwr.dev = .night → answer (.powerOff p) s true []) ∧
      (s.pwr.dev ≠ .night → answer (.powerOff p) w.enterNight true []) ∧
      answer (.telemetry p) { w with draws := s.draws + 1 } true (Config.telemetryBody s.draws w.telemetry) ∧
      answer (.faultlog p) w true w.faultBody ∧
      (s.sec.entBad = true → answer (.attest p n256) w false []) ∧
      (s.sec.entBad = false → answer (.attest p n256)
        { w with drawsEnt := s.drawsEnt + 1, sec := { s.sec with reportSeq := s.sec.reportSeq + 1 } } true (w.report n256).1) ∧
      (¬ mayAnchor → answer (.anchorSet p k anchor) w false []) ∧
      (mayAnchor → answer (.anchorSet p k anchor) (lkoNow { s.lko with anchors := tset [] s.lko.anchors k.val anchor }) true [])) ∧
    (takes False →
      (slot.kind.val = 0 → answer (.stage p slot image) w false []) ∧
      (slot.kind.val ≠ 0 → answer (.stage p slot image) (lkoNow { s.lko with staged := tset [] s.lko.staged key image }) true []) ∧
      answer (.svnCommit p) { w with sec := { s.sec with svnUp := max s.sec.svnUp s.sec.isvn.toNat } } true [] ∧
      answer (.revoke p erev lrev) { w with sec := { s.sec with erevSet := s.sec.erevSet ||| erev, lrevSet := s.sec.lrevSet ||| lrev } } true [] ∧
      (¬ opens → answer (.debugToken p uid nonce token) w false []) ∧
      (opens → answer (.debugToken p uid nonce token) (lkoNow { s.lko with token := true }) true []) ∧
      (s.pwr.dev = .night ∨ w.layoutRefused mode.val = true → answer (.layout p mode) w false []) ∧
      (s.pwr.dev ≠ .night → w.layoutRefused mode.val = false → answer (.layout p mode) (w.setLayout mode.val) true []) ∧
      (s.pwr.dev = .night → answer (.devid p v) { s with lko := { s.lko with cfgDevid := v } } true []) ∧
      (s.pwr.dev ≠ .night → answer (.devid p v) { w with lko := { s.lko with cfgDevid := v }, cvy := { s.cvy with devid := v } } true [])) ∧
    (s.lko.up = false → ∀ c ∈ [Instr.lookoutHeartbeat, .mctpHeartbeatRequest, .tlsSessionOpen cert], exec c s = .next s) ∧
    (s.lko.up = true →
      exec .lookoutHeartbeat s = .next ((List.range s.lko.tls).foldl (fun t i => t.emit (.heartbeat .tls i)) s) ∧
      exec .mctpHeartbeatRequest s = .next (s.emit (.heartbeat .mctp 0)) ∧
      (chained → exec (.tlsSessionOpen cert) s = .next { s with lko := { s.lko with tls := s.lko.tls + 1 } }) ∧
      (¬ chained → exec (.tlsSessionOpen cert) s = .next s))

/-- R480: a write of 1 to a bit of ICU_PENDSETw or ICU_TMASKSETs sets that bit, and a write of 1 to ICU_PENDCLRw or ICU_TMASKCLRs clears it; bits
written 0 and every other register of the controller stay as they are, the line of target 8 apart, whose vector may leave. -/
def Obligations.SetAndClearAliasesChangeBitsWrittenOne : Prop :=
  ∀ (s : State) (a : Agent) (w : Fin 32) (src : Fin 1024) (v : W32),
    let old := tget 0 s.icu.tmask src.val
    let wrote (c : Instr) (b : IcuBlk) : Prop := ∃ (line : Bool) (pend : Tab Bool) (out : List OutMsg),
      exec c s = hubWrote a { s with icu := { b with line8 := line }, pci := { s.pci with msixPend := pend }, outbox := out }
    (∃ m, a = .sc m) ∨ a = .lookout →
    wrote (.pendset a w v) { s.icu with swp := setWordBits s.icu.swp w.val (fun i o => o || v.getLsbD i) } ∧
    wrote (.pendclr a w v) { s.icu with swp := setWordBits s.icu.swp w.val (fun i o => o && !v.getLsbD i) } ∧
    (src.val ≠ 0 → v &&& 0xFFFFFC00#32 = 0 →
      wrote (.tmaskset a src v) { s.icu with tmask := tset 0 s.icu.tmask src.val (old ||| v.truncate 10) } ∧
      wrote (.tmaskclr a src v) { s.icu with tmask := tset 0 s.icu.tmask src.val (old &&& ~~~(v.truncate 10)) })

/-- R472, R474 to R477, R479, R480: a claim returns the winner and marks it active for its target, a completion by the same target ends that, and one
by another counts; software sets and clears pending bits and mask bits. An active source is a candidate of no target. The line of target 8 follows
each. Rests on the readings and choices of log entries 23, 38. -/
def Obligations.InterruptsAreClaimedAndCompleted : Prop :=
  ∀ (s : State) (a : Agent) (n : Fin 10) (src : BitVec 10) (w : Fin 32) (sr : Fin 1024) (v : W32),
    let manager := (∃ m, a = Agent.sc m) ∨ a = .lookout
    let seen (t : State) : State :=
      let u : State := { t with icu := { t.icu with line8 := decide (t.winner 8 ≠ 0) } }
      if t.winner 8 ≠ 0 ∧ t.icu.line8 = false then u.forwardVec else u
    let x := s.winner n.val
    let claimed : State := if x = 0 then s else { s with icu := { s.icu with
      active := tset false s.icu.active x true, owner := tset 0 s.icu.owner x (BitVec.ofNat 4 n.val), swp := tset false s.icu.swp x false } }
    let held := tget false s.icu.active src.toNat = true ∧ (tget 0 s.icu.owner src.toNat).toNat = n.val
    let ended := seen { s with icu := { s.icu with active := tset false s.icu.active src.toNat false } }
    let completed : State :=
      if held then (if n.val = 8 ∧ s.icu.line8 = true ∧ ended.icu.line8 = true then ended.forwardVec else ended)
      else { s with icu := { s.icu with badcomp := satInc s.icu.badcomp } }
    let pend (m : Tab Bool) : State := seen { s with icu := { s.icu with swp := m } }
    let mask (b : BitVec 10) : State := seen { s with icu := { s.icu with tmask := tset 0 s.icu.tmask sr.val b } }
    let old := tget 0 s.icu.tmask sr.val
    let writes := [Instr.icuComplete a n src, .pendset a w v, .pendclr a w v, .tmaskset a sr v, .tmaskclr a sr v]
    (∀ t : State, t.forwardVec = if t.icu.hfwdEn = true ∧ t.sec.conf = false then t.sendMsix t.icu.hfwdVec.toNat else t) ∧
    exec .interruptLevelChange s = .next (seen s) ∧
    (∀ k target p, tget false s.icu.active k = true → s.candidateOf target k p = false) ∧
    (manager →
      exec (.icuClaim a n) s = .next ((seen claimed).emit (.regValue 0 (BitVec.ofNat 64 (x % 2 ^ 32)))) ∧
      exec (.icuComplete a n src) s = hubWrote a (seen completed) ∧
      exec (.pendset a w v) s = hubWrote a (pend (setWordBits s.icu.swp w.val (fun i o => o || v.getLsbD i))) ∧
      exec (.pendclr a w v) s = hubWrote a (pend (setWordBits s.icu.swp w.val (fun i o => o && !v.getLsbD i))) ∧
      (sr.val ≠ 0 → exec (.tmaskset a sr v) s = hubWrote a (mask (old ||| v.truncate 10)) ∧
        exec (.tmaskclr a sr v) s = hubWrote a (mask (old &&& ~~~(v.truncate 10)))) ∧
      (sr.val = 0 → exec (.tmaskset a sr v) s = hubWrote a s 3 ∧ exec (.tmaskclr a sr v) s = hubWrote a s 3)) ∧
    (a = .bar0 → n.val = 8 → s.sec.conf = false →
      exec (.icuClaim a n) s = .next ((seen claimed).emit (.barData (clean (leBytes 4 (BitVec.ofNat 64 x).toNat)))) ∧
      exec (.icuComplete a n src) s = hubWrote a completed) ∧
    (¬ manager → a ≠ .bar0 → a ≠ .bar2 → sr.val ≠ 0 → ∀ c ∈ writes, exec c s = hubWrote a s 1)

/-- R486, R487, R491, R493, R500, R501, R503, R542: a change of operating point waits for locks and settle time; PLL events, power samples and
evaluations, the clock-switch watchdog and a junction sample move clocks and power as their rules say. Rests on the readings and choices of log
entries 23, 35, 46, 47, 57. -/
def Obligations.ClocksAndPowerFollowTheirEvents : Prop :=
  ∀ (s : State) (a : Agent) (v : W32) (pg : Fin 16) (d : Fin 28) (watts : BitVec 12) (temp : Int),
    let b := s.pwr
    let low := b.limit.extractLsb' 30 2
    let dest := if v.truncate 2 < low then low else v.truncate 2
    let begun : State := { s with pwr := { b with opTarget := dest, opBusy := true, opLocked := 0, opSettled := false, opSwitched := false } }
    let m : BitVec 16 := 1#16 <<< pg.val
    let pwrNow (b : PwrBlk) : State := { s with pwr := b }
    let n := b.samples.length
    let sum := b.samples.foldl (· + ·) 0
    let taken : PwrBlk := { b with power := watts, samples := (watts.toNat :: b.samples).take 25 }
    let sunk : PwrBlk := if b.pexc < watts.toNat then
      { taken with evt := b.evt ||| 0x10#6, swallow := if b.swallow < 8 then 8 else b.swallow } else taken
    let counted : PwrBlk := { b with sinceUndo := min 100000 (b.sinceUndo + 1), hold := b.hold - 1 }
    let dogged : PwrBlk := { b with
      evt := b.evt ||| 4#6, wdogCount := satInc b.wdogCount, wdogOver := b.wdogOver || b.wdogValid, wdogValid := true
      wdogDomain := if b.wdogValid then b.wdogDomain else BitVec.ofNat 8 d.val }
    let cold := (tilesOfGroup d.val).foldl (fun t x => t.setTile x Tile.reset) (pwrNow dogged)
    let k := d.val - 16
    let capped := (List.range 12).foldl (fun t x => t.modStack x (fun y => { y with ceil := 256 })) (pwrNow { b with evt := b.evt ||| 0x20#6, swallow := 12 })
    let sampled : State := { s with pin := { s.pin with junction := temp } }
    (∀ t : State, let p := t.pwr
      let locked := p.pgRun &&& ~~~p.opLocked = 0
      let ended : State := { t with pwr := { p with opCur := p.opTarget, opBusy := false, evt := p.evt ||| 2#6 } }
      (p.opBusy = false → t.opAdvance = t) ∧
      (p.opBusy = true → p.opTarget < p.opCur → t.opAdvance = if locked ∧ p.opSettled = true then ended else t) ∧
      (p.opBusy = true → ¬ p.opTarget < p.opCur → t.opAdvance =
        if locked ∧ p.opSwitched = false then
          ({ t with pwr := { p with opSwitched := true, opSettled := false } } : State).emit (.voltage p.opTarget.toNat)
        else if p.opSwitched = true ∧ p.opSettled = true then ended else t)) ∧
    (Manages a → exec (.opChange a v) s = hubWrote a (if b.opBusy = true then s else if dest = b.opCur then pwrNow { b with opTarget := dest }
      else (if dest < b.opCur then begun.emit (.voltage dest.toNat) else begun).opAdvance)) ∧
    (¬ Manages a → a ≠ .bar0 → a ≠ .bar2 → exec (.opChange a v) s = hubWrote a s 1) ∧
    exec (.pllLock pg) s = .next (if b.dev ≠ .noon ∨ s.pin.thermtrip = true then s
      else if b.pgLock &&& m ≠ 0 then
        pwrNow { b with pgLock := b.pgLock &&& ~~~m, pgRun := b.pgRun ||| m, pgHeld := b.pgHeld &&& ~~~m, opLocked := b.opLocked ||| m }
      else if b.opBusy = true ∧ b.pgRun &&& m ≠ 0 then (pwrNow { b with opLocked := b.opLocked ||| m }).opAdvance else s) ∧
    exec (.pllLockTimeout pg) s = .next (pwrNow { b with evt := b.evt ||| 4#6, pgLock := b.pgLock &&& ~~~m }) ∧
    exec .voltageSettle s = .next (if b.opBusy = true ∧ (b.opTarget < b.opCur ∨ b.opSwitched = true) then (pwrNow { b with opSettled := true }).opAdvance
      else s) ∧
    (d.val < 16 → exec (.clockSwitchWatchdog d) s = .next (({ cold with pwr := { dogged with
      pgRun := b.pgRun &&& ~~~(1#16 <<< d.val), pgHeld := b.pgHeld ||| (1#16 <<< d.val) } } : State).faultLaunches (tilesOfGroup d.val))) ∧
    (16 ≤ d.val → exec (.clockSwitchWatchdog d) s = .next ((s.stack k).queue.foldl (fun t x =>
      t.respond x.req 2 (match x.req.op with | .read n => List.replicate n (0, false) | .write _ => []))
        (((pwrNow dogged).dropPasses k).setStack k { StkBlk.zero with selfRefresh := true }))) ∧
    exec (.powerSample watts) s = .next (pwrNow (if b.psus < watts.toNat then { sunk with evt := sunk.evt ||| 8#6, excRun := true }
      else { sunk with excRun := false })) ∧
    exec .excursionBackstop s = .next (if b.excRun = true then capped else s) ∧
    exec .powerEvaluation s = .next (if n = 0 then s
      else if b.psus * n < sum then (pwrNow { counted with below := 0, hold := if counted.sinceUndo ≤ 1000 then 10000 else counted.hold }).takeMeasure
      else if 100 * sum < 95 * b.psus * n then
        (if 99 ≤ b.below ∧ counted.hold = 0 then (pwrNow { counted with below := 0 }).undoMeasure else pwrNow { counted with below := b.below + 1 })
      else pwrNow { counted with below := 0 }) ∧
    exec (.junctionSample temp) s = .next (if 120 < temp ∧ s.pin.thermtrip = false then sampled.trip else sampled)

/-- R454, R483, R489, R495 to R499, R504: tiles, service cores and the device change their power state on request, on idleness and on a wake when its
conditions hold; a refused request is noted. A hub block is gated once it is idle. Rests on the readings and choices of log entries 6, 23, 35. -/
def Obligations.TilesAndDeviceChangePowerState : Prop :=
  ∀ (s : State) (a : Agent) (v : W32) (t : TileIx) (n : Fin 8),
    let b := s.pwr
    let x := s.tile t.val
    let quiet := x.seq.st = .halted ∧ tileIdle x = true
    let pwrNow (b : PwrBlk) : State := { s with pwr := b }
    let asked : State := pwrNow { b with reqRefused := b.reqRefused && !v[30], reqState := v.extractLsb' 24 2, reqTile := v.truncate 8 }
    let refused : State := { asked with pwr := { asked.pwr with reqRefused := true } }
    let st := v.toNat / 2 ^ 24 % 4
    let i := v.toNat % 256
    let named := v.toNat % 256 = t.val
    let dusked : State := pwrNow { b with devRefused := b.devRefused && !v[30] }
    let slept := (List.range 12).foldl (fun u k => u.modStack k (fun y => { y with selfRefresh := true })) dusked
    let woken := (List.range 12).foldl (fun u k => u.modStack k (fun y => { y with selfRefresh := y.halted })) s
    let keeps (k : Nat) : Bool := v.getLsbD k || (s.hubEn k && s.hubBusy k)
    (Manages a → named →
      (st = 0 → exec (.tileStateRequest a v) s = hubWrote a (asked.requestNoon i)) ∧
      (st = 1 ∨ st = 2 → x.power ≠ .noon → exec (.tileStateRequest a v) s = hubWrote a asked) ∧
      (st = 1 → x.power = .noon → quiet → exec (.tileStateRequest a v) s = hubWrote a (asked.setTile i { x with power := .dusk })) ∧
      (st = 2 → x.power = .noon → quiet → b.nightok.getLsbD i = true →
        exec (.tileStateRequest a v) s = hubWrote a ((asked.setTile i (nightTile x)).stopGroups (partOfTile s.partMode i))) ∧
      (st = 1 ∨ st = 2 → x.power = .noon → ¬ quiet ∨ (st = 2 ∧ b.nightok.getLsbD i = false) →
        exec (.tileStateRequest a v) s = hubWrote a refused) ∧
      (st = 3 → exec (.tileStateRequest a v) s = hubWrote a asked)) ∧
    (x.power = .noon → quiet → b.idle ≠ 0 → exec (.tileIdleDusk t) s = tileNext s t { x with power := .dusk }) ∧
    (x.power ≠ .noon ∨ ¬ quiet ∨ b.idle = 0 → exec (.tileIdleDusk t) s = .next s) ∧
    (x.power ≠ .dawn ∨ s.groupRuns (groupOf t.val) = false → exec (.tileWakeComplete t) s = .next s.startLaunches) ∧
    (x.power = .dawn → s.groupRuns (groupOf t.val) = true → x.fromNight = false →
      exec (.tileWakeComplete t) s = .next (s.setTile t.val { x with power := .noon }).startLaunches) ∧
    (x.power = .dawn → s.groupRuns (groupOf t.val) = true → x.fromNight = true →
      let y := rngReseedOp false s.drawsEnt x
      exec (.tileWakeComplete t) s = .next ({ s.setTile t.val { y with
        power := .noon, fromNight := false, ve := { y.ve with rngBusy := x.ve.rngBusy } } with drawsEnt := s.drawsEnt + 512 } : State).startLaunches) ∧
    (Manages a →
      (a ≠ .sc 0 ∨ b.dev ≠ .noon → exec (.deviceDuskRequest a v) s = hubWrote a dusked) ∧
      (a = .sc 0 → b.dev = .noon → s.duskOk = false →
        exec (.deviceDuskRequest a v) s = hubWrote a { dusked with pwr := { dusked.pwr with devRefused := true } }) ∧
      (a = .sc 0 → b.dev = .noon → s.duskOk = true → exec (.deviceDuskRequest a v) s = hubWrote a
        (({ slept with pwr := { dusked.pwr with dev := .dusk, pgLock := b.pgRun, pgRun := 0 } } : State).setCore 0 .dusk)) ∧
      exec (.hubClockEnable a v) s = hubWrote a (pwrNow { b with
        huben := (if keeps 0 then 1 else 0) ||| (if keeps 1 then 2 else 0) ||| (if keeps 2 then 4 else 0) ||| (if keeps 3 then 8 else 0)
        hubOff := ~~~(v.truncate 4) })) ∧
    (¬ Manages a → a ≠ .bar0 → a ≠ .bar2 → exec (.tileStateRequest a v) s = hubWrote a s 1 ∧
      exec (.deviceDuskRequest a v) s = hubWrote a s 1 ∧ exec (.hubClockEnable a v) s = hubWrote a s 1) ∧
    exec .deviceWake s = .next (if b.dev = .dusk then pwrNow { b with dev := .dawn } else s) ∧
    (b.dev ≠ .dawn ∨ s.pin.waitPgood = true → exec .deviceDawnComplete s = .next s) ∧
    (b.dev = .dawn → s.pin.waitPgood = false → exec .deviceDawnComplete s = .next
      ((({ woken with pwr := { b with dev := .noon, pgRun := b.pgRun ||| b.pgLock, pgLock := 0 } } : State).setCore 0 .run).seeLine8)) ∧
    exec (.scDusk n) s = .next (if n.val ≠ 0 ∧ s.core n.val = .run ∧ b.scdusk.getLsbD n.val = true ∧ s.winner n.val = 0 then
      s.setCore n.val .dusk else s) ∧
    exec (.scWake n) s = .next (if s.core n.val ≠ .dusk ∨ s.winner n.val = 0 then s
      else if b.dev = .noon then s.setCore n.val .run else if b.dev = .dusk then pwrNow { b with dev := .dawn } else s)

/-- R439, R520 to R525, and the prose of chapter 21 on clocks and rails: an assertion on PORST_N, PERST_N or LKO_RST_N, the loss of a clock and a
missing PGOOD reset or hold their part of the device; the release starts it. Rests on the readings and choices of log entries 4, 36, 48, 57. -/
def Obligations.ResetPinsResetAndStartTheDevice : Prop :=
  ∀ (s : State) (straps : BitVec 4) (fuseOk : Bool) (stackOk : BitVec 12),
    let under : State := { State.reset with
      pending := s.pending, fx := s.fx, outbox := s.outbox, draws := s.draws, drawsEnt := s.drawsEnt
      sec := { svnUp := s.sec.svnUp, erevSet := s.sec.erevSet, lrevSet := s.sec.lrevSet }
      lko := { s.lko with up := false, mbox := 0, held := [], tls := 0, bootFail := false }
      pin := { s.pin with thermtrip := false, strap := 0, pwren := true, waitPgood := false } }
    let latched : State := { s with pin := { s.pin with porst := true, strap := straps, fuseOk := fuseOk, stackOk := stackOk } }
    let down := if s.pci.up = true then (s.pci.hostReqs.foldl (fun t x => t.respond x.2 2 (List.replicate (opLen x.2.op) (0, false)))
      ({ s with pci := { s.pci with up := false, width := 0, rate := 0, hostReqs := [] } } : State)).endSession.latch 16 else s
    let boots := s.pin.porst = true ∧ s.pin.aoLost = false ∧ (s.tryImage 1).2.1 = 0
    let freed : State := { s with pin := { s.pin with lkoRst := true } }
    let noted (t : State) (kind : Nat) : State := { t with lko := { t.lko with notes := t.lko.notes ++ [(kind, 0)] } }
    exec .porstNAssert s = .next { under with pin := { under.pin with porst := false } } ∧
    (s.pin.porst = true → exec (.porstNDeassert straps fuseOk stackOk) s = .next s) ∧
    (s.pin.porst = false → exec (.porstNDeassert straps fuseOk stackOk) s = .next latched.powerUp) ∧
    exec .perstNAssert s = .next { down with
      pci := { released := down.pci.released, nextReq := down.pci.nextReq }, pin := { down.pin with perst := false } } ∧
    exec .perstNDeassert s = .next { s with pin := { s.pin with perst := true } } ∧
    exec .lkoRstNAssert s = .next { s with lko := { s.lko with up := false, tls := 0 }, pin := { s.pin with lkoRst := false } } ∧
    (boots → s.lko.up = false → exec .lkoRstNDeassert s = .next (s.lko.held.foldl State.mailbox
      { freed with lko := { s.lko with up := true, held := [] } })) ∧
    (¬ boots ∨ s.lko.up = true → exec .lkoRstNDeassert s = .next freed) ∧
    (s.pin.waitPgood = true → exec .pgoodTimeout s = .next (noted
      { s with pin := { s.pin with waitPgood := false, pwren := false }, pwr := { s.pwr with dev := .night } } 2) ∧
      exec .pgoodRise s = .next (({ s with pin := { s.pin with waitPgood := false } } : State).startUp false 1)) ∧
    (s.pin.waitPgood = false → exec .pgoodTimeout s = .next s ∧ exec .pgoodRise s = .next s) ∧
    exec .aoClkLoss s = .next { under with pin := { under.pin with aoLost := true, strap := s.pin.strap } } ∧
    (s.pin.aoLost = true → exec .aoClkRestore s = .next ({ s with pin := { s.pin with aoLost := false } } : State).powerUp) ∧
    (s.pin.aoLost = false → exec .aoClkRestore s = .next s) ∧
    (s.lko.up = false → exec .refclkLoss s = .next s) ∧
    (s.lko.up = true → exec .refclkLoss s = .next (noted (if s.pwr.dev = .night then s else s.enterNight) 3))

/-- R529, R530, R532: a service core whose watchdog expires or that meets a machine check is recorded and held; another core releases it, and the
Lookout restarts the device when SC0 is held. Rests on the readings and choices of log entries 23, 36, 41. -/
def Obligations.ServiceCoresAreHeldAndReleased : Prop :=
  ∀ (s : State) (a : Agent) (n : Fin 8) (v : W32) (residue : Bool) (addr : W64),
    let i := n.val
    let held (t : State) : State := let u := t.setCore i .held
      if i = 0 then { u with lko := { u.lko with notes := u.lko.notes ++ [(4, 0)] } } else u
    let period (w : W32) : State := { s with hub := { s.hub with scwd := tset 0xF4240#32 s.hub.scwd i (w &&& 0x40FFFFFF#32) } }
    let frees := i ≠ 0 ∧ (∃ m : Fin 8, a = .sc m ∧ m ≠ n) ∧ s.core i = .held
    let night := s.enterNight
    (s.core i = .run → (tget 0xF4240#32 s.hub.scwd i)[30] = true →
      exec (.scWatchdogExpiry n) s = .next (held (({ s with draws := s.draws + 1 } : State).machineCheck 0 1 i s.free))) ∧
    (s.core i ≠ .run ∨ (tget 0xF4240#32 s.hub.scwd i)[30] = false → exec (.scWatchdogExpiry n) s = .next s) ∧
    (s.core i = .run → exec (.scMachineCheck n residue addr) s =
      .next (held (s.machineCheck (if residue then 2 else 1) (if residue then 3 else 2) i addr))) ∧
    (s.core i ≠ .run → exec (.scMachineCheck n residue addr) s = .next s) ∧
    (MayWrite s a →
      (v[28] = false → exec (.watchdogKick a n v) s = hubWrote a (period v)) ∧
      (frees → exec (.scRelease a n v) s = hubWrote a ((period v).setCore i .run)) ∧
      (¬ frees → exec (.scRelease a n v) s = hubWrote a (period v)) ∧
      (v[28] = true → frees → exec (.watchdogKick a n v) s = hubWrote a ((period v).setCore i .run)) ∧
      (v[28] = true → ¬ frees → exec (.watchdogKick a n v) s = hubWrote a (period v))) ∧
    (s.core 0 ≠ .held ∨ s.lko.up = false → exec .sc0FailureRestart s = .next s) ∧
    (s.core 0 = .held → s.lko.up = true →
      exec .sc0FailureRestart s = .next (({ night with pin := { night.pin with pwren := true } } : State).startUp false 2))

/-- R11, R12, R91, R97, R100 to R103, R319, R547: a register access and a window request reach the window or the hub register that they name, are
checked in order and answered with a status; an EVT message adds to its counter, or is lost or counted. Rests on the readings and choices of log
entries 28, 50. -/
def Obligations.AccessesReachWhatTheyName : Prop :=
  ∀ (s : State) (a : Agent) (addr : Nat) (w8 : Bool) (v : W64) (r : Req) (m : EvtMsg),
    let n := if w8 then 8 else 4
    let wr : ReqOp := .write (clean (leBytes n v.toNat))
    let inWindow (x : Nat) := winBase ≤ x ∧ x < winBase + 2 ^ 32
    let inHub (x : Nat) := hubBase ≤ x ∧ x < hubBase + 2 ^ 28
    let zeros (op : ReqOp) := match op with | .read n => List.replicate n ((0 : Byte), false) | .write _ => []
    let off (x : Nat) := x - hubBase
    let told (x : Ans) := Host.Outcome.next (x.s.emit (.regValue x.status (BitVec.ofNat 64 (leNatP x.data))))
    let tgt := m.tgt.val
    let arrives := match m.src with
      | .tile t => (match (s.tile t.val).evOut.find? (fun z => z.1.tgt = m.tgt) with
        | some z => z.1 = m ∧ ¬ (z.2 = true ∧ (s.tile t.val).writesOut = true)
        | none => False)
      | _ => True
    let left := match m.src with
      | .tile t => s.setTile t.val { s.tile t.val with evOut := (s.tile t.val).evOut.eraseP (fun z => z.1 = m) }
      | _ => s
    let z := left.tile tgt
    let mine := (s.tagOf m.src).fw = true ∨ (s.tagOf m.src).part = partOfTile s.partMode tgt
    (addrWf addr = false → exec (.registerWrite a addr w8 v) s = .fault .noSuchEvent ∧ exec (.rcRegisterRead a addr w8) s = .fault .noSuchEvent) ∧
    (addrWf addr = true → a ≠ .bar0 → a ≠ .bar2 →
      exec (.registerWrite a addr w8 v) s = told (s.regAccess a addr wr) ∧
      exec (.rcRegisterRead a addr w8) s = told (s.regAccess a addr (.read n))) ∧
    (∀ (x : Nat) (op : ReqOp), a ≠ .bar0 → a ≠ .bar2 →
      (inWindow x → s.regAccess a x op = s.tileAccess a ((x - winBase) / 2 ^ 24) ((x - winBase) % 2 ^ 24) op) ∧
      (¬ inWindow x → ¬ inHub x → s.regAccess a x op = ⟨s, 3, zeros op⟩) ∧
      (inHub x →
        (s.hubPlace a (off x) (opLen op) = none → s.regAccess a x op = ⟨s, 3, zeros op⟩) ∧
        (∀ b l, s.hubPlace a (off x) (opLen op) = some (b, l) →
          (l.all (fun p => mayReach a b p.1) = false → s.regAccess a x op = ⟨s, 1, zeros op⟩) ∧
          (l.all (fun p => mayReach a b p.1) = true → l.any (fun p => s.gated b p.1) = true → s.regAccess a x op = ⟨s, 2, zeros op⟩) ∧
          (l.all (fun p => mayReach a b p.1) = true → l.any (fun p => s.gated b p.1) = false → s.regAccess a x op =
            match op with
            | .read k => ⟨(s.hubReadParts a b l 0).2, 0, clean (leBytes k (s.hubReadParts a b l 0).1.toNat)⟩
            | .write d => ⟨(s.hubWriteParts a b (BitVec.ofNat 64 (leNatP d)) l).1, (s.hubWriteParts a b (BitVec.ofNat 64 (leNatP d)) l).2, []⟩)))) ∧
    (r.wf = false ∨ r.addr < memEnd ∨ isHost r.addr = true → exec (.windowRequest r) s = .fault .noSuchEvent) ∧
    (r.wf = true → memEnd ≤ r.addr → isHost r.addr = false →
      (s.mayArrive r = false → exec (.windowRequest r) s = .next s) ∧
      (s.mayArrive r = true →
        let u : State := { s with transit := s.transit.erase r }
        let x := u.regAccess r.src r.addr r.op
        exec (.windowRequest r) s = .next (x.s.respond r x.status x.data))) ∧
    (¬ arrives → exec (.evtMessage m) s = .next s) ∧
    (arrives → s.routeRuns m.src tgt = false → exec (.evtMessage m) s = .next left) ∧
    (arrives → s.routeRuns m.src tgt = true → ¬ mine → exec (.evtMessage m) s =
      .next (left.setTile tgt { z with seq := { z.seq with xpartEvt := satInc z.seq.xpartEvt } })) ∧
    (arrives → s.routeRuns m.src tgt = true → mine → exec (.evtMessage m) s = .next (left.setTile tgt (evInc z m.ev.val (m.inc.zeroExtend 32))))

/-- R475: a source is a candidate of a target when it is pending, not active, its mask bit is 1 and its priority exceeds the target's threshold; one of
priority 0 never is. The winner is the candidate of the highest priority, and of the lowest number among equals; with no candidate, and so with a
threshold of 15, it is 0. -/
def Obligations.WinnerHasHighestPriorityAndLowestNumber : Prop :=
  ∀ (s : State) (target : Nat), Orderly s →
    let prio (n : Nat) := tget 0 s.icu.prio n
    let candidate (n : Nat) : Prop := s.isPending n = true ∧ tget false s.icu.active n = false ∧ s.maskBit n target = true ∧
      tget 0 s.icu.thr target < prio n
    (∀ n, s.candidateOf target n (prio n) = true ↔ candidate n) ∧ (∀ n, prio n = 0 → ¬ candidate n) ∧
    (∀ n, candidate n → n ≠ 0 → candidate (s.winner target) ∧
      (prio n < prio (s.winner target) ∨ (prio n = prio (s.winner target) ∧ s.winner target ≤ n))) ∧
    (s.winner target ≠ 0 → candidate (s.winner target)) ∧
    (tget 0 s.icu.thr target = 15 → s.winner target = 0)
end

