-- ==== Sys2Proof/Laws/State.lean ====
section
/-! SUPPORT. Every field of the state under every update by an operation: no later proof unfolds a record update. -/

namespace Sys2Proof.Machine

variable (s : State)

@[simp] theorem State.setTile_pending (t : Nat) (x : Tile) : (s.setTile t x).pending = s.pending := rfl
@[simp] theorem State.setTile_fx (t : Nat) (x : Tile) : (s.setTile t x).fx = s.fx := rfl
@[simp] theorem State.setTile_partMode (t : Nat) (x : Tile) : (s.setTile t x).partMode = s.partMode := rfl
@[simp] theorem State.setTile_tiles (t : Nat) (x : Tile) : (s.setTile t x).tiles = tset Tile.reset s.tiles t x := rfl
@[simp] theorem State.setTile_tileCtx (t : Nat) (x : Tile) : (s.setTile t x).tileCtx = s.tileCtx := rfl
@[simp] theorem State.setTile_tileCode (t : Nat) (x : Tile) : (s.setTile t x).tileCode = s.tileCode := rfl
@[simp] theorem State.setTile_mem (t : Nat) (x : Tile) : (s.setTile t x).mem = s.mem := rfl
@[simp] theorem State.setTile_memPois (t : Nat) (x : Tile) : (s.setTile t x).memPois = s.memPois := rfl
@[simp] theorem State.setTile_stk (t : Nat) (x : Tile) : (s.setTile t x).stk = s.stk := rfl
@[simp] theorem State.setTile_strat (t : Nat) (x : Tile) : (s.setTile t x).strat = s.strat := rfl
@[simp] theorem State.setTile_upds (t : Nat) (x : Tile) : (s.setTile t x).upds = s.upds := rfl
@[simp] theorem State.setTile_nextId (t : Nat) (x : Tile) : (s.setTile t x).nextId = s.nextId := rfl
@[simp] theorem State.setTile_sdma (t : Nat) (x : Tile) : (s.setTile t x).sdma = s.sdma := rfl
@[simp] theorem State.setTile_sdmaIrq (t : Nat) (x : Tile) : (s.setTile t x).sdmaIrq = s.sdmaIrq := rfl
@[simp] theorem State.setTile_port (t : Nat) (x : Tile) : (s.setTile t x).port = s.port := rfl
@[simp] theorem State.setTile_cvy (t : Nat) (x : Tile) : (s.setTile t x).cvy = s.cvy := rfl
@[simp] theorem State.setTile_stream (t : Nat) (x : Tile) : (s.setTile t x).stream = s.stream := rfl
@[simp] theorem State.setTile_pci (t : Nat) (x : Tile) : (s.setTile t x).pci = s.pci := rfl
@[simp] theorem State.setTile_sec (t : Nat) (x : Tile) : (s.setTile t x).sec = s.sec := rfl
@[simp] theorem State.setTile_lko (t : Nat) (x : Tile) : (s.setTile t x).lko = s.lko := rfl
@[simp] theorem State.setTile_icu (t : Nat) (x : Tile) : (s.setTile t x).icu = s.icu := rfl
@[simp] theorem State.setTile_pwr (t : Nat) (x : Tile) : (s.setTile t x).pwr = s.pwr := rfl
@[simp] theorem State.setTile_stash (t : Nat) (x : Tile) : (s.setTile t x).stash = s.stash := rfl
@[simp] theorem State.setTile_npc (t : Nat) (x : Tile) : (s.setTile t x).npc = s.npc := rfl
@[simp] theorem State.setTile_modules (t : Nat) (x : Tile) : (s.setTile t x).modules = s.modules := rfl
@[simp] theorem State.setTile_cache (t : Nat) (x : Tile) : (s.setTile t x).cache = s.cache := rfl
@[simp] theorem State.setTile_nextSerial (t : Nat) (x : Tile) : (s.setTile t x).nextSerial = s.nextSerial := rfl
@[simp] theorem State.setTile_trc (t : Nat) (x : Tile) : (s.setTile t x).trc = s.trc := rfl
@[simp] theorem State.setTile_hub (t : Nat) (x : Tile) : (s.setTile t x).hub = s.hub := rfl
@[simp] theorem State.setTile_pin (t : Nat) (x : Tile) : (s.setTile t x).pin = s.pin := rfl
@[simp] theorem State.setTile_transit (t : Nat) (x : Tile) : (s.setTile t x).transit = s.transit := rfl
@[simp] theorem State.setTile_resps (t : Nat) (x : Tile) : (s.setTile t x).resps = s.resps := rfl
@[simp] theorem State.setTile_outbox (t : Nat) (x : Tile) : (s.setTile t x).outbox = s.outbox := rfl
@[simp] theorem State.setTile_draws (t : Nat) (x : Tile) : (s.setTile t x).draws = s.draws := rfl
@[simp] theorem State.setTile_drawsEnt (t : Nat) (x : Tile) : (s.setTile t x).drawsEnt = s.drawsEnt := rfl

@[simp] theorem State.setStack_pending (k : Nat) (x : StkBlk) : (s.setStack k x).pending = s.pending := rfl
@[simp] theorem State.setStack_fx (k : Nat) (x : StkBlk) : (s.setStack k x).fx = s.fx := rfl
@[simp] theorem State.setStack_partMode (k : Nat) (x : StkBlk) : (s.setStack k x).partMode = s.partMode := rfl
@[simp] theorem State.setStack_tiles (k : Nat) (x : StkBlk) : (s.setStack k x).tiles = s.tiles := rfl
@[simp] theorem State.setStack_tileCtx (k : Nat) (x : StkBlk) : (s.setStack k x).tileCtx = s.tileCtx := rfl
@[simp] theorem State.setStack_tileCode (k : Nat) (x : StkBlk) : (s.setStack k x).tileCode = s.tileCode := rfl
@[simp] theorem State.setStack_mem (k : Nat) (x : StkBlk) : (s.setStack k x).mem = s.mem := rfl
@[simp] theorem State.setStack_memPois (k : Nat) (x : StkBlk) : (s.setStack k x).memPois = s.memPois := rfl
@[simp] theorem State.setStack_stk (k : Nat) (x : StkBlk) : (s.setStack k x).stk = tset StkBlk.zero s.stk k x := rfl
@[simp] theorem State.setStack_strat (k : Nat) (x : StkBlk) : (s.setStack k x).strat = s.strat := rfl
@[simp] theorem State.setStack_upds (k : Nat) (x : StkBlk) : (s.setStack k x).upds = s.upds := rfl
@[simp] theorem State.setStack_nextId (k : Nat) (x : StkBlk) : (s.setStack k x).nextId = s.nextId := rfl
@[simp] theorem State.setStack_sdma (k : Nat) (x : StkBlk) : (s.setStack k x).sdma = s.sdma := rfl
@[simp] theorem State.setStack_sdmaIrq (k : Nat) (x : StkBlk) : (s.setStack k x).sdmaIrq = s.sdmaIrq := rfl
@[simp] theorem State.setStack_port (k : Nat) (x : StkBlk) : (s.setStack k x).port = s.port := rfl
@[simp] theorem State.setStack_cvy (k : Nat) (x : StkBlk) : (s.setStack k x).cvy = s.cvy := rfl
@[simp] theorem State.setStack_stream (k : Nat) (x : StkBlk) : (s.setStack k x).stream = s.stream := rfl
@[simp] theorem State.setStack_pci (k : Nat) (x : StkBlk) : (s.setStack k x).pci = s.pci := rfl
@[simp] theorem State.setStack_sec (k : Nat) (x : StkBlk) : (s.setStack k x).sec = s.sec := rfl
@[simp] theorem State.setStack_lko (k : Nat) (x : StkBlk) : (s.setStack k x).lko = s.lko := rfl
@[simp] theorem State.setStack_icu (k : Nat) (x : StkBlk) : (s.setStack k x).icu = s.icu := rfl
@[simp] theorem State.setStack_pwr (k : Nat) (x : StkBlk) : (s.setStack k x).pwr = s.pwr := rfl
@[simp] theorem State.setStack_stash (k : Nat) (x : StkBlk) : (s.setStack k x).stash = s.stash := rfl
@[simp] theorem State.setStack_npc (k : Nat) (x : StkBlk) : (s.setStack k x).npc = s.npc := rfl
@[simp] theorem State.setStack_modules (k : Nat) (x : StkBlk) : (s.setStack k x).modules = s.modules := rfl
@[simp] theorem State.setStack_cache (k : Nat) (x : StkBlk) : (s.setStack k x).cache = s.cache := rfl
@[simp] theorem State.setStack_nextSerial (k : Nat) (x : StkBlk) : (s.setStack k x).nextSerial = s.nextSerial := rfl
@[simp] theorem State.setStack_trc (k : Nat) (x : StkBlk) : (s.setStack k x).trc = s.trc := rfl
@[simp] theorem State.setStack_hub (k : Nat) (x : StkBlk) : (s.setStack k x).hub = s.hub := rfl
@[simp] theorem State.setStack_pin (k : Nat) (x : StkBlk) : (s.setStack k x).pin = s.pin := rfl
@[simp] theorem State.setStack_transit (k : Nat) (x : StkBlk) : (s.setStack k x).transit = s.transit := rfl
@[simp] theorem State.setStack_resps (k : Nat) (x : StkBlk) : (s.setStack k x).resps = s.resps := rfl
@[simp] theorem State.setStack_outbox (k : Nat) (x : StkBlk) : (s.setStack k x).outbox = s.outbox := rfl
@[simp] theorem State.setStack_draws (k : Nat) (x : StkBlk) : (s.setStack k x).draws = s.draws := rfl
@[simp] theorem State.setStack_drawsEnt (k : Nat) (x : StkBlk) : (s.setStack k x).drawsEnt = s.drawsEnt := rfl

@[simp] theorem State.setUnit_pending (k : Nat) (x : StratBlk) : (s.setUnit k x).pending = s.pending := rfl
@[simp] theorem State.setUnit_fx (k : Nat) (x : StratBlk) : (s.setUnit k x).fx = s.fx := rfl
@[simp] theorem State.setUnit_partMode (k : Nat) (x : StratBlk) : (s.setUnit k x).partMode = s.partMode := rfl
@[simp] theorem State.setUnit_tiles (k : Nat) (x : StratBlk) : (s.setUnit k x).tiles = s.tiles := rfl
@[simp] theorem State.setUnit_tileCtx (k : Nat) (x : StratBlk) : (s.setUnit k x).tileCtx = s.tileCtx := rfl
@[simp] theorem State.setUnit_tileCode (k : Nat) (x : StratBlk) : (s.setUnit k x).tileCode = s.tileCode := rfl
@[simp] theorem State.setUnit_mem (k : Nat) (x : StratBlk) : (s.setUnit k x).mem = s.mem := rfl
@[simp] theorem State.setUnit_memPois (k : Nat) (x : StratBlk) : (s.setUnit k x).memPois = s.memPois := rfl
@[simp] theorem State.setUnit_stk (k : Nat) (x : StratBlk) : (s.setUnit k x).stk = s.stk := rfl
@[simp] theorem State.setUnit_strat (k : Nat) (x : StratBlk) : (s.setUnit k x).strat = tset StratBlk.zero s.strat k x := rfl
@[simp] theorem State.setUnit_upds (k : Nat) (x : StratBlk) : (s.setUnit k x).upds = s.upds := rfl
@[simp] theorem State.setUnit_nextId (k : Nat) (x : StratBlk) : (s.setUnit k x).nextId = s.nextId := rfl
@[simp] theorem State.setUnit_sdma (k : Nat) (x : StratBlk) : (s.setUnit k x).sdma = s.sdma := rfl
@[simp] theorem State.setUnit_sdmaIrq (k : Nat) (x : StratBlk) : (s.setUnit k x).sdmaIrq = s.sdmaIrq := rfl
@[simp] theorem State.setUnit_port (k : Nat) (x : StratBlk) : (s.setUnit k x).port = s.port := rfl
@[simp] theorem State.setUnit_cvy (k : Nat) (x : StratBlk) : (s.setUnit k x).cvy = s.cvy := rfl
@[simp] theorem State.setUnit_stream (k : Nat) (x : StratBlk) : (s.setUnit k x).stream = s.stream := rfl
@[simp] theorem State.setUnit_pci (k : Nat) (x : StratBlk) : (s.setUnit k x).pci = s.pci := rfl
@[simp] theorem State.setUnit_sec (k : Nat) (x : StratBlk) : (s.setUnit k x).sec = s.sec := rfl
@[simp] theorem State.setUnit_lko (k : Nat) (x : StratBlk) : (s.setUnit k x).lko = s.lko := rfl
@[simp] theorem State.setUnit_icu (k : Nat) (x : StratBlk) : (s.setUnit k x).icu = s.icu := rfl
@[simp] theorem State.setUnit_pwr (k : Nat) (x : StratBlk) : (s.setUnit k x).pwr = s.pwr := rfl
@[simp] theorem State.setUnit_stash (k : Nat) (x : StratBlk) : (s.setUnit k x).stash = s.stash := rfl
@[simp] theorem State.setUnit_npc (k : Nat) (x : StratBlk) : (s.setUnit k x).npc = s.npc := rfl
@[simp] theorem State.setUnit_modules (k : Nat) (x : StratBlk) : (s.setUnit k x).modules = s.modules := rfl
@[simp] theorem State.setUnit_cache (k : Nat) (x : StratBlk) : (s.setUnit k x).cache = s.cache := rfl
@[simp] theorem State.setUnit_nextSerial (k : Nat) (x : StratBlk) : (s.setUnit k x).nextSerial = s.nextSerial := rfl
@[simp] theorem State.setUnit_trc (k : Nat) (x : StratBlk) : (s.setUnit k x).trc = s.trc := rfl
@[simp] theorem State.setUnit_hub (k : Nat) (x : StratBlk) : (s.setUnit k x).hub = s.hub := rfl
@[simp] theorem State.setUnit_pin (k : Nat) (x : StratBlk) : (s.setUnit k x).pin = s.pin := rfl
@[simp] theorem State.setUnit_transit (k : Nat) (x : StratBlk) : (s.setUnit k x).transit = s.transit := rfl
@[simp] theorem State.setUnit_resps (k : Nat) (x : StratBlk) : (s.setUnit k x).resps = s.resps := rfl
@[simp] theorem State.setUnit_outbox (k : Nat) (x : StratBlk) : (s.setUnit k x).outbox = s.outbox := rfl
@[simp] theorem State.setUnit_draws (k : Nat) (x : StratBlk) : (s.setUnit k x).draws = s.draws := rfl
@[simp] theorem State.setUnit_drawsEnt (k : Nat) (x : StratBlk) : (s.setUnit k x).drawsEnt = s.drawsEnt := rfl

@[simp] theorem State.setPort_pending (n : Nat) (x : PortBlk) : (s.setPort n x).pending = s.pending := rfl
@[simp] theorem State.setPort_fx (n : Nat) (x : PortBlk) : (s.setPort n x).fx = s.fx := rfl
@[simp] theorem State.setPort_partMode (n : Nat) (x : PortBlk) : (s.setPort n x).partMode = s.partMode := rfl
@[simp] theorem State.setPort_tiles (n : Nat) (x : PortBlk) : (s.setPort n x).tiles = s.tiles := rfl
@[simp] theorem State.setPort_tileCtx (n : Nat) (x : PortBlk) : (s.setPort n x).tileCtx = s.tileCtx := rfl
@[simp] theorem State.setPort_tileCode (n : Nat) (x : PortBlk) : (s.setPort n x).tileCode = s.tileCode := rfl
@[simp] theorem State.setPort_mem (n : Nat) (x : PortBlk) : (s.setPort n x).mem = s.mem := rfl
@[simp] theorem State.setPort_memPois (n : Nat) (x : PortBlk) : (s.setPort n x).memPois = s.memPois := rfl
@[simp] theorem State.setPort_stk (n : Nat) (x : PortBlk) : (s.setPort n x).stk = s.stk := rfl
@[simp] theorem State.setPort_strat (n : Nat) (x : PortBlk) : (s.setPort n x).strat = s.strat := rfl
@[simp] theorem State.setPort_upds (n : Nat) (x : PortBlk) : (s.setPort n x).upds = s.upds := rfl
@[simp] theorem State.setPort_nextId (n : Nat) (x : PortBlk) : (s.setPort n x).nextId = s.nextId := rfl
@[simp] theorem State.setPort_sdma (n : Nat) (x : PortBlk) : (s.setPort n x).sdma = s.sdma := rfl
@[simp] theorem State.setPort_sdmaIrq (n : Nat) (x : PortBlk) : (s.setPort n x).sdmaIrq = s.sdmaIrq := rfl
@[simp] theorem State.setPort_port (n : Nat) (x : PortBlk) : (s.setPort n x).port = tset PortBlk.zero s.port n x := rfl
@[simp] theorem State.setPort_cvy (n : Nat) (x : PortBlk) : (s.setPort n x).cvy = s.cvy := rfl
@[simp] theorem State.setPort_stream (n : Nat) (x : PortBlk) : (s.setPort n x).stream = s.stream := rfl
@[simp] theorem State.setPort_pci (n : Nat) (x : PortBlk) : (s.setPort n x).pci = s.pci := rfl
@[simp] theorem State.setPort_sec (n : Nat) (x : PortBlk) : (s.setPort n x).sec = s.sec := rfl
@[simp] theorem State.setPort_lko (n : Nat) (x : PortBlk) : (s.setPort n x).lko = s.lko := rfl
@[simp] theorem State.setPort_icu (n : Nat) (x : PortBlk) : (s.setPort n x).icu = s.icu := rfl
@[simp] theorem State.setPort_pwr (n : Nat) (x : PortBlk) : (s.setPort n x).pwr = s.pwr := rfl
@[simp] theorem State.setPort_stash (n : Nat) (x : PortBlk) : (s.setPort n x).stash = s.stash := rfl
@[simp] theorem State.setPort_npc (n : Nat) (x : PortBlk) : (s.setPort n x).npc = s.npc := rfl
@[simp] theorem State.setPort_modules (n : Nat) (x : PortBlk) : (s.setPort n x).modules = s.modules := rfl
@[simp] theorem State.setPort_cache (n : Nat) (x : PortBlk) : (s.setPort n x).cache = s.cache := rfl
@[simp] theorem State.setPort_nextSerial (n : Nat) (x : PortBlk) : (s.setPort n x).nextSerial = s.nextSerial := rfl
@[simp] theorem State.setPort_trc (n : Nat) (x : PortBlk) : (s.setPort n x).trc = s.trc := rfl
@[simp] theorem State.setPort_hub (n : Nat) (x : PortBlk) : (s.setPort n x).hub = s.hub := rfl
@[simp] theorem State.setPort_pin (n : Nat) (x : PortBlk) : (s.setPort n x).pin = s.pin := rfl
@[simp] theorem State.setPort_transit (n : Nat) (x : PortBlk) : (s.setPort n x).transit = s.transit := rfl
@[simp] theorem State.setPort_resps (n : Nat) (x : PortBlk) : (s.setPort n x).resps = s.resps := rfl
@[simp] theorem State.setPort_outbox (n : Nat) (x : PortBlk) : (s.setPort n x).outbox = s.outbox := rfl
@[simp] theorem State.setPort_draws (n : Nat) (x : PortBlk) : (s.setPort n x).draws = s.draws := rfl
@[simp] theorem State.setPort_drawsEnt (n : Nat) (x : PortBlk) : (s.setPort n x).drawsEnt = s.drawsEnt := rfl

@[simp] theorem State.setChan_pending (n : Nat) (x : DmaCh) : (s.setChan n x).pending = s.pending := rfl
@[simp] theorem State.setChan_fx (n : Nat) (x : DmaCh) : (s.setChan n x).fx = s.fx := rfl
@[simp] theorem State.setChan_partMode (n : Nat) (x : DmaCh) : (s.setChan n x).partMode = s.partMode := rfl
@[simp] theorem State.setChan_tiles (n : Nat) (x : DmaCh) : (s.setChan n x).tiles = s.tiles := rfl
@[simp] theorem State.setChan_tileCtx (n : Nat) (x : DmaCh) : (s.setChan n x).tileCtx = s.tileCtx := rfl
@[simp] theorem State.setChan_tileCode (n : Nat) (x : DmaCh) : (s.setChan n x).tileCode = s.tileCode := rfl
@[simp] theorem State.setChan_mem (n : Nat) (x : DmaCh) : (s.setChan n x).mem = s.mem := rfl
@[simp] theorem State.setChan_memPois (n : Nat) (x : DmaCh) : (s.setChan n x).memPois = s.memPois := rfl
@[simp] theorem State.setChan_stk (n : Nat) (x : DmaCh) : (s.setChan n x).stk = s.stk := rfl
@[simp] theorem State.setChan_strat (n : Nat) (x : DmaCh) : (s.setChan n x).strat = s.strat := rfl
@[simp] theorem State.setChan_upds (n : Nat) (x : DmaCh) : (s.setChan n x).upds = s.upds := rfl
@[simp] theorem State.setChan_nextId (n : Nat) (x : DmaCh) : (s.setChan n x).nextId = s.nextId := rfl
@[simp] theorem State.setChan_sdma (n : Nat) (x : DmaCh) : (s.setChan n x).sdma = tset DmaCh.zero s.sdma n x := rfl
@[simp] theorem State.setChan_sdmaIrq (n : Nat) (x : DmaCh) : (s.setChan n x).sdmaIrq = s.sdmaIrq := rfl
@[simp] theorem State.setChan_port (n : Nat) (x : DmaCh) : (s.setChan n x).port = s.port := rfl
@[simp] theorem State.setChan_cvy (n : Nat) (x : DmaCh) : (s.setChan n x).cvy = s.cvy := rfl
@[simp] theorem State.setChan_stream (n : Nat) (x : DmaCh) : (s.setChan n x).stream = s.stream := rfl
@[simp] theorem State.setChan_pci (n : Nat) (x : DmaCh) : (s.setChan n x).pci = s.pci := rfl
@[simp] theorem State.setChan_sec (n : Nat) (x : DmaCh) : (s.setChan n x).sec = s.sec := rfl
@[simp] theorem State.setChan_lko (n : Nat) (x : DmaCh) : (s.setChan n x).lko = s.lko := rfl
@[simp] theorem State.setChan_icu (n : Nat) (x : DmaCh) : (s.setChan n x).icu = s.icu := rfl
@[simp] theorem State.setChan_pwr (n : Nat) (x : DmaCh) : (s.setChan n x).pwr = s.pwr := rfl
@[simp] theorem State.setChan_stash (n : Nat) (x : DmaCh) : (s.setChan n x).stash = s.stash := rfl
@[simp] theorem State.setChan_npc (n : Nat) (x : DmaCh) : (s.setChan n x).npc = s.npc := rfl
@[simp] theorem State.setChan_modules (n : Nat) (x : DmaCh) : (s.setChan n x).modules = s.modules := rfl
@[simp] theorem State.setChan_cache (n : Nat) (x : DmaCh) : (s.setChan n x).cache = s.cache := rfl
@[simp] theorem State.setChan_nextSerial (n : Nat) (x : DmaCh) : (s.setChan n x).nextSerial = s.nextSerial := rfl
@[simp] theorem State.setChan_trc (n : Nat) (x : DmaCh) : (s.setChan n x).trc = s.trc := rfl
@[simp] theorem State.setChan_hub (n : Nat) (x : DmaCh) : (s.setChan n x).hub = s.hub := rfl
@[simp] theorem State.setChan_pin (n : Nat) (x : DmaCh) : (s.setChan n x).pin = s.pin := rfl
@[simp] theorem State.setChan_transit (n : Nat) (x : DmaCh) : (s.setChan n x).transit = s.transit := rfl
@[simp] theorem State.setChan_resps (n : Nat) (x : DmaCh) : (s.setChan n x).resps = s.resps := rfl
@[simp] theorem State.setChan_outbox (n : Nat) (x : DmaCh) : (s.setChan n x).outbox = s.outbox := rfl
@[simp] theorem State.setChan_draws (n : Nat) (x : DmaCh) : (s.setChan n x).draws = s.draws := rfl
@[simp] theorem State.setChan_drawsEnt (n : Nat) (x : DmaCh) : (s.setChan n x).drawsEnt = s.drawsEnt := rfl

@[simp] theorem State.setNpc_pending (p : Nat) (x : NpcBlk) : (s.setNpc p x).pending = s.pending := rfl
@[simp] theorem State.setNpc_fx (p : Nat) (x : NpcBlk) : (s.setNpc p x).fx = s.fx := rfl
@[simp] theorem State.setNpc_partMode (p : Nat) (x : NpcBlk) : (s.setNpc p x).partMode = s.partMode := rfl
@[simp] theorem State.setNpc_tiles (p : Nat) (x : NpcBlk) : (s.setNpc p x).tiles = s.tiles := rfl
@[simp] theorem State.setNpc_tileCtx (p : Nat) (x : NpcBlk) : (s.setNpc p x).tileCtx = s.tileCtx := rfl
@[simp] theorem State.setNpc_tileCode (p : Nat) (x : NpcBlk) : (s.setNpc p x).tileCode = s.tileCode := rfl
@[simp] theorem State.setNpc_mem (p : Nat) (x : NpcBlk) : (s.setNpc p x).mem = s.mem := rfl
@[simp] theorem State.setNpc_memPois (p : Nat) (x : NpcBlk) : (s.setNpc p x).memPois = s.memPois := rfl
@[simp] theorem State.setNpc_stk (p : Nat) (x : NpcBlk) : (s.setNpc p x).stk = s.stk := rfl
@[simp] theorem State.setNpc_strat (p : Nat) (x : NpcBlk) : (s.setNpc p x).strat = s.strat := rfl
@[simp] theorem State.setNpc_upds (p : Nat) (x : NpcBlk) : (s.setNpc p x).upds = s.upds := rfl
@[simp] theorem State.setNpc_nextId (p : Nat) (x : NpcBlk) : (s.setNpc p x).nextId = s.nextId := rfl
@[simp] theorem State.setNpc_sdma (p : Nat) (x : NpcBlk) : (s.setNpc p x).sdma = s.sdma := rfl
@[simp] theorem State.setNpc_sdmaIrq (p : Nat) (x : NpcBlk) : (s.setNpc p x).sdmaIrq = s.sdmaIrq := rfl
@[simp] theorem State.setNpc_port (p : Nat) (x : NpcBlk) : (s.setNpc p x).port = s.port := rfl
@[simp] theorem State.setNpc_cvy (p : Nat) (x : NpcBlk) : (s.setNpc p x).cvy = s.cvy := rfl
@[simp] theorem State.setNpc_stream (p : Nat) (x : NpcBlk) : (s.setNpc p x).stream = s.stream := rfl
@[simp] theorem State.setNpc_pci (p : Nat) (x : NpcBlk) : (s.setNpc p x).pci = s.pci := rfl
@[simp] theorem State.setNpc_sec (p : Nat) (x : NpcBlk) : (s.setNpc p x).sec = s.sec := rfl
@[simp] theorem State.setNpc_lko (p : Nat) (x : NpcBlk) : (s.setNpc p x).lko = s.lko := rfl
@[simp] theorem State.setNpc_icu (p : Nat) (x : NpcBlk) : (s.setNpc p x).icu = s.icu := rfl
@[simp] theorem State.setNpc_pwr (p : Nat) (x : NpcBlk) : (s.setNpc p x).pwr = s.pwr := rfl
@[simp] theorem State.setNpc_stash (p : Nat) (x : NpcBlk) : (s.setNpc p x).stash = s.stash := rfl
@[simp] theorem State.setNpc_npc (p : Nat) (x : NpcBlk) : (s.setNpc p x).npc = tset NpcBlk.zero s.npc p x := rfl
@[simp] theorem State.setNpc_modules (p : Nat) (x : NpcBlk) : (s.setNpc p x).modules = s.modules := rfl
@[simp] theorem State.setNpc_cache (p : Nat) (x : NpcBlk) : (s.setNpc p x).cache = s.cache := rfl
@[simp] theorem State.setNpc_nextSerial (p : Nat) (x : NpcBlk) : (s.setNpc p x).nextSerial = s.nextSerial := rfl
@[simp] theorem State.setNpc_trc (p : Nat) (x : NpcBlk) : (s.setNpc p x).trc = s.trc := rfl
@[simp] theorem State.setNpc_hub (p : Nat) (x : NpcBlk) : (s.setNpc p x).hub = s.hub := rfl
@[simp] theorem State.setNpc_pin (p : Nat) (x : NpcBlk) : (s.setNpc p x).pin = s.pin := rfl
@[simp] theorem State.setNpc_transit (p : Nat) (x : NpcBlk) : (s.setNpc p x).transit = s.transit := rfl
@[simp] theorem State.setNpc_resps (p : Nat) (x : NpcBlk) : (s.setNpc p x).resps = s.resps := rfl
@[simp] theorem State.setNpc_outbox (p : Nat) (x : NpcBlk) : (s.setNpc p x).outbox = s.outbox := rfl
@[simp] theorem State.setNpc_draws (p : Nat) (x : NpcBlk) : (s.setNpc p x).draws = s.draws := rfl
@[simp] theorem State.setNpc_drawsEnt (p : Nat) (x : NpcBlk) : (s.setNpc p x).drawsEnt = s.drawsEnt := rfl

@[simp] theorem State.setCore_pending (n : Nat) (x : ScSt) : (s.setCore n x).pending = s.pending := rfl
@[simp] theorem State.setCore_fx (n : Nat) (x : ScSt) : (s.setCore n x).fx = s.fx := rfl
@[simp] theorem State.setCore_partMode (n : Nat) (x : ScSt) : (s.setCore n x).partMode = s.partMode := rfl
@[simp] theorem State.setCore_tiles (n : Nat) (x : ScSt) : (s.setCore n x).tiles = s.tiles := rfl
@[simp] theorem State.setCore_tileCtx (n : Nat) (x : ScSt) : (s.setCore n x).tileCtx = s.tileCtx := rfl
@[simp] theorem State.setCore_tileCode (n : Nat) (x : ScSt) : (s.setCore n x).tileCode = s.tileCode := rfl
@[simp] theorem State.setCore_mem (n : Nat) (x : ScSt) : (s.setCore n x).mem = s.mem := rfl
@[simp] theorem State.setCore_memPois (n : Nat) (x : ScSt) : (s.setCore n x).memPois = s.memPois := rfl
@[simp] theorem State.setCore_stk (n : Nat) (x : ScSt) : (s.setCore n x).stk = s.stk := rfl
@[simp] theorem State.setCore_strat (n : Nat) (x : ScSt) : (s.setCore n x).strat = s.strat := rfl
@[simp] theorem State.setCore_upds (n : Nat) (x : ScSt) : (s.setCore n x).upds = s.upds := rfl
@[simp] theorem State.setCore_nextId (n : Nat) (x : ScSt) : (s.setCore n x).nextId = s.nextId := rfl
@[simp] theorem State.setCore_sdma (n : Nat) (x : ScSt) : (s.setCore n x).sdma = s.sdma := rfl
@[simp] theorem State.setCore_sdmaIrq (n : Nat) (x : ScSt) : (s.setCore n x).sdmaIrq = s.sdmaIrq := rfl
@[simp] theorem State.setCore_port (n : Nat) (x : ScSt) : (s.setCore n x).port = s.port := rfl
@[simp] theorem State.setCore_cvy (n : Nat) (x : ScSt) : (s.setCore n x).cvy = s.cvy := rfl
@[simp] theorem State.setCore_stream (n : Nat) (x : ScSt) : (s.setCore n x).stream = s.stream := rfl
@[simp] theorem State.setCore_pci (n : Nat) (x : ScSt) : (s.setCore n x).pci = s.pci := rfl
@[simp] theorem State.setCore_sec (n : Nat) (x : ScSt) : (s.setCore n x).sec = s.sec := rfl
@[simp] theorem State.setCore_lko (n : Nat) (x : ScSt) : (s.setCore n x).lko = s.lko := rfl
@[simp] theorem State.setCore_icu (n : Nat) (x : ScSt) : (s.setCore n x).icu = s.icu := rfl
@[simp] theorem State.setCore_pwr (n : Nat) (x : ScSt) : (s.setCore n x).pwr = s.pwr := rfl
@[simp] theorem State.setCore_stash (n : Nat) (x : ScSt) : (s.setCore n x).stash = s.stash := rfl
@[simp] theorem State.setCore_npc (n : Nat) (x : ScSt) : (s.setCore n x).npc = s.npc := rfl
@[simp] theorem State.setCore_modules (n : Nat) (x : ScSt) : (s.setCore n x).modules = s.modules := rfl
@[simp] theorem State.setCore_cache (n : Nat) (x : ScSt) : (s.setCore n x).cache = s.cache := rfl
@[simp] theorem State.setCore_nextSerial (n : Nat) (x : ScSt) : (s.setCore n x).nextSerial = s.nextSerial := rfl
@[simp] theorem State.setCore_trc (n : Nat) (x : ScSt) : (s.setCore n x).trc = s.trc := rfl
@[simp] theorem State.setCore_hub (n : Nat) (x : ScSt) : (s.setCore n x).hub = { s.hub with sc := tset ScSt.reset s.hub.sc n x } := rfl
@[simp] theorem State.setCore_pin (n : Nat) (x : ScSt) : (s.setCore n x).pin = s.pin := rfl
@[simp] theorem State.setCore_transit (n : Nat) (x : ScSt) : (s.setCore n x).transit = s.transit := rfl
@[simp] theorem State.setCore_resps (n : Nat) (x : ScSt) : (s.setCore n x).resps = s.resps := rfl
@[simp] theorem State.setCore_outbox (n : Nat) (x : ScSt) : (s.setCore n x).outbox = s.outbox := rfl
@[simp] theorem State.setCore_draws (n : Nat) (x : ScSt) : (s.setCore n x).draws = s.draws := rfl
@[simp] theorem State.setCore_drawsEnt (n : Nat) (x : ScSt) : (s.setCore n x).drawsEnt = s.drawsEnt := rfl

@[simp] theorem State.emit_pending (m : OutMsg) : (s.emit m).pending = s.pending := rfl
@[simp] theorem State.emit_fx (m : OutMsg) : (s.emit m).fx = s.fx := rfl
@[simp] theorem State.emit_partMode (m : OutMsg) : (s.emit m).partMode = s.partMode := rfl
@[simp] theorem State.emit_tiles (m : OutMsg) : (s.emit m).tiles = s.tiles := rfl
@[simp] theorem State.emit_tileCtx (m : OutMsg) : (s.emit m).tileCtx = s.tileCtx := rfl
@[simp] theorem State.emit_tileCode (m : OutMsg) : (s.emit m).tileCode = s.tileCode := rfl
@[simp] theorem State.emit_mem (m : OutMsg) : (s.emit m).mem = s.mem := rfl
@[simp] theorem State.emit_memPois (m : OutMsg) : (s.emit m).memPois = s.memPois := rfl
@[simp] theorem State.emit_stk (m : OutMsg) : (s.emit m).stk = s.stk := rfl
@[simp] theorem State.emit_strat (m : OutMsg) : (s.emit m).strat = s.strat := rfl
@[simp] theorem State.emit_upds (m : OutMsg) : (s.emit m).upds = s.upds := rfl
@[simp] theorem State.emit_nextId (m : OutMsg) : (s.emit m).nextId = s.nextId := rfl
@[simp] theorem State.emit_sdma (m : OutMsg) : (s.emit m).sdma = s.sdma := rfl
@[simp] theorem State.emit_sdmaIrq (m : OutMsg) : (s.emit m).sdmaIrq = s.sdmaIrq := rfl
@[simp] theorem State.emit_port (m : OutMsg) : (s.emit m).port = s.port := rfl
@[simp] theorem State.emit_cvy (m : OutMsg) : (s.emit m).cvy = s.cvy := rfl
@[simp] theorem State.emit_stream (m : OutMsg) : (s.emit m).stream = s.stream := rfl
@[simp] theorem State.emit_pci (m : OutMsg) : (s.emit m).pci = s.pci := rfl
@[simp] theorem State.emit_sec (m : OutMsg) : (s.emit m).sec = s.sec := rfl
@[simp] theorem State.emit_lko (m : OutMsg) : (s.emit m).lko = s.lko := rfl
@[simp] theorem State.emit_icu (m : OutMsg) : (s.emit m).icu = s.icu := rfl
@[simp] theorem State.emit_pwr (m : OutMsg) : (s.emit m).pwr = s.pwr := rfl
@[simp] theorem State.emit_stash (m : OutMsg) : (s.emit m).stash = s.stash := rfl
@[simp] theorem State.emit_npc (m : OutMsg) : (s.emit m).npc = s.npc := rfl
@[simp] theorem State.emit_modules (m : OutMsg) : (s.emit m).modules = s.modules := rfl
@[simp] theorem State.emit_cache (m : OutMsg) : (s.emit m).cache = s.cache := rfl
@[simp] theorem State.emit_nextSerial (m : OutMsg) : (s.emit m).nextSerial = s.nextSerial := rfl
@[simp] theorem State.emit_trc (m : OutMsg) : (s.emit m).trc = s.trc := rfl
@[simp] theorem State.emit_hub (m : OutMsg) : (s.emit m).hub = s.hub := rfl
@[simp] theorem State.emit_pin (m : OutMsg) : (s.emit m).pin = s.pin := rfl
@[simp] theorem State.emit_transit (m : OutMsg) : (s.emit m).transit = s.transit := rfl
@[simp] theorem State.emit_resps (m : OutMsg) : (s.emit m).resps = s.resps := rfl
@[simp] theorem State.emit_outbox (m : OutMsg) : (s.emit m).outbox = m :: s.outbox := rfl
@[simp] theorem State.emit_draws (m : OutMsg) : (s.emit m).draws = s.draws := rfl
@[simp] theorem State.emit_drawsEnt (m : OutMsg) : (s.emit m).drawsEnt = s.drawsEnt := rfl

@[simp] theorem State.drawn_pending (n : Nat) : (s.drawn n).pending = s.pending := rfl
@[simp] theorem State.drawn_fx (n : Nat) : (s.drawn n).fx = s.fx := rfl
@[simp] theorem State.drawn_partMode (n : Nat) : (s.drawn n).partMode = s.partMode := rfl
@[simp] theorem State.drawn_tiles (n : Nat) : (s.drawn n).tiles = s.tiles := rfl
@[simp] theorem State.drawn_tileCtx (n : Nat) : (s.drawn n).tileCtx = s.tileCtx := rfl
@[simp] theorem State.drawn_tileCode (n : Nat) : (s.drawn n).tileCode = s.tileCode := rfl
@[simp] theorem State.drawn_mem (n : Nat) : (s.drawn n).mem = s.mem := rfl
@[simp] theorem State.drawn_memPois (n : Nat) : (s.drawn n).memPois = s.memPois := rfl
@[simp] theorem State.drawn_stk (n : Nat) : (s.drawn n).stk = s.stk := rfl
@[simp] theorem State.drawn_strat (n : Nat) : (s.drawn n).strat = s.strat := rfl
@[simp] theorem State.drawn_upds (n : Nat) : (s.drawn n).upds = s.upds := rfl
@[simp] theorem State.drawn_nextId (n : Nat) : (s.drawn n).nextId = s.nextId := rfl
@[simp] theorem State.drawn_sdma (n : Nat) : (s.drawn n).sdma = s.sdma := rfl
@[simp] theorem State.drawn_sdmaIrq (n : Nat) : (s.drawn n).sdmaIrq = s.sdmaIrq := rfl
@[simp] theorem State.drawn_port (n : Nat) : (s.drawn n).port = s.port := rfl
@[simp] theorem State.drawn_cvy (n : Nat) : (s.drawn n).cvy = s.cvy := rfl
@[simp] theorem State.drawn_stream (n : Nat) : (s.drawn n).stream = s.stream := rfl
@[simp] theorem State.drawn_pci (n : Nat) : (s.drawn n).pci = s.pci := rfl
@[simp] theorem State.drawn_sec (n : Nat) : (s.drawn n).sec = s.sec := rfl
@[simp] theorem State.drawn_lko (n : Nat) : (s.drawn n).lko = s.lko := rfl
@[simp] theorem State.drawn_icu (n : Nat) : (s.drawn n).icu = s.icu := rfl
@[simp] theorem State.drawn_pwr (n : Nat) : (s.drawn n).pwr = s.pwr := rfl
@[simp] theorem State.drawn_stash (n : Nat) : (s.drawn n).stash = s.stash := rfl
@[simp] theorem State.drawn_npc (n : Nat) : (s.drawn n).npc = s.npc := rfl
@[simp] theorem State.drawn_modules (n : Nat) : (s.drawn n).modules = s.modules := rfl
@[simp] theorem State.drawn_cache (n : Nat) : (s.drawn n).cache = s.cache := rfl
@[simp] theorem State.drawn_nextSerial (n : Nat) : (s.drawn n).nextSerial = s.nextSerial := rfl
@[simp] theorem State.drawn_trc (n : Nat) : (s.drawn n).trc = s.trc := rfl
@[simp] theorem State.drawn_hub (n : Nat) : (s.drawn n).hub = s.hub := rfl
@[simp] theorem State.drawn_pin (n : Nat) : (s.drawn n).pin = s.pin := rfl
@[simp] theorem State.drawn_transit (n : Nat) : (s.drawn n).transit = s.transit := rfl
@[simp] theorem State.drawn_resps (n : Nat) : (s.drawn n).resps = s.resps := rfl
@[simp] theorem State.drawn_outbox (n : Nat) : (s.drawn n).outbox = s.outbox := rfl
@[simp] theorem State.drawn_draws (n : Nat) : (s.drawn n).draws = s.draws + n := rfl
@[simp] theorem State.drawn_drawsEnt (n : Nat) : (s.drawn n).drawsEnt = s.drawsEnt := rfl

/-- A tile read back where it was written; only a tile at its reset values needs the table in canonical form. -/
theorem State.tile_setTile {t : Nat} {x : Tile} (h : x ≠ Tile.reset) : (s.setTile t x).tile t = x := by
  have go : ∀ m : Tab Tile, tget Tile.reset (tset Tile.reset m t x) t = x := by
    intro m
    induction m with
    | nil => simp [tset, tget, h]
    | cons y m ih =>
      obtain ⟨j, v⟩ := y
      unfold tset
      split
      · next e => simp [tget, e]
      · next e =>
        split
        · simp [tget]
        · next e2 => simp [tget, e, e2, ih]
  exact go s.tiles

end Sys2Proof.Machine
end

