-- ==== Sys2Proof/Laws/Tile.lean ====
section
/-! SUPPORT. What one cycle of a tile does when nothing in flight falls due in it: the laws that reduce a command of a slot to the issue
of its operation. -/

namespace Sys2Proof.Machine

/-- No task and no retirement of the tile is due in this cycle. -/
def nothingDue (t : Tile) : Prop := (∀ k ∈ t.tasks, t.cyc < k.at_) ∧ (∀ r ∈ t.rets, t.cyc < r.at_)

/-- Nothing that is due later is due now. -/
theorem filter_due_tasks {l : List Task} {n : Nat} (h : ∀ k ∈ l, n < k.at_) :
    l.filter (·.at_ ≤ n) = [] ∧ l.filter (fun k => !(k.at_ ≤ n)) = l := by
  constructor
  · rw [List.filter_eq_nil_iff]
    intro k hk
    have := h k hk
    simp; omega
  · rw [List.filter_eq_self]
    intro k hk
    have := h k hk
    simp; omega

/-- The same for retirements. -/
theorem filter_due_rets {l : List Ret} {n : Nat} (h : ∀ k ∈ l, n < k.at_) :
    l.filter (·.at_ ≤ n) = [] ∧ l.filter (fun k => !(k.at_ ≤ n)) = l := by
  constructor
  · rw [List.filter_eq_nil_iff]
    intro k hk
    have := h k hk
    simp; omega
  · rw [List.filter_eq_self]
    intro k hk
    have := h k hk
    simp; omega

/-- Without a due task the cycle's tasks do nothing. -/
theorem runTasks_none {c : Cyc} (h : ∀ k ∈ c.t.tasks, c.t.cyc < k.at_) : c.runTasks = c := by
  have f := filter_due_tasks h
  unfold Cyc.runTasks
  rw [f.1, f.2]
  rfl

/-- The end of a cycle in which nothing retires. -/
theorem finish_none {c : Cyc} (h : ∀ r ∈ c.t.rets, c.t.cyc < r.at_) (hi : c.incs = []) (hc : c.confl = []) (he : c.evs = []) :
    c.finish = clockTile c.t := by
  have f := filter_due_rets h
  unfold Cyc.finish
  rw [f.1, f.2]
  simp [Cyc.retire, hi, hc, he, recordConfl, firstConfl, recordEvents]

/-- The end of a cycle in which the one retirement that was added last takes effect. -/
theorem finish_one {c : Cyc} {l : List Ret} {r : Ret} (hr : c.t.rets = l ++ [r]) (h : ∀ r ∈ l, c.t.cyc < r.at_) (hd : r.at_ ≤ c.t.cyc)
    (hi : c.incs = []) (hc : c.confl = []) (he : c.evs = []) :
    c.finish = clockTile (applyRet { c.t with rets := l } r.act) := by
  have f := filter_due_rets h
  unfold Cyc.finish
  rw [hr, List.filter_append, List.filter_append, f.1, f.2]
  simp [Cyc.retire, hi, hc, he, recordConfl, firstConfl, recordEvents, hd, insRet]

/-- An ld that is not due finds nothing. -/
theorem checkLd_none {t : Tile} (h : ∀ k ∈ t.tasks, t.cyc < k.at_) : checkLd t = t := by
  have : poisonLd t = false := by
    unfold poisonLd
    rw [List.any_eq_false]
    intro k hk
    have := h k hk
    simp; omega
  unfold checkLd
  simp [this]

/-- A command of a slot on a tile that may issue is the issue of its operations. -/
theorem issueOps_calm {e : TileEnv} {o : BundleOps} {ck : List CheckFail} {t : Tile} (hp : t.power = .noon) (hr : t.seq.st = .running)
    (hn : t.seq.nextAt ≤ t.cyc) (hd : nothingDue t) : issueOps e o ck t = (((e.cyc t).issue o ck).runTasks).finish := by
  have h0 : t.seq.nextAt - t.cyc = 0 := by omega
  have hready : ready t = true := by simp [ready, hp, hr, hn]
  simp [issueOps, hp, hr, toIssue, h0, idleCycles, opCycle, checkLd_none hd.1, hready]

/-- Phase records alone move nothing. -/
theorem hsig_none {l : List TileOut} {t : Nat} (s : State) (h : l.all TileOut.isPhase = true) : l.foldl (fun s o => s.hsigArrives t o) s = s := by
  induction l with
  | nil => rfl
  | cons o l ih =>
    simp only [List.all_cons, Bool.and_eq_true] at h
    cases o with
    | hsig e v => simp [TileOut.isPhase] at h
    | phase n g c => exact ih h.2

/-- A tile's work that sends no hsig changes that tile alone. -/
theorem tileWork_eq {s : State} {t : Nat} {f : TileEnv → Tile → Tile} (hx : f (s.env t) (s.tile t) ≠ Tile.reset)
    (ho : (f (s.env t) (s.tile t)).outs.all TileOut.isPhase = true) : s.tileWork t f = s.setTile t (f (s.env t) (s.tile t)) := by
  unfold State.tileWork State.runTile State.modTile State.drainHsig
  have hb := State.tile_setTile s (t := t) hx
  simp only [hb, hsig_none _ ho, ho, if_true]

end Sys2Proof.Machine
end

