-- ==== Sys2Proof/Laws/Cycle.lean ====
section
/-! SUPPORT. What the parts of an issue do outside checked mode and on free banks: each is the identity, or the plain write it names. -/

namespace Sys2Proof.Machine

/-- What a halt, a jump and a wait leave alone in a tile. -/
def SameWork (z y : Tile) : Prop := z.tasks = y.tasks ∧ z.rets = y.rets ∧ z.cyc = y.cyc ∧ z.power = y.power ∧ z.outs = y.outs

/-- A wait that times out leaves the work in flight. -/
theorem waitTimeout_facts (y : Tile) (w : WaitFor) : SameWork (waitTimeout y w) y := by
  unfold waitTimeout lateHalt haltSeq SameWork
  dsimp only
  by_cases h : y.seq.st = .halted
  · simp [h]
  · simp only [h, if_false]
    cases y.seq.undo <;> simp

/-- What a sequencer operation does to the pc leaves the work in flight. -/
theorem seqOut_apply_work (o : SeqOut) (y : Tile) : SameWork (o.apply y) y := by
  cases o with
  | block w =>
    unfold SeqOut.apply blockOn goOn
    dsimp only
    split
    · exact waitTimeout_facts _ w
    · simp [SameWork]
  | halt a b d => simp [SeqOut.apply, haltAt, haltWith, haltSeq, SameWork]
  | _ => simp [SeqOut.apply, jumpTo, skipTo, goOn, SameWork]

/-- Outside checked mode no order is checked. -/
theorem order_off {c : Cyc} {k : Task} {r : Region} (h : c.t.seq.chk = false) : c.order k r = c := by simp [Cyc.order, h]

/-- Outside checked mode no read of a source is noted. -/
theorem note_off {c : Cyc} {k : Task} {n : Nat} (h : c.t.seq.chk = false) : c.noteSrc k n = c := by
  unfold Cyc.noteSrc; split <;> simp [order_off h]

/-- Outside checked mode no operand of the sequencer is noted. -/
theorem noteSeq_off {c : Cyc} {k : Task} {op : Nat} {f : SeqF} (h : c.t.seq.chk = false) : c.noteSeq k op f = c := by
  unfold Cyc.noteSeq; split <;> simp [note_off h]

/-- Outside checked mode nothing is expected. -/
theorem expect_off {c : Cyc} {k : Task} {r : Region} {a b : Nat} (h : c.t.seq.chk = false) : c.expect k r a b = c := by simp [Cyc.expect, h]

/-- Outside checked mode no event is recorded. -/
theorem event_off {c : Cyc} {a b d : Nat} (h : c.t.seq.chk = false) : c.event a b d = c := by simp [Cyc.event, h]

/-- A fold whose steps change nothing changes nothing. -/
theorem foldl_fix {α β : Type} {f : β → α → β} {b : β} (h : ∀ a, f b a = b) : ∀ l : List α, l.foldl f b = b := by
  intro l; induction l with
  | nil => rfl
  | cons a l ih => rw [List.foldl_cons, h, ih]

/-- Outside checked mode no order is checked, for a list. -/
theorem orders_off {c : Cyc} {k : Task} {l : List Region} (h : c.t.seq.chk = false) : c.orders k l = c :=
  foldl_fix (fun _ => order_off h) l

/-- Outside checked mode nothing is expected, for a list. -/
theorem expects_off {c : Cyc} {k : Task} {l : List Region} {a : Nat} (h : c.t.seq.chk = false) : c.expects k l a = c :=
  foldl_fix (fun _ => expect_off h) l

/-- Outside checked mode a vector instruction expects nothing. -/
theorem vExpects_off {c : Cyc} {k : Task} {v : VInst} (h : c.t.seq.chk = false) : c.vExpects k v = c := by
  unfold Cyc.vExpects; simp [h]

/-- Outside checked mode a refusal of the vector engine sets its status bit and the invalid flag. -/
theorem veFlag_off {c : Cyc} {b : BitVec 5} {k sl pc : Nat} (h : c.t.seq.chk = false) : c.veFlag b k sl pc = ({ c with t := { c.t with ve := { c.t.ve with stat := c.t.ve.stat ||| b } } } : Cyc).flags fInv 1 := by
  unfold Cyc.veFlag
  rw [event_off (by exact h)]

/-- The same for the special-function engine. -/
theorem sfFlag_off {c : Cyc} {b : BitVec 6} {k pc : Nat} (h : c.t.seq.chk = false) : c.sfFlag b k pc = ({ c with t := { c.t with sf := { c.t.sf with stat := c.t.sf.stat ||| b } } } : Cyc).flags fInv 2 := by
  unfold Cyc.sfFlag
  rw [event_off (by exact h)]

/-- The same for a matrix array. -/
theorem mxFlag_off {c : Cyc} {b : BitVec 5} {n sl pc : Nat} (h : c.t.seq.chk = false) : c.mxFlag n b sl pc = ({ c with t := setMarr c.t n { marr c.t n with stat := (marr c.t n).stat ||| b } } : Cyc).flags fInv 0 := by
  unfold Cyc.mxFlag
  rw [event_off (by exact h)]

/-- A value for a scalar register or an event counter is a retirement. -/
theorem seqDst_reg {c : Cyc} {k : Task} {d L : Nat} {v : W64} (h : c.t.seq.chk = false) (hd : dstKind d = .reg) :
    c.seqDst k d L v = c.ret k (c.t.cyc + L - 1) (.sreg d v) := by
  unfold Cyc.seqDst
  rw [hd]
  simp [Cyc.expect, h]

/-- A value for a loop counter sets lwr instead (R302). -/
theorem seqDst_loop {c : Cyc} {k : Task} {d L : Nat} {v : W64} (h : c.t.seq.chk = false) (hd : dstKind d = .loopCounter) :
    c.seqDst k d L v = { c with t := hazSet c.t 4#32 } := by
  unfold Cyc.seqDst
  rw [hd]
  simp only [hazSet, Cyc.event, h]
  split <;> simp

/-- An operand code that names nothing is reserved (R302). -/
theorem readSrc_none {c : Nat} {imm : BitVec 24} {x : Tile} (h : srcOperand x c imm = none) : readSrc x c imm = .error .reserved := by
  simp [readSrc, h]

/-- A NOP of the sequencer slot does nothing. -/
theorem seqNop {c : Cyc} {sq pc : Nat} (h : c.t.seq.chk = false) : c.seqSlot sq pc 0 ⟨0, 0, 0, 0, 0⟩ = (c, .go) := by
  unfold Cyc.seqSlot
  simp [noteSeq_off h]

/-- Free banks are granted without a conflict. -/
theorem grant_free {slot pc : Nat} : ∀ {l : List Nat} {c : Cyc}, (∀ b ∈ l, ∀ w ∈ c.busy, w.1 ≠ b) → l.Nodup →
    ∃ bz, c.grant slot pc l = ({ c with busy := bz }, []) := by
  intro l
  induction l with
  | nil => intro c _ _; exact ⟨c.busy, rfl⟩
  | cons b bs ih =>
    intro c h hn
    have : c.busy.find? (fun w => decide (w.1 = b)) = none := by
      rw [List.find?_eq_none]; intro w hw; simpa using h b (by simp) w hw
    unfold Cyc.grant
    rw [this]
    obtain ⟨bz, e⟩ := ih (c := { c with busy := (b, slot) :: c.busy }) (by
      intro b' hb' w hw
      simp only [List.mem_cons] at hw
      rcases hw with rfl | hw
      · intro e; subst e; exact (List.nodup_cons.1 hn).1 hb'
      · exact h b' (by simp [hb']) w hw) (List.nodup_cons.1 hn).2
    exact ⟨bz, e⟩

/-- A list without its repeats has no new member. -/
theorem mem_of_eraseDups : ∀ (n : Nat) (l : List Nat), l.length ≤ n → ∀ x, x ∈ l.eraseDups → x ∈ l := by
  intro n
  induction n with
  | zero => intro l h; cases l with | nil => simp | cons a l => simp at h
  | succ n ih =>
    intro l h x hx
    cases l with
    | nil => simp at hx
    | cons a l =>
      rw [List.eraseDups_cons] at hx
      simp only [List.mem_cons] at hx ⊢
      rcases hx with hx | hx
      · exact .inl hx
      · have := ih _ (by have := List.length_filter_le (fun b => !b == a) l; simp at h; omega) x hx
        exact .inr (List.mem_filter.1 this).1

/-- A list without its repeats has none. -/
theorem eraseDups_nodup : ∀ (n : Nat) (l : List Nat), l.length ≤ n → l.eraseDups.Nodup := by
  intro n
  induction n with
  | zero => intro l h; cases l with | nil => simp | cons a l => simp at h
  | succ n ih =>
    intro l h
    cases l with
    | nil => simp
    | cons a l =>
      rw [List.eraseDups_cons, List.nodup_cons]
      have hl : (l.filter (fun b => !b == a)).length ≤ n := by have := List.length_filter_le (fun b => !b == a) l; simp at h; omega
      refine ⟨fun hm => ?_, ih _ hl⟩
      have := mem_of_eraseDups _ _ (Nat.le_refl _) a hm
      simp at this

/-- No bank occurs twice in the banks of a range. -/
theorem banks_nodup (a n : Nat) : (banksOf a n).Nodup := by
  unfold banksOf; split
  · simp
  · exact eraseDups_nodup _ _ (Nat.le_refl _)

/-- The bytes of a range, one by one. -/
theorem spRead_map (t : Tile) (a n : Nat) : (rangeFrom a n).map (spGet t) = spRead t a n := by
  induction n generalizing a with
  | zero => rfl
  | succ n ih =>
    rw [spRead, ← ih]
    simp [rangeFrom, List.range_succ_eq_map, Function.comp_def, Nat.add_assoc, Nat.add_comm 1]

/-- A read in a cycle with no bank taken gets the bytes. -/
theorem read_free {c : Cyc} {k : Task} {a n : Nat} (h : c.t.seq.chk = false) (hb : c.busy = []) (hn : n ≠ 0) :
    ∃ bz, c.read k a n = ({ c with busy := bz }, spRead c.t a n) := by
  unfold Cyc.read
  rw [if_neg hn, order_off h]
  obtain ⟨bz, e⟩ := grant_free (slot := k.slot) (pc := k.pc) (l := banksOf a n) (c := c) (by simp [hb]) (banks_nodup a n)
  refine ⟨bz, ?_⟩
  simp only [e]
  simp [← spRead_map]

/-- A write in a cycle with no bank taken writes the bytes. -/
theorem write_free {c : Cyc} {k : Task} {a : Nat} {bs : List PByte} (hb : c.busy = []) :
    ∃ bz, c.write k a bs = { c with busy := bz, t := spWrite c.t a bs } := by
  unfold Cyc.write
  split
  · next h => exact ⟨c.busy, by simp [h, spWrite]⟩
  · obtain ⟨bz, e⟩ := grant_free (slot := k.slot) (pc := k.pc) (l := banksOf a bs.length) (c := c) (by simp [hb]) (banks_nodup a bs.length)
    exact ⟨bz, by simp only [e]; simp [keptRuns]⟩

end Sys2Proof.Machine
end

