-- ==== Sys2Proof/Laws/Regs.lean ====
section
/-! SUPPORT. What an access of an agent to one register does: the laws that reduce a command that writes a register to the write of its
block. -/

namespace Sys2Proof.Machine

/-! ### Bytes of a value -/

/-- The bytes of a number carry it, modulo their width. -/
theorem leNat_leBytes (n v : Nat) : leNat (leBytes n v) = v % 256 ^ n := by
  induction n generalizing v with
  | zero => simp [leBytes, leNat, Nat.mod_one]
  | succ n ih =>
    simp only [leBytes, leNat, ih, BitVec.toNat_ofNat]
    rw [show 256 ^ (n + 1) = 256 * 256 ^ n by ring, Nat.mod_mul]

/-- A list of bytes without poison carries the number of its bytes. -/
theorem leNatP_clean (l : List Byte) : leNatP (clean l) = leNat l := by
  simp [leNatP, clean, List.map_map, Function.comp_def]

/-- The number of bytes. -/
theorem leBytes_length (n v : Nat) : (leBytes n v).length = n := by
  induction n generalizing v with
  | zero => rfl
  | succ n ih => simp [leBytes, ih]

/-- The four bytes of a 32-bit value, as a register's write sees them. -/
theorem bytes4_value (v : W32) : BitVec.ofNat 64 (leNatP (clean (leBytes 4 v.toNat))) = v.zeroExtend 64 := by
  rw [leNatP_clean, leNat_leBytes]
  apply BitVec.eq_of_toNat_eq
  have := v.isLt
  simp; omega

/-- The eight bytes of a 64-bit value. -/
theorem bytes8_value (v : W64) : BitVec.ofNat 64 (leNatP (clean (leBytes 8 v.toNat))) = v := by
  rw [leNatP_clean, leNat_leBytes]
  apply BitVec.eq_of_toNat_eq
  have := v.isLt
  simpa using this

/-! ### Tile windows -/

/-- A 4-byte write of a register of a tile window by an agent whose request gets there is the write of that register. -/
theorem ctlWrite_eq {s : State} {a : Agent} {t off : Nat} {v : W32} {r : TReg} (h0 : a ≠ .bar0) (h2 : a ≠ .bar2)
    (hr : s.routeRuns a t = true) (hg : (s.tagOf a).fw = true ∨ (s.tagOf a).part = partOfTile s.partMode t)
    (ho : spSize ≤ off) (ha : off % 4 = 0) (hb : (off - spSize) / 0x10000 < 6)
    (hp : (s.tile t).power = .noon ∨ (off - spSize) / 0x10000 = 0) (ht : tileReg off = some r) :
    s.ctlWrite a t off v =
      ((s.tregWriteAt (s.tagOf a) t r (partAt r.wide off) (v.zeroExtend 64)).1.emit
        (.regValue (s.tregWriteAt (s.tagOf a) t r (partAt r.wide off) (v.zeroExtend 64)).2 0)) := by
  have g : (!(s.tagOf a).fw && (s.tagOf a).part ≠ partOfTile s.partMode t) = false := by
    rcases hg with h | h <;> simp [h]
  have e : s.tileAccess a t off (.write (clean (leBytes 4 v.toNat))) =
      ⟨(s.tregWriteAt (s.tagOf a) t r (partAt r.wide off) (v.zeroExtend 64)).1,
        (s.tregWriteAt (s.tagOf a) t r (partAt r.wide off) (v.zeroExtend 64)).2, []⟩ := by
    have hl : (clean (leBytes 4 v.toNat)).length = 4 := by simp [clean, leBytes_length]
    unfold State.tileAccess
    simp only [hr, Bool.not_true, Bool.false_eq_true, if_false, g, hl]
    have h1 : ¬ off < spSize := by omega
    have h2 : ¬ (6 ≤ (off - spSize) / 0x10000 ∨ spSize + ((off - spSize) / 0x10000 + 1) * 0x10000 < off + 4) := by
      simp only [spSize] at *; omega
    have h3 : ((s.tile t).power ≠ .noon && decide ((off - spSize) / 0x10000 ≠ 0)) = false := by
      rcases hp with h | h <;> simp [h]
    simp only [h1, if_false]
    rw [if_neg h2, if_neg (by rw [h3]; simp), bytes4_value]
    have : s.tileRegWrite (s.tagOf a) t off 4 (v.zeroExtend 64) = s.tregWriteAt (s.tagOf a) t r (partAt r.wide off) (v.zeroExtend 64) := by
      unfold State.tileRegWrite
      simp [ha, ht]
    rw [this]
  unfold State.ctlWrite
  split
  · exact absurd rfl h0
  · exact absurd rfl h2
  · rw [e]

/-! ### Hub registers -/

/-- Where a 4-byte access at a hub offset lands. -/
theorem hubPlace_four {s : State} {a : Agent} {off o : Nat} {b : HubBlock} {w : Bool} (hb : hubBlock off = some (b, o)) (h4 : off % 4 = 0)
    (hr : (blockRead s a b o).map (·.1) = some w) : s.hubPlace a off 4 = some (b, [(o, if w then .lo else .all)]) := by
  unfold State.hubPlace
  rw [hb]
  simp only [h4, hr]
  cases w <;> simp

/-- Where an 8-byte access at a hub offset lands. -/
theorem hubPlace_eight {s : State} {a : Agent} {off o : Nat} {b : HubBlock} (hb : hubBlock off = some (b, o)) (h8 : off % 8 = 0)
    (hr : (blockRead s a b o).map (·.1) = some true) : s.hubPlace a off 8 = some (b, [(o, .all)]) := by
  unfold State.hubPlace
  rw [hb]
  simp [h8, hr]

/-- A register write answers OK or STATE. -/
theorem blockWrite_status (s : State) (a : Agent) (b : HubBlock) (o : Nat) (p : Part) (v : W64) :
    (blockWrite s a b o p v).2 = 0 ∨ (blockWrite s a b o p v).2 = 4 := by
  cases b <;> unfold blockWrite <;> dsimp only <;> first | exact .inl rfl | skip
  · split
    · exact .inl rfl
    · split <;> exact .inl rfl
  · unfold sdmaWrite
    split
    · exact .inl rfl
    · dsimp only
      split
      · exact .inl rfl
      · split
        · split
          · exact .inl rfl
          · exact .inr rfl
        · split <;> exact .inl rfl
  · unfold stratWrite
    dsimp only
    split
    · split
      · split
        · exact .inr rfl
        · exact .inl rfl
      · exact .inl rfl
    · exact .inl rfl
    · split
      · exact .inl rfl
      · split <;> exact .inl rfl

section
variable (s : State) (a : Agent) (o k : Nat) (p : Part) (v : W64)
/-- A write of a HUB_ register. -/
theorem blockWrite_hub : blockWrite s a .hub o p v = (hubWrite0 s a o v, 0) := rfl
/-- A write of a stash register. -/
theorem blockWrite_stash : blockWrite s a .stash o p v = (stashWrite s (s.tagOf a) o p v, 0) := rfl
/-- A write of a translator register. -/
theorem blockWrite_npc : blockWrite s a .npc o p v = (npcWrite s o p v, 0) := rfl
/-- A write of a system DMA register. -/
theorem blockWrite_sdma : blockWrite s a .sdma o p v = sdmaWrite s (s.tagOf a) o p v := rfl
/-- A write of an STK_ register. -/
theorem blockWrite_stk : blockWrite s a (.stk k) o p v = (stkWrite s a k o p v, 0) := rfl
/-- A write of a STRAT_ register. -/
theorem blockWrite_strat : blockWrite s a (.strat k) o p v = stratWrite s (s.tagOf a) k o p v := rfl
/-- A write of a CVY_ register. -/
theorem blockWrite_cvy : blockWrite s a .cvy o p v = (cvyWrite s (s.tagOf a) o p v, 0) := rfl
/-- A write of a STREAM_ register. -/
theorem blockWrite_stream : blockWrite s a .stream o p v = (streamWrite s (s.tagOf a) o p v, 0) := rfl
/-- A write of a SEC_ register. -/
theorem blockWrite_sec : blockWrite s a .sec o p v = (secWrite s o p v, 0) := rfl
/-- A write of an ICU_ register. -/
theorem blockWrite_icu : blockWrite s a .icu o p v = (icuWrite s o v, 0) := rfl
/-- A write of a CLK_ register. -/
theorem blockWrite_clk : blockWrite s a .clk o p v = (clkWrite s o v, 0) := rfl
/-- A write of a PWR_ register. -/
theorem blockWrite_pwr : blockWrite s a .pwr o p v = (pwrWrite s (a = .lookout) (a = .sc 0) o v, 0) := rfl
/-- A write of HUB_TRCCTL. -/
theorem blockWrite_trcCtl : blockWrite s a .trc 0 p v = (s.trcCtl (v.truncate 32), 0) := rfl
/-- A write of HUB_PHCTLn. -/
theorem blockWrite_phase (n : Fin 8) : blockWrite s a .trc (0x100 + 0x10 * n.val) p v = (s.hubPhase n (v.truncate 32), 0) := by
  fin_cases n <;> rfl
end

/-- An agent that may write the register of block `b` at hub offset `off` writes it. -/
theorem putReg_hub {s : State} {a : Agent} {off o : Nat} {b : HubBlock} {p : Part} {w8 : Bool} {v : W64} (hlt : off < 2 ^ 28)
    (hp : s.hubPlace a off (if w8 then 8 else 4) = some (b, [(o, p)])) (hm : mayReach a b o = true) (hg : s.gated b o = false)
    (h2 : a ≠ .bar2) (h0 : a = .bar0 → off < 0x4000000 ∧ s.sec.conf = false) :
    s.putReg a (hubBase + off) w8 v =
      (⟨(blockWrite s a b o p (BitVec.ofNat 64 (leNatP (clean (leBytes (if w8 then 8 else 4) v.toNat))))).1,
        (blockWrite s a b o p (BitVec.ofNat 64 (leNatP (clean (leBytes (if w8 then 8 else 4) v.toNat))))).2, []⟩ : Ans).tell a (.write []) := by
  have hl : opLen (.write (clean (leBytes (if w8 then 8 else 4) v.toNat))) = if w8 then 8 else 4 := by
    simp [opLen, clean, leBytes_length]
  have e : s.hubAccess a off (.write (clean (leBytes (if w8 then 8 else 4) v.toNat))) =
      ⟨(blockWrite s a b o p (BitVec.ofNat 64 (leNatP (clean (leBytes (if w8 then 8 else 4) v.toNat))))).1,
        (blockWrite s a b o p (BitVec.ofNat 64 (leNatP (clean (leBytes (if w8 then 8 else 4) v.toNat))))).2, []⟩ := by
    unfold State.hubAccess
    rw [hl]
    simp only [hp, List.all_cons, List.all_nil, hm, List.any_cons, List.any_nil, hg]
    simp only [State.hubWriteParts, Bool.and_true, Bool.not_true, Bool.or_false, Bool.false_eq_true, if_false]
    congr 1
    split <;> simp_all
  have t : ∀ (r : Ans) (d : List PByte), r.tell a (.write d) = r.tell a (.write []) := by
    intro r d; cases a <;> rfl
  unfold State.putReg
  rw [t]
  congr 1
  unfold State.regAccess
  rw [if_neg (by rintro (h | ⟨_, h⟩); exact h2 h; omega)]
  by_cases hb0 : a = .bar0
  · subst hb0
    rw [if_pos rfl]
    unfold State.bar0Reg
    simp only [show hubBase + off - hubBase = off by omega, (h0 rfl).1, (h0 rfl).2, decide_true, Bool.not_false, Bool.true_or, Bool.and_self, if_true, e]
    rw [if_neg (by have := blockWrite_status s .bar0 b o p (BitVec.ofNat 64 (leNatP (clean (leBytes (if w8 then 8 else 4) v.toNat)))); omega)]
  · rw [if_neg hb0, if_neg (by unfold winBase hubBase; omega), if_pos (by unfold hubBase; omega), show hubBase + off - hubBase = off by omega, e]

/-- A 4-byte write of a 32-bit register. -/
theorem put32_eq {s : State} {a : Agent} {off o : Nat} {b : HubBlock} {v : W32} (hlt : off < 2 ^ 28) (hb : hubBlock off = some (b, o))
    (h4 : off % 4 = 0) (hr : (blockRead s a b o).map (·.1) = some false) (hm : mayReach a b o = true) (hg : s.gated b o = false)
    (h2 : a ≠ .bar2) (h0 : a = .bar0 → off < 0x4000000 ∧ s.sec.conf = false) :
    s.put32 a off v = (⟨(blockWrite s a b o .all (v.zeroExtend 64)).1, (blockWrite s a b o .all (v.zeroExtend 64)).2, []⟩ : Ans).tell a (.write []) := by
  unfold State.put32
  rw [putReg_hub (w8 := false) hlt (hubPlace_four hb h4 hr) hm hg h2 h0]
  have : BitVec.ofNat 64 (leNatP (clean (leBytes (if false = true then 8 else 4) (v.zeroExtend 64).toNat))) = v.zeroExtend 64 := by
    have h : (v.zeroExtend 64 : W64).toNat = v.toNat := by
      have := v.isLt
      simp; omega
    rw [if_neg (by decide), h, bytes4_value]
  rw [this]
  rfl

/-- An 8-byte write of a 64-bit register. -/
theorem put64_eq {s : State} {a : Agent} {off o : Nat} {b : HubBlock} {v : W64} (hlt : off < 2 ^ 28) (hb : hubBlock off = some (b, o))
    (h8 : off % 8 = 0) (hr : (blockRead s a b o).map (·.1) = some true) (hm : mayReach a b o = true) (hg : s.gated b o = false)
    (h2 : a ≠ .bar2) (h0 : a = .bar0 → off < 0x4000000 ∧ s.sec.conf = false) :
    s.put64 a off v = (⟨(blockWrite s a b o .all v).1, (blockWrite s a b o .all v).2, []⟩ : Ans).tell a (.write []) := by
  unfold State.put64
  rw [putReg_hub (w8 := true) hlt (hubPlace_eight hb h8 hr) hm hg h2 h0, if_pos rfl, bytes8_value]

/-- Element n of an array of registers, at its start. -/
theorem arrIx_at {base stride count n : Nat} (hs : 0 < stride) (hn : n < count) : arrIx (base + stride * n) base stride count = some (n, 0) := by
  have : stride * n < stride * count := Nat.mul_lt_mul_of_pos_left hn hs
  simp [arrIx, this, Nat.mul_div_cancel_left _ hs]

end Sys2Proof.Machine
end

