-- ==== Sys2Proof/Laws/Hub.lean ====
section
/-! SUPPORT. What an access to a register of the device reaches and answers, who hears of it, and the delivery of an EVT message. -/

namespace Sys2Proof.Machine

/-- What a refused access gives: zeros for a read (R102, R547). -/
def zerosOf (op : ReqOp) : List PByte := match op with | .read n => List.replicate n ((0 : Byte), false) | .write _ => []

/-- An access to hub registers: the place, then the right, then the clock, then the effect. -/
theorem hub_access {s : State} {a : Agent} {o : Nat} {op : ReqOp} :
    (s.hubPlace a o (opLen op) = none → s.hubAccess a o op = ⟨s, 3, zerosOf op⟩) ∧
    (∀ b l, s.hubPlace a o (opLen op) = some (b, l) →
          (l.all (fun p => mayReach a b p.1) = false → s.hubAccess a o op = ⟨s, 1, zerosOf op⟩) ∧
          (l.all (fun p => mayReach a b p.1) = true → l.any (fun p => s.gated b p.1) = true → s.hubAccess a o op = ⟨s, 2, zerosOf op⟩) ∧
          (l.all (fun p => mayReach a b p.1) = true → l.any (fun p => s.gated b p.1) = false → s.hubAccess a o op =
            match op with
            | .read k => ⟨(s.hubReadParts a b l 0).2, 0, clean (leBytes k (s.hubReadParts a b l 0).1.toNat)⟩
            | .write d => ⟨(s.hubWriteParts a b (BitVec.ofNat 64 (leNatP d)) l).1, (s.hubWriteParts a b (BitVec.ofNat 64 (leNatP d)) l).2, []⟩)) := by
  unfold State.hubAccess
  dsimp only
  refine ⟨fun h => ?_, fun b l h => ⟨fun h1 => ?_, fun h1 h2 => ?_, fun h1 h2 => ?_⟩⟩
  · rw [h]; cases op <;> rfl
  · rw [h]; dsimp only; rw [if_pos (by rw [h1]; rfl)]; cases op <;> rfl
  · rw [h]; dsimp only; rw [if_neg (by rw [h1]; decide), if_pos h2]; cases op <;> rfl
  · rw [h]; dsimp only; rw [if_neg (by rw [h1]; decide), if_neg (by rw [h2]; decide)] <;> (cases op <;> rfl)

/-- What a device address reaches: a tile window, a hub register, or nothing. -/
theorem reg_access {s : State} {a : Agent} (h0 : a ≠ .bar0) (h2 : a ≠ .bar2) (x : Nat) (op : ReqOp) :
    (winBase ≤ x ∧ x < winBase + 2 ^ 32 → s.regAccess a x op = s.tileAccess a ((x - winBase) / 2 ^ 24) ((x - winBase) % 2 ^ 24) op) ∧
    (¬ (winBase ≤ x ∧ x < winBase + 2 ^ 32) → ¬ (hubBase ≤ x ∧ x < hubBase + 2 ^ 28) → s.regAccess a x op = ⟨s, 3, zerosOf op⟩) ∧
    (hubBase ≤ x ∧ x < hubBase + 2 ^ 28 → s.regAccess a x op = s.hubAccess a (x - hubBase) op) := by
  unfold State.regAccess
  dsimp only
  rw [if_neg (by simp [h0, h2]), if_neg h0]
  refine ⟨fun h => if_pos h, fun h h1 => ?_, fun h => ?_⟩
  · rw [if_neg h, if_neg h1]; cases op <;> rfl
  · rw [if_neg (fun q => by have := h.1; have := q.2; unfold winBase hubBase at *; omega), if_pos h]

/-- An agent that is no BAR hears status and value. -/
theorem tell_told {a : Agent} (h0 : a ≠ .bar0) (h2 : a ≠ .bar2) (x : Ans) (op : ReqOp) :
    (Host.Outcome.next (x.tell a op) : Host.Outcome State Fault Refusal) = Host.Outcome.next (x.s.emit (.regValue x.status (BitVec.ofNat 64 (leNatP x.data)))) := by
  unfold Ans.tell
  cases a <;> first | rfl | exact absurd rfl h0 | exact absurd rfl h2

/-- When an EVT message may arrive. -/
theorem due_iff (s : State) (m : EvtMsg) : s.evtDue m = true ↔ (match m.src with
      | .tile t => (match (s.tile t.val).evOut.find? (fun z => z.1.tgt = m.tgt) with
        | some z => z.1 = m ∧ ¬ (z.2 = true ∧ (s.tile t.val).writesOut = true)
        | none => False)
      | _ => True) := by
    unfold State.evtDue
    cases m.src with
    | tile t =>
      dsimp only
      cases h : (s.tile t.val).evOut.find? (fun z => z.1.tgt = m.tgt) with
      | none => simp
      | some y => cases hw : (s.tile t.val).writesOut <;> cases hy : y.2 <;> simp [hw, hy]
    | _ => simp

/-- What an EVT message does that has left its source. -/
theorem deliver_eq (s : State) (m : EvtMsg) (u : State) (hu : u = s.evtLeft m) :
    (s.routeRuns m.src m.tgt.val = false → u.deliverEvt m = u) ∧
    (s.routeRuns m.src m.tgt.val = true → ¬ ((s.tagOf m.src).fw = true ∨ (s.tagOf m.src).part = partOfTile s.partMode m.tgt.val) →
      u.deliverEvt m = u.setTile m.tgt.val { u.tile m.tgt.val with seq := { (u.tile m.tgt.val).seq with xpartEvt := satInc (u.tile m.tgt.val).seq.xpartEvt } }) ∧
    (s.routeRuns m.src m.tgt.val = true → ((s.tagOf m.src).fw = true ∨ (s.tagOf m.src).part = partOfTile s.partMode m.tgt.val) →
      u.deliverEvt m = u.setTile m.tgt.val (evInc (u.tile m.tgt.val) m.ev.val (m.inc.zeroExtend 32))) := by
  have e1 : u.tagOf m.src = s.tagOf m.src := by
    rw [hu]; unfold State.evtLeft; cases h : m.src <;> rfl
  have e2 : u.routeRuns m.src m.tgt.val = s.routeRuns m.src m.tgt.val := by
    rw [hu]; unfold State.evtLeft; cases h : m.src <;> rfl
  have e3 : u.partMode = s.partMode := by
    rw [hu]; unfold State.evtLeft; cases h : m.src <;> rfl
  unfold State.deliverEvt
  dsimp only
  rw [e1, e2, e3]
  refine ⟨fun h => if_pos (by rw [h]; rfl), fun h h1 => (if_neg (by rw [h]; decide)).trans ((if_pos ?_).trans rfl),
    fun h h1 => (if_neg (by rw [h]; decide)).trans ((if_neg ?_).trans rfl)⟩
  · rw [not_or] at h1
    simp [h1.1, h1.2]
  · simp only [Bool.and_eq_true, decide_eq_true_eq]
    rintro ⟨h2, h3⟩
    rcases h1 with h1 | h1
    · rw [h1] at h2; exact absurd h2 (by decide)
    · exact h3 h1

/-- A write of HUB_SCWDn.release frees a held core other than SC0, from another service core (R530). -/
theorem release_eq (t : State) (a : Agent) (n : Fin 8) : t.releaseCore a n.val =
    if n.val ≠ 0 ∧ (∃ m : Fin 8, a = .sc m ∧ m ≠ n) ∧ t.core n.val = .held then t.setCore n.val .run else t := by
  unfold State.releaseCore
  dsimp only
  congr 1
  rw [Bool.and_eq_true, Bool.and_eq_true, decide_eq_true_eq, decide_eq_true_eq]
  refine propext ⟨?_, ?_⟩
  · rintro ⟨⟨h1, h2⟩, h3⟩
    refine ⟨h1, ?_, h3⟩
    cases a <;> first | exact absurd h2 Bool.false_ne_true | skip
    rename_i m
    exact ⟨m, rfl, fun e => (of_decide_eq_true h2) (congrArg Fin.val e)⟩
  · rintro ⟨h1, ⟨m, rfl, h2⟩, h3⟩
    exact ⟨⟨h1, decide_eq_true (fun e => h2 (Fin.ext e))⟩, h3⟩

/-- What a watchdog reset records (R491, R504). -/
theorem wdog_eq (p : PwrBlk) (d : Nat) : p.wdog d = { p with
      evt := p.evt ||| 4#6, wdogCount := satInc p.wdogCount, wdogOver := p.wdogOver || p.wdogValid, wdogValid := true
      wdogDomain := if p.wdogValid then p.wdogDomain else BitVec.ofNat 8 d } := by
  unfold PwrBlk.wdog PwrBlk.event
  dsimp only
  cases hv : p.wdogValid
  · simp
  · simp [hv]

/-- What a sample of package power does (R500, R501). -/
theorem sample_eq (p : PwrBlk) (w : BitVec 12) : p.sample w =
    let taken : PwrBlk := { p with power := w, samples := (w.toNat :: p.samples).take 25 }
    let sunk : PwrBlk := if p.pexc < w.toNat then { taken with evt := p.evt ||| 0x10#6, swallow := if p.swallow < 8 then 8 else p.swallow } else taken
    if p.psus < w.toNat then { sunk.event 3 with excRun := true } else { sunk with excRun := false } := by
  let taken : PwrBlk := { p with power := w, samples := (w.toNat :: p.samples).take 25 }
  let sunk : PwrBlk := if p.pexc < w.toNat then { taken with evt := p.evt ||| 0x10#6, swallow := if p.swallow < 8 then 8 else p.swallow } else taken
  have e : sunk.psus = p.psus := by
    by_cases h : p.pexc < w.toNat
    · simp only [sunk]; rw [if_pos h]; rfl
    · simp only [sunk]; rw [if_neg h]; rfl
  show (if sunk.psus < w.toNat then { sunk.event 3 with excRun := true } else { sunk with excRun := false }) = (if p.psus < w.toNat then { sunk.event 3 with excRun := true } else { sunk with excRun := false })
  rw [e]

end Sys2Proof.Machine
end

