-- ==== Sys2Proof/Laws/Tab.lean ====
section
/-! SUPPORT. The laws of sparse tables: read after write, and that every write keeps the canonical form (log entry 3). -/

namespace Sys2Proof.Machine

variable {α : Type} [DecidableEq α] {d : α}

/-- A canonical table from `lo` on is one from any lower number on. -/
theorem Tab.wfFrom_mono {m : Tab α} {lo lo' : Nat} (h : lo' ≤ lo) (w : Tab.wfFrom d lo m = true) : Tab.wfFrom d lo' m = true := by
  cases m with
  | nil => rfl
  | cons x m =>
    simp only [Tab.wfFrom, Bool.and_eq_true, decide_eq_true_eq] at w ⊢
    exact ⟨⟨Nat.le_trans h w.1.1, w.1.2⟩, w.2⟩

/-- A number below every key reads as the default. -/
theorem tget_below {m : Tab α} {lo k : Nat} (w : Tab.wfFrom d lo m = true) (h : k < lo) : tget d m k = d := by
  cases m with
  | nil => rfl
  | cons x m =>
    simp only [Tab.wfFrom, Bool.and_eq_true, decide_eq_true_eq] at w
    have h1 : ¬ k = x.1 := by omega
    have h2 : k < x.1 := by omega
    simp [tget, h1, h2]

/-- A write keeps the canonical form. -/
theorem wfFrom_tset {m : Tab α} {lo k : Nat} {v : α} (w : Tab.wfFrom d lo m = true) (h : lo ≤ k) :
    Tab.wfFrom d lo (tset d m k v) = true := by
  induction m generalizing lo with
  | nil =>
    unfold tset
    split
    · rfl
    · next hv => simp [Tab.wfFrom, h, hv]
  | cons x m ih =>
    obtain ⟨j, u⟩ := x
    simp only [Tab.wfFrom, Bool.and_eq_true, decide_eq_true_eq] at w
    unfold tset
    split
    · next hk =>
      subst hk
      split
      · exact Tab.wfFrom_mono (by omega) w.2
      · next hv => simp [Tab.wfFrom, w.1.1, hv, w.2]
    · next hk =>
      split
      · next hlt =>
        split
        · simp [Tab.wfFrom, w.1.1, w.1.2, w.2]
        · next hv => simp [Tab.wfFrom, h, hv, w.1.2, w.2]; omega
      · next hlt =>
        simp only [Tab.wfFrom, Bool.and_eq_true, decide_eq_true_eq]
        exact ⟨w.1, ih w.2 (by omega)⟩

/-- A write keeps a canonical table canonical. -/
theorem wf_tset {m : Tab α} {k : Nat} {v : α} (w : Tab.wf d m = true) : Tab.wf d (tset d m k v) = true :=
  wfFrom_tset w (Nat.zero_le k)

/-- Writes of consecutive entries keep a canonical table canonical. -/
theorem wf_tsetList {m : Tab α} {k : Nat} {vs : List α} (w : Tab.wf d m = true) : Tab.wf d (tsetList d m k vs) = true := by
  induction vs generalizing m k with
  | nil => exact w
  | cons v vs ih => exact ih (wf_tset w)

/-- What was written is read at its number. -/
theorem tget_tset_same {m : Tab α} {k : Nat} {v : α} (w : Tab.wf d m = true) : tget d (tset d m k v) k = v := by
  have go : ∀ (m : Tab α) (lo : Nat), Tab.wfFrom d lo m = true → tget d (tset d m k v) k = v := by
    intro m
    induction m with
    | nil =>
      intro lo _
      unfold tset
      split
      · next hv => simp [tget, hv]
      · simp [tget]
    | cons x m ih =>
      obtain ⟨j, u⟩ := x
      intro lo w
      simp only [Tab.wfFrom, Bool.and_eq_true, decide_eq_true_eq] at w
      unfold tset
      split
      · next hk =>
        subst hk
        split
        · next hv => rw [tget_below w.2 (Nat.lt_succ_self _), hv]
        · simp [tget]
      · next hk =>
        split
        · next hlt =>
          split
          · next hv => simp [tget, hk, hlt, hv]
          · simp [tget]
        · next hlt =>
          simp only [tget, if_neg hk, if_neg hlt]
          exact ih _ w.2
  exact go m 0 w

/-- A write leaves every other number alone. -/
theorem tget_tset_ne {m : Tab α} {k i : Nat} {v : α} (h : i ≠ k) (w : Tab.wf d m = true) : tget d (tset d m k v) i = tget d m i := by
  have go : ∀ (m : Tab α) (lo : Nat), Tab.wfFrom d lo m = true → tget d (tset d m k v) i = tget d m i := by
    intro m
    induction m with
    | nil =>
      intro lo _
      unfold tset
      split
      · rfl
      · simp [tget, h]
    | cons x m ih =>
      obtain ⟨j, u⟩ := x
      intro lo w
      simp only [Tab.wfFrom, Bool.and_eq_true, decide_eq_true_eq] at w
      unfold tset
      split
      · next hk =>
        subst hk
        split
        · rcases Nat.lt_or_ge i k with hi | hi
          · rw [tget_below w.2 (by omega)]
            simp [tget, h, hi]
          · have h2 : ¬ i < k := by omega
            simp [tget, h, h2]
        · simp [tget, h]
      · next hk =>
        split
        · next hlt =>
          split
          · rfl
          · rcases Nat.lt_or_ge i k with hi | hi
            · have h1 : ¬ i = j := by omega
              have h2 : i < j := by omega
              simp [tget, h, hi, h1, h2]
            · have h2 : ¬ i < k := by omega
              simp [tget, h, h2]
        · next hlt =>
          by_cases hij : i = j
          · simp [tget, hij]
          · by_cases hl : i < j
            · simp [tget, hij, hl]
            · simp only [tget, if_neg hij, if_neg hl]
              exact ih _ w.2
  exact go m 0 w

/-- Writes of consecutive entries leave the numbers outside them alone. -/
theorem tget_tsetList_out {m : Tab α} {k i : Nat} {vs : List α} (h : i < k ∨ k + vs.length ≤ i) (w : Tab.wf d m = true) :
    tget d (tsetList d m k vs) i = tget d m i := by
  induction vs generalizing m k with
  | nil => rfl
  | cons v vs ih =>
    have hne : i ≠ k := by simp only [List.length_cons] at h; omega
    have h' : i < k + 1 ∨ k + 1 + vs.length ≤ i := by simp only [List.length_cons] at h; omega
    exact (ih h' (wf_tset w)).trans (tget_tset_ne hne w)

/-- The memory keeps its canonical form under a write of stack memory. -/
theorem memory_wf_write {s : State} {a : Nat} {bs : List PByte} (w : Memory.wf s.mem = true) : Memory.wf (s.memWrite a bs).mem = true := by
  unfold State.memWrite
  split
  · exact w
  · exact wf_tsetList w

/-- A write of stack memory leaves the bytes outside it alone. -/
theorem memory_out {s : State} {a i : Nat} {bs : List PByte} (h : i < a ∨ a + bs.length ≤ i) (w : Memory.wf s.mem = true) :
    tget 0 (s.memWrite a bs).mem i = tget 0 s.mem i := by
  unfold State.memWrite
  split
  · rfl
  · exact tget_tsetList_out (by simpa using h) w

/-- An entry that is written with a value that is no default reads back, whatever form the table has. -/
theorem tget_tset_kept {α : Type} [DecidableEq α] {d : α} (m : Tab α) (k : Nat) (x : α) (h : x ≠ d) : tget d (tset d m k x) k = x := by
  induction m with
  | nil => simp [tset, tget, h]
  | cons z m ih =>
    obtain ⟨j, v⟩ := z
    by_cases h2 : k = j
    · subst h2; simp [tset, h, tget]
    · by_cases h1 : k < j
      · simp [tset, h1, h2, h, tget]
      · simp [tset, h1, h2, tget, ih]

/-- Of two writes of one entry the later counts, when the earlier is no default. -/
theorem tset_tset {α : Type} [DecidableEq α] {d : α} (m : Tab α) (k : Nat) (x y : α) (hx : x ≠ d) :
    tset d (tset d m k x) k y = tset d m k y := by
  induction m with
  | nil => simp [tset, hx]
  | cons z m ih =>
    obtain ⟨j, v⟩ := z
    by_cases h2 : k = j
    · subst h2; simp [tset, hx]
    · by_cases h1 : k < j
      · simp [tset, h1, h2, hx]
      · simp [tset, h1, h2, ih]

end Sys2Proof.Machine
end

