-- ==== Sys2Proof/Laws/Kept.lean ====
section
/-! SUPPORT. What every operation of the block keeps: it leaves the queue and the ordering code alone, and it takes an orderly state to
an orderly state (Safety.lean). One law for each shared operation. -/

set_option linter.unusedTactic false
set_option linter.unreachableTactic false
set_option linter.unusedVariables false

namespace Sys2Proof.Machine

/-- `t` has the queue and the ordering code of `s`, and it is orderly when `s` is. -/
structure Kept (s t : State) : Prop where
  pending : t.pending = s.pending
  fx : t.fx = s.fx
  orderly : Orderly s → Orderly t

variable {s t u : State}

/-- A state keeps itself. -/
theorem Kept.refl (s : State) : Kept s s := ⟨rfl, rfl, id⟩

/-- Keeping goes from one state to the next. -/
theorem Kept.trans (h : Kept s t) (k : Kept t u) : Kept s u :=
  ⟨k.pending.trans h.pending, k.fx.trans h.fx, fun o => k.orderly (h.orderly o)⟩

/-- A state that differs from a kept one in other fields alone is kept. -/
theorem kept_same (h : Kept s t) (hp : u.pending = t.pending) (hf : u.fx = t.fx) (hm : u.mem = t.mem) (hl : u.partMode = t.partMode)
    (hh : u.stream.hamper = t.stream.hamper) (ht : u.trc.held = t.trc.held) (hs : u.lko.tls = t.lko.tls)
    (hq : u.icu.prio = t.icu.prio) : Kept s u :=
  h.trans ⟨hp, hf, fun o => ⟨hm ▸ o.memory, hl ▸ o.layout, hh ▸ o.hamper, ht ▸ o.trace, hs ▸ o.sessions, hq ▸ o.priorities⟩⟩

/-- The same for a state written out. -/
theorem kept_mk {x0 : List Instr} {x1 : Bool} {x2 : Nat} {x3 : Tab Tile} {x4 : Tab Nat} {x5 : Tab W32} {x6 : Tab Byte} {x7 : Tab Bool} {x8 : Tab StkBlk} {x9 : Tab StratBlk} {x10 : List UpdJob} {x11 : Nat} {x12 : Tab DmaCh} {x13 : W64} {x14 : Tab PortBlk} {x15 : CvyBlk} {x16 : StreamBlk} {x17 : PciBlk} {x18 : SecBlk} {x19 : LkoBlk} {x20 : IcuBlk} {x21 : PwrBlk} {x22 : Tab StashSlot} {x23 : Tab NpcBlk} {x24 : List Module} {x25 : List (BitVec 384 × W64 × Nat × Bool)} {x26 : Nat} {x27 : TrcBlk} {x28 : HubBlk} {x29 : PinBlk} {x30 : List Req} {x31 : List Resp} {x32 : List OutMsg} {x33 : Nat} {x34 : Nat}
    (hp : x0 = t.pending) (hf : x1 = t.fx) (hm : x6 = t.mem) (hl : x2 = t.partMode) (hh : x16.hamper = t.stream.hamper)
    (ht : x27.held = t.trc.held) (hs : x19.tls = t.lko.tls) (hq : x20.prio = t.icu.prio) (h : Kept s t) :
    Kept s ⟨x0, x1, x2, x3, x4, x5, x6, x7, x8, x9, x10, x11, x12, x13, x14, x15, x16, x17, x18, x19, x20, x21, x22, x23, x24, x25, x26, x27, x28, x29, x30, x31, x32, x33, x34⟩ :=
  kept_same h hp hf hm hl hh ht hs hq

/-- A fold keeps what each of its steps keeps. -/
theorem kept_foldl {α : Type} {f : State → α → State} (hf : ∀ (v : State) (x : α), Kept s v → Kept s (f v x)) (l : List α) (h : Kept s t) :
    Kept s (l.foldl f t) := by
  induction l generalizing t with
  | nil => exact h
  | cons x l ih => exact ih (hf t x h)

/-- A choice keeps what both of its sides keep. -/
theorem kept_ite {c : Prop} [Decidable c] {a b : State} (ha : Kept s a) (hb : Kept s b) : Kept s (if c then a else b) := by
  split
  · exact ha
  · exact hb

/-- A fold over a state with something beside it keeps what each of its steps keeps. -/
theorem kept_foldl_fst {α β : Type} {f : State × β → α → State × β} (hf : ∀ (x : State × β) (a : α), Kept s x.1 → Kept s (f x a).1)
    (l : List α) {x : State × β} (h : Kept s x.1) : Kept s (l.foldl f x).1 := by
  induction l generalizing x with
  | nil => exact h
  | cons a l ih => exact ih (hf x a h)

/-- State.setTile keeps. -/
theorem setTile_kept (t' : Nat) (x : Tile) (h : Kept s t) : Kept s (State.setTile t t' x) := by
  unfold State.setTile
  try dsimp only
  repeat' (first | exact h | fail_if_no_progress with_reducible refine kept_mk rfl rfl rfl rfl rfl rfl rfl rfl ?_ | split)

/-- State.modTile keeps. -/
theorem modTile_kept (t' : Nat) (f : Tile → Tile) (h : Kept s t) : Kept s (State.modTile t t' f) := by
  unfold State.modTile
  try dsimp only
  repeat' (first | exact h | with_reducible apply setTile_kept | split)

/-- State.setStack keeps. -/
theorem setStack_kept (k : Nat) (x : StkBlk) (h : Kept s t) : Kept s (State.setStack t k x) := by
  unfold State.setStack
  try dsimp only
  repeat' (first | exact h | fail_if_no_progress with_reducible refine kept_mk rfl rfl rfl rfl rfl rfl rfl rfl ?_ | split)

/-- State.modStack keeps. -/
theorem modStack_kept (k : Nat) (f : StkBlk → StkBlk) (h : Kept s t) : Kept s (State.modStack t k f) := by
  unfold State.modStack
  try dsimp only
  repeat' (first | exact h | with_reducible apply setStack_kept | split)

/-- State.setUnit keeps. -/
theorem setUnit_kept (k : Nat) (x : StratBlk) (h : Kept s t) : Kept s (State.setUnit t k x) := by
  unfold State.setUnit
  try dsimp only
  repeat' (first | exact h | fail_if_no_progress with_reducible refine kept_mk rfl rfl rfl rfl rfl rfl rfl rfl ?_ | split)

/-- State.setPort keeps. -/
theorem setPort_kept (n : Nat) (x : PortBlk) (h : Kept s t) : Kept s (State.setPort t n x) := by
  unfold State.setPort
  try dsimp only
  repeat' (first | exact h | fail_if_no_progress with_reducible refine kept_mk rfl rfl rfl rfl rfl rfl rfl rfl ?_ | split)

/-- State.setChan keeps. -/
theorem setChan_kept (n : Nat) (x : DmaCh) (h : Kept s t) : Kept s (State.setChan t n x) := by
  unfold State.setChan
  try dsimp only
  repeat' (first | exact h | fail_if_no_progress with_reducible refine kept_mk rfl rfl rfl rfl rfl rfl rfl rfl ?_ | split)

/-- State.setNpc keeps. -/
theorem setNpc_kept (p : Nat) (x : NpcBlk) (h : Kept s t) : Kept s (State.setNpc t p x) := by
  unfold State.setNpc
  try dsimp only
  repeat' (first | exact h | fail_if_no_progress with_reducible refine kept_mk rfl rfl rfl rfl rfl rfl rfl rfl ?_ | split)

/-- State.setCore keeps. -/
theorem setCore_kept (n : Nat) (x : ScSt) (h : Kept s t) : Kept s (State.setCore t n x) := by
  unfold State.setCore
  try dsimp only
  repeat' (first | exact h | fail_if_no_progress with_reducible refine kept_mk rfl rfl rfl rfl rfl rfl rfl rfl ?_ | split)

/-- State.emit keeps. -/
theorem emit_kept (m : OutMsg) (h : Kept s t) : Kept s (State.emit t m) := by
  unfold State.emit
  try dsimp only
  repeat' (first | exact h | fail_if_no_progress with_reducible refine kept_mk rfl rfl rfl rfl rfl rfl rfl rfl ?_ | split)

/-- State.drawn keeps. -/
theorem drawn_kept (n : Nat) (h : Kept s t) : Kept s (State.drawn t n) := by
  unfold State.drawn
  try dsimp only
  repeat' (first | exact h | fail_if_no_progress with_reducible refine kept_mk rfl rfl rfl rfl rfl rfl rfl rfl ?_ | split)

/-- State.memWrite keeps. -/
theorem memWrite_kept (a : Nat) (bs : List PByte) (h : Kept s t) : Kept s (t.memWrite a bs) := by
  refine h.trans ⟨?_, ?_, fun o => ⟨memory_wf_write o.memory, ?_, ?_, ?_, ?_, ?_⟩⟩ <;> unfold State.memWrite <;> split
  all_goals first | rfl | exact o.layout | exact o.hamper | exact o.trace | exact o.sessions | exact o.priorities

/-- State.hubWrite keeps. -/
theorem hubWrite_kept (g : Tag) (a : Nat) (bs : List PByte) (h : Kept s t) : Kept s (State.hubWrite t g a bs).1 := by
  unfold State.hubWrite
  try dsimp only
  repeat' (first | exact h | with_reducible apply memWrite_kept | split)

/-- State.deliverEvt keeps. -/
theorem deliverEvt_kept (m : EvtMsg) (h : Kept s t) : Kept s (State.deliverEvt t m) := by
  unfold State.deliverEvt
  try dsimp only
  repeat' (first | exact h | with_reducible apply modTile_kept | fail_if_no_progress with_reducible refine kept_mk rfl rfl rfl rfl rfl rfl rfl rfl ?_ | split)

/-- State.tregReadAt keeps. -/
theorem tregReadAt_kept (t' : Nat) (r : TReg) (p : Part) (h : Kept s t) : Kept s (State.tregReadAt t t' r p).2 := by
  unfold State.tregReadAt
  try dsimp only
  repeat' (first | exact h | with_reducible apply modTile_kept | split)

/-- State.tregWriteAt keeps. -/
theorem tregWriteAt_kept (g : Tag) (t' : Nat) (r : TReg) (p : Part) (v : W64) (h : Kept s t) : Kept s (State.tregWriteAt t g t' r p v).1 := by
  unfold State.tregWriteAt
  try dsimp only
  repeat' (first | exact h | with_reducible apply drawn_kept | with_reducible apply setTile_kept | fail_if_no_progress with_reducible refine kept_mk rfl rfl rfl rfl rfl rfl rfl rfl ?_ | split)

/-- State.tileRegRead keeps. -/
theorem tileRegRead_kept (t' : Nat) (off : Nat) (n : Nat) (h : Kept s t) : Kept s (State.tileRegRead t t' off n).2.2 := by
  unfold State.tileRegRead
  generalize tileReg off = x, tileReg (off + 4) = y
  split
  · exact h
  · split
    · exact h
    · split
      · exact tregReadAt_kept t' _ (partAt _ off) h
      · split
        · exact tregReadAt_kept t' _ .all h
        · split
          · exact h
          · exact tregReadAt_kept t' _ .all (tregReadAt_kept t' _ .all h)

/-- State.tileRegWrite keeps. -/
theorem tileRegWrite_kept (g : Tag) (t' : Nat) (off : Nat) (n : Nat) (v : W64) (h : Kept s t) :
    Kept s (State.tileRegWrite t g t' off n v).1 := by
  unfold State.tileRegWrite
  generalize tileReg off = x, tileReg (off + 4) = y
  split
  · exact h
  · split
    · exact h
    · split
      · exact tregWriteAt_kept g t' _ (partAt _ off) v h
      · split
        · exact tregWriteAt_kept g t' _ .all v h
        · split
          · exact h
          · exact tregWriteAt_kept g t' _ .all _ (tregWriteAt_kept g t' _ .all _ h)

/-- State.tileAccess keeps. -/
theorem tileAccess_kept (src : Agent) (t' : Nat) (off : Nat) (op : ReqOp) (h : Kept s t) : Kept s (State.tileAccess t src t' off op).s := by
  unfold State.tileAccess
  try dsimp only
  repeat' (first | exact h | with_reducible apply tileRegWrite_kept | with_reducible apply tileRegRead_kept | with_reducible apply modTile_kept | fail_if_no_progress with_reducible refine kept_mk rfl rfl rfl rfl rfl rfl rfl rfl ?_ | split)

/-- State.ctlWrite keeps. -/
theorem ctlWrite_kept (a : Agent) (t' : Nat) (off : Nat) (v : W32) (h : Kept s t) : Kept s (State.ctlWrite t a t' off v) := by
  unfold State.ctlWrite
  try dsimp only
  repeat' (first | exact h | with_reducible apply tileAccess_kept | with_reducible apply emit_kept | fail_if_no_progress with_reducible refine kept_mk rfl rfl rfl rfl rfl rfl rfl rfl ?_ | split)

/-- State.respond keeps. -/
theorem respond_kept (r : Req) (status : Nat) (d : List PByte) (h : Kept s t) : Kept s (State.respond t r status d) := by
  have hb : ∀ (c : Prop) [Decidable c] (x : BitVec 16), Kept s (if c then { t with pci := { t.pci with bar2err := x } } else t) :=
    fun c _ x => kept_ite (kept_same h rfl rfl rfl rfl rfl rfl rfl rfl) h
  obtain ⟨src, ch, bu, ad, op⟩ := r
  rcases src with n | _ | _ | _ | n | n | ⟨p, c⟩
  · exact emit_kept _ h
  · exact emit_kept _ h
  · cases op
    · exact emit_kept _ (hb _ _)
    · exact hb _ _
  · cases op
    · exact emit_kept _ (hb _ _)
    · exact hb _ _
  · exact kept_same h rfl rfl rfl rfl rfl rfl rfl rfl
  · exact kept_same h rfl rfl rfl rfl rfl rfl rfl rfl
  · exact emit_kept _ h

/-- State.runTile keeps. -/
theorem runTile_kept (t' : Nat) (f : TileEnv → Tile → Tile) (h : Kept s t) : Kept s (State.runTile t t' f) := by
  unfold State.runTile
  try dsimp only
  repeat' (first | exact h | with_reducible apply modTile_kept | split)

/-- State.sendMsix keeps. -/
theorem sendMsix_kept (v : Nat) (h : Kept s t) : Kept s (State.sendMsix t v) := by
  unfold State.sendMsix
  try dsimp only
  repeat' (first | exact h | with_reducible apply emit_kept | fail_if_no_progress with_reducible refine kept_mk rfl rfl rfl rfl rfl rfl rfl rfl ?_ | split)

/-- State.engineWrite keeps. -/
theorem engineWrite_kept (g : Tag) (a : Nat) (d : List PByte) (h : Kept s t) : Kept s (State.engineWrite t g a d).1 := by
  unfold State.engineWrite
  try dsimp only
  repeat' (first | exact h | with_reducible apply hubWrite_kept | with_reducible apply emit_kept | split)

/-- State.machineCheck keeps. -/
theorem machineCheck_kept (flag : Nat) (code : Nat) (core : Nat) (addr : W64) (h : Kept s t) : Kept s (State.machineCheck t flag code core addr) := by
  unfold State.machineCheck
  try dsimp only
  repeat' (first | exact h | fail_if_no_progress with_reducible refine kept_mk rfl rfl rfl rfl rfl rfl rfl rfl ?_ | split)

/-- State.poisonHub keeps. -/
theorem poisonHub_kept (a : Nat) (h : Kept s t) : Kept s (State.poisonHub t a) := by
  unfold State.poisonHub
  try dsimp only
  repeat' (first | exact h | with_reducible apply machineCheck_kept | split)

/-- State.fetchEntry keeps. -/
theorem lastFree_mem (l : List (Nat × StreamEnt)) (x : Nat × StreamEnt) (h : lastFree l = some x) : x ∈ l := by
  induction l with
  | nil => cases h
  | cons y l ih =>
    unfold lastFree at h
    split at h
    · next z e => cases h; exact List.mem_cons_of_mem _ (ih e)
    · split at h
      · cases h
      · cases h; exact List.mem_cons_self

/-- An entry that is taken out of a list shortens it. -/
theorem filter_shorter (l : List (Nat × StreamEnt)) (x : Nat × StreamEnt) (h : x ∈ l) :
    (l.filter (fun y => y.1 ≠ x.1)).length + 1 ≤ l.length := by
  induction l with
  | nil => cases h
  | cons y l ih =>
    rcases List.mem_cons.mp h with e | e
    · subst e
      simp only [ne_eq, not_true_eq_false, decide_false, Bool.false_eq_true, not_false_eq_true, List.filter_cons_of_neg, List.length_cons]
      exact Nat.succ_le_succ (List.length_filter_le _ _)
    · have := ih e
      rw [List.filter_cons]
      split <;> simp only [List.length_cons] <;> omega

/-- The hamper keeps its bound when an entry is fetched. -/
theorem fetchEntry_kept (i : Nat) (h : Kept s t) (e : State.fetchEntry t i = some u) : Kept s u := by
  have put : ∀ (v : State) (l : List (Nat × StreamEnt)), Kept s v → (v.stream.hamper.length ≤ 512 → l.length ≤ 512) →
      ∀ st : StreamBlk, st.hamper = l → Kept s { v with stream := st } := by
    intro v l hv hl st hst
    exact hv.trans ⟨rfl, rfl, fun o => ⟨o.memory, o.layout, by rw [hst]; exact hl o.hamper, o.trace, o.sessions, o.priorities⟩⟩
  unfold State.fetchEntry at e
  dsimp only at e
  split at e
  · next x hx =>
    cases e
    refine put t _ h (fun hl => ?_) _ rfl
    have := filter_shorter _ _ (List.mem_of_find?_eq_some hx)
    have hxi : x.1 = i := by simpa using List.find?_some hx
    rw [hxi] at this
    simp only [List.length_cons]
    omega
  · have hv : Kept s (if anyPois (t.memRead (t.entryAddr i) 64) = true then t.poisonHub (t.entryAddr i) else t) :=
      kept_ite (poisonHub_kept _ h) h
    have hs : (if anyPois (t.memRead (t.entryAddr i) 64) = true then t.poisonHub (t.entryAddr i) else t).stream = t.stream := by
      split <;> rfl
    revert e hv hs
    generalize (if anyPois (t.memRead (t.entryAddr i) 64) = true then t.poisonHub (t.entryAddr i) else t) = v
    intro e hv hs
    split at e
    · next hl =>
      cases e
      refine put v _ hv (fun _ => ?_) _ rfl
      simp only [List.length_cons]
      omega
    · split at e
      · cases e
      · next x hx =>
        cases e
        refine put _ _ (memWrite_kept _ _ hv) (fun hl => ?_) _ rfl
        have := filter_shorter _ _ (lastFree_mem _ _ hx)
        have hm : ∀ a b, (v.memWrite a b).stream = v.stream := by
          intro a b
          unfold State.memWrite
          split <;> rfl
        rw [hm, hs] at hl
        simp only [List.length_cons]
        omega

/-- State.setEntry keeps. -/
theorem setEntry_kept (i : Nat) (e : StreamEnt) (h : Kept s t) : Kept s (t.setEntry i e) :=
  h.trans ⟨rfl, rfl, fun o => ⟨o.memory, o.layout, by simpa [State.setEntry] using o.hamper, o.trace, o.sessions, o.priorities⟩⟩

/-- State.writeRecord keeps. -/
theorem writeRecord_kept (e : StreamEnt) (tag : Nat) (h : Kept s t) : Kept s (State.writeRecord t e tag) := by
  unfold State.writeRecord
  try dsimp only
  repeat' (first | exact h | with_reducible apply engineWrite_kept | split)

/-- State.streamVector keeps. -/
theorem streamVector_kept (e : StreamEnt) (h : Kept s t) : Kept s (State.streamVector t e) := by
  unfold State.streamVector
  try dsimp only
  repeat' (first | exact h | with_reducible apply sendMsix_kept | split)

/-- State.completeCmd keeps. -/
theorem completeCmd_kept (i : Nat) (c : StreamCmd) (h : Kept s t) : Kept s (State.completeCmd t i c) := by
  unfold State.completeCmd
  try dsimp only
  repeat' (first | exact h | with_reducible apply streamVector_kept | with_reducible apply writeRecord_kept | with_reducible apply setEntry_kept | fail_if_no_progress with_reducible refine kept_mk rfl rfl rfl rfl rfl rfl rfl rfl ?_ | split)

/-- State.faultStream keeps. -/
theorem faultStream_kept (i : Nat) (code : Nat) (hi : Nat) (h : Kept s t) : Kept s (State.faultStream t i code hi) := by
  unfold State.faultStream
  try dsimp only
  repeat' (first | exact h | with_reducible apply streamVector_kept | with_reducible apply writeRecord_kept | with_reducible apply setEntry_kept | fail_if_no_progress with_reducible refine kept_mk rfl rfl rfl rfl rfl rfl rfl rfl ?_ | split)

/-- State.setRun keeps. -/
theorem setRun_kept (i : Nat) (c : StreamCmd) (r : RunCmd) (st : StreamSt) (h : Kept s t) : Kept s (State.setRun t i c r st) := by
  unfold State.setRun
  try dsimp only
  repeat' (first | exact h | with_reducible apply setEntry_kept | fail_if_no_progress with_reducible refine kept_mk rfl rfl rfl rfl rfl rfl rfl rfl ?_ | split)

/-- State.evPut keeps. -/
theorem evPut_kept (p : Nat) (c : Nat) (j : Nat) (set : Bool) (v : W64) (h : Kept s t) : Kept s (State.evPut t p c j set v) := by
  unfold State.evPut
  try dsimp only
  repeat' (first | exact h | with_reducible apply hubWrite_kept | fail_if_no_progress with_reducible refine kept_mk rfl rfl rfl rfl rfl rfl rfl rfl ?_ | split)

/-- State.hsigArrives keeps. -/
theorem hsigArrives_kept (t' : Nat) (x0 : TileOut) (h : Kept s t) : Kept s (State.hsigArrives t t' x0) := by
  unfold State.hsigArrives
  try dsimp only
  repeat' (first | exact h | with_reducible apply evPut_kept | split)

/-- State.drainHsig keeps. -/
theorem drainHsig_kept (t' : Nat) (h : Kept s t) : Kept s (State.drainHsig t t') := by
  unfold State.drainHsig
  try dsimp only
  repeat' (first | exact h | with_reducible apply hsigArrives_kept | with_reducible apply modTile_kept | with_reducible refine kept_foldl (fun _ _ h => ?_) _ ?_ | fail_if_no_progress with_reducible refine kept_mk rfl rfl rfl rfl rfl rfl rfl rfl ?_ | split)

/-- State.tileWork keeps. -/
theorem tileWork_kept (t' : Nat) (f : TileEnv → Tile → Tile) (h : Kept s t) : Kept s (State.tileWork t t' f) := by
  unfold State.tileWork
  try dsimp only
  repeat' (first | exact h | with_reducible apply drainHsig_kept | with_reducible apply runTile_kept | split)

/-- State.traceRecord keeps. -/
theorem traceRecord_kept (own : Bool) (m : PhaseMsg) (h : Kept s t) : Kept s (t.traceRecord own m) := by
  unfold State.traceRecord
  dsimp only
  split
  · exact h
  · split
    · exact kept_same h rfl rfl rfl rfl rfl rfl rfl rfl
    · split
      · exact kept_same h rfl rfl rfl rfl rfl rfl rfl rfl
      · exact h.trans ⟨rfl, rfl, fun o => ⟨o.memory, o.layout, o.hamper, Nat.min_le_left _ _, o.sessions, o.priorities⟩⟩

/-- State.slot keeps. -/
theorem slot_kept (t' : TileIx) (o : BundleOps) (ck : List CheckFail) (h : Kept s t) : Kept s (State.slot t t' o ck) := by
  unfold State.slot
  try dsimp only
  repeat' (first | exact h | with_reducible apply tileWork_kept | split)

/-- State.seqOp keeps. -/
theorem seqOp_kept (t' : TileIx) (op : Nat) (f : SeqF) (h : Kept s t) : Kept s (State.seqOp t t' op f) := by
  unfold State.seqOp
  try dsimp only
  repeat' (first | exact h | with_reducible apply slot_kept | split)

/-- State.mxOp keeps. -/
theorem mxOp_kept (t' : TileIx) (k : MxKind) (f : MxF) (ck : List CheckFail) (h : Kept s t) : Kept s (State.mxOp t t' k f ck) := by
  unfold State.mxOp
  try dsimp only
  repeat' (first | exact h | with_reducible apply slot_kept | split)

/-- State.veOp keeps. -/
theorem veOp_kept (t' : TileIx) (op : VOp) (f : VecF) (ck : List CheckFail) (h : Kept s t) : Kept s (State.veOp t t' op f ck) := by
  unfold State.veOp
  try dsimp only
  repeat' (first | exact h | with_reducible apply slot_kept | split)

/-- State.sfOp keeps. -/
theorem sfOp_kept (t' : TileIx) (op : Nat) (f : SfF) (ck : List CheckFail) (h : Kept s t) : Kept s (State.sfOp t t' op f ck) := by
  unfold State.sfOp
  try dsimp only
  repeat' (first | exact h | with_reducible apply slot_kept | split)

/-- State.lsOp keeps. -/
theorem lsOp_kept (t' : TileIx) (op : Nat) (f : LsF) (h : Kept s t) : Kept s (State.lsOp t t' op f) := by
  unfold State.lsOp
  try dsimp only
  repeat' (first | exact h | with_reducible apply slot_kept | split)

/-- State.blockUpd keeps. -/
theorem blockUpd_kept (d : List Byte) (t' : Nat) (eta : FVal) (ls : List Layer) (g0 : Nat → Option (Nat × Bool)) (bad : Nat → Bool)
    (b : Nat) (x : W64) (h : Kept s t) : Kept s (t.blockUpd d t' eta ls g0 bad b x).1 := by
  have w : ∀ {v : State} (a : Nat) (bs : List PByte), Kept s v → Kept s (v.memWrite a bs) := fun a bs k => memWrite_kept a bs k
  have c : ∀ {v : State} (p : Prop) [Decidable p] (a : Nat) (bs : List PByte), Kept s v → Kept s (if p then v.memWrite a bs else v) :=
    fun p _ a bs k => kept_ite (w a bs k) k
  have c' : ∀ {v : State} (p : Prop) [Decidable p] (a : Nat) (bs : List PByte), Kept s v → Kept s (if p then v else v.memWrite a bs) :=
    fun p _ a bs k => kept_ite k (w a bs k)
  exact c _ _ _ (c' _ _ _ (c _ _ _ (w _ _ (w _ _ (w _ _ (w _ _ h))))))

/-- State.blocksUpd keeps. -/
theorem blocksUpd_kept (d : List Byte) (t' : Nat) (eta : FVal) (ls : List Layer) (bad : Nat → Bool) (bs : List Nat) (x : W64) (f : W32)
    (h : Kept s t) : Kept s (t.blocksUpd d t' eta ls bad bs x f).1 := by
  induction bs generalizing t x f with
  | nil => exact h
  | cons b bs ih => exact ih _ _ (blockUpd_kept _ _ _ _ _ _ _ _ h)

/-- State.layerPhase2 keeps. -/
theorem layerPhase2_kept (d tab : List Byte) (t' : Nat) (eta : FVal) (bad : Bool) (l : Layer) (x : W64) (h : Kept s t) :
    Kept s (t.layerPhase2 d tab t' eta bad l x).1 := by
  have w : ∀ {v : State} (a : Nat) (bs : List PByte), Kept s v → Kept s (v.memWrite a bs) := fun a bs k => memWrite_kept a bs k
  have c : ∀ {v : State} (p : Prop) [Decidable p] (a : Nat) (bs : List PByte), Kept s v → Kept s (if p then v.memWrite a bs else v) :=
    fun p _ a bs k => kept_ite (w a bs k) k
  exact c _ _ _ (w _ _ (c _ _ _ (c _ _ _ (w _ _ h))))

/-- State.layersPhase2 keeps. -/
theorem layersPhase2_kept (d tab : List Byte) (t' : Nat) (eta : FVal) (bad : Nat → Bool) (ls : List Layer) (x : W64) (f : W32)
    (h : Kept s t) : Kept s (t.layersPhase2 d tab t' eta bad ls x f).1 := by
  induction ls generalizing t x f with
  | nil => exact h
  | cons l ls ih => exact ih _ _ (layerPhase2_kept _ _ _ _ _ _ _ h)

/-- State.stratPass keeps. -/
theorem stratPass_kept (k : Nat) (run : StratRun) (h : Kept s t) : Kept s (State.stratPass t k run).1 := by
  unfold State.stratPass
  try dsimp only
  repeat' (first | exact h | with_reducible apply layersPhase2_kept | with_reducible apply blocksUpd_kept | with_reducible apply memWrite_kept | with_reducible apply setUnit_kept | fail_if_no_progress with_reducible refine kept_mk rfl rfl rfl rfl rfl rfl rfl rfl ?_ | split)

/-- State.stratLast keeps. -/
theorem stratLast_kept (k : Nat) (c : Nat) (g : Nat) (word : W32) (sound : Bool) (h : Kept s t) : Kept s (State.stratLast t k c g word sound) := by
  unfold State.stratLast
  try dsimp only
  repeat' (first | exact h | with_reducible apply memWrite_kept | with_reducible apply setUnit_kept | fail_if_no_progress with_reducible refine kept_mk rfl rfl rfl rfl rfl rfl rfl rfl ?_ | split)

/-- State.answer keeps. -/
theorem answer_kept (r : ReplyTo) (words : List W32) (code : Nat) (h : Kept s t) : Kept s (State.answer t r words code) := by
  unfold State.answer
  try dsimp only
  repeat' (first | exact h | with_reducible apply faultStream_kept | with_reducible apply completeCmd_kept | with_reducible apply engineWrite_kept | with_reducible apply modTile_kept | fail_if_no_progress with_reducible refine kept_mk rfl rfl rfl rfl rfl rfl rfl rfl ?_ | split)

/-- State.unitDone keeps. -/
theorem unitDone_kept (id k : Nat) (word : W32) (valid : Bool) (h : Kept s t) : Kept s (t.unitDone id k word valid) := by
  have hu : ∀ l, Kept s { t with upds := l } := fun l => kept_same h rfl rfl rfl rfl rfl rfl rfl rfl
  unfold State.unitDone
  split
  · exact h
  · dsimp only
    split
    · exact hu _
    · exact answer_kept _ _ _ (hu _)

/-- State.queueUpdate keeps. -/
theorem queueUpdate_kept (p c g : Nat) (step : W64) (reply : ReplyTo) (h : Kept s t) (e : t.queueUpdate p c g step reply = some u) : Kept s u := by
  unfold State.queueUpdate at e
  split at e
  · cases e
  · have k : Kept s ((List.range 12).foldl (fun s k => s.setUnit k { s.unit k with queue := (s.unit k).queue ++ [.pass t.nextId p c g step] }) t) :=
      kept_foldl (fun _ _ k => setUnit_kept _ _ k) _ h
    exact kept_same k (by cases e; rfl) (by cases e; rfl) (by cases e; rfl) (by cases e; rfl) (by cases e; rfl) (by cases e; rfl) (by cases e; rfl) (by cases e; rfl)

/-- State.chargeStack keeps. -/
theorem chargeStack_kept (k : Nat) (cls : Nat) (bytes : Nat) (h : Kept s t) : Kept s (State.chargeStack t k cls bytes) := by
  unfold State.chargeStack
  try dsimp only
  repeat' (first | exact h | with_reducible apply setStack_kept | fail_if_no_progress with_reducible refine kept_mk rfl rfl rfl rfl rfl rfl rfl rfl ?_ | split)

/-- State.finalBlocks keeps. -/
theorem finalBlocks_kept (d : List Byte) (t' : Nat) (eta : FVal) (ls : List Layer) (g0 : Nat → Option (Nat × Bool)) (bs : List Nat) (x : W64)
    (f : W32) (h : Kept s t) : Kept s (t.finalBlocks d t' eta ls g0 bs x f).1 := by
  induction bs generalizing t x f with
  | nil => exact h
  | cons b bs ih => exact ih _ _ (blockUpd_kept _ _ _ _ _ _ _ _ h)

/-- State.serveChunk keeps. -/
theorem serveChunk_kept (k : Nat) (op : Nat) (c : StratChunk) (h : Kept s t) : Kept s (State.serveChunk t k op c) := by
  unfold State.serveChunk
  try dsimp only
  repeat' (first | exact h | with_reducible apply finalBlocks_kept | with_reducible apply stratLast_kept | with_reducible apply layersPhase2_kept | with_reducible apply memWrite_kept | with_reducible apply setUnit_kept | fail_if_no_progress with_reducible refine kept_mk rfl rfl rfl rfl rfl rfl rfl rfl ?_ | split)

/-- State.serveQueue keeps. -/
theorem serveQueue_kept (k : Nat) (n : Nat) (h : Kept s t) : Kept s (t.serveQueue k n) := by
  induction n generalizing t with
  | zero => exact h
  | succ n ih =>
    unfold State.serveQueue
    dsimp only
    split
    · exact ih (serveChunk_kept _ _ _ (setUnit_kept _ _ h))
    · exact h

/-- State.offerChunk keeps. -/
theorem offerChunk_kept (k : Nat) (op : Nat) (c : StratChunk) (h : Kept s t) : Kept s (State.offerChunk t k op c) := by
  unfold State.offerChunk
  try dsimp only
  repeat' (first | exact h | with_reducible apply serveChunk_kept | with_reducible apply setUnit_kept | fail_if_no_progress with_reducible refine kept_mk rfl rfl rfl rfl rfl rfl rfl rfl ?_ | split)

/-- State.stratStart keeps. -/
theorem stratStart_kept (k : Nat) (ck : List CheckFail) (h : Kept s t) : Kept s (State.stratStart t k ck) := by
  unfold State.stratStart
  try dsimp only
  repeat' (first | exact h | with_reducible apply serveQueue_kept | with_reducible apply unitDone_kept | with_reducible apply stratLast_kept | with_reducible apply setUnit_kept | fail_if_no_progress with_reducible refine kept_mk rfl rfl rfl rfl rfl rfl rfl rfl ?_ | split)

/-- State.stratFinish keeps. -/
theorem stratFinish_kept (k : Nat) (h : Kept s t) : Kept s (State.stratFinish t k) := by
  unfold State.stratFinish
  try dsimp only
  repeat' (first | exact h | with_reducible apply serveQueue_kept | with_reducible apply chargeStack_kept | with_reducible apply unitDone_kept | with_reducible apply stratLast_kept | with_reducible apply stratPass_kept | with_reducible apply setUnit_kept | fail_if_no_progress with_reducible refine kept_mk rfl rfl rfl rfl rfl rfl rfl rfl ?_ | split)

/-- State.stratAbandon keeps. -/
theorem stratAbandon_kept (k : Nat) (m : Nat) (h : Kept s t) : Kept s (State.stratAbandon t k m) := by
  unfold State.stratAbandon
  try dsimp only
  repeat' (first | exact h | with_reducible apply unitDone_kept | with_reducible apply stratLast_kept | with_reducible apply blocksUpd_kept | with_reducible apply setUnit_kept | fail_if_no_progress with_reducible refine kept_mk rfl rfl rfl rfl rfl rfl rfl rfl ?_ | split)

/-- State.latch keeps. -/
theorem latch_kept (i : Nat) (h : Kept s t) : Kept s (State.latch t i) := by
  unfold State.latch
  try dsimp only
  repeat' (first | exact h | fail_if_no_progress with_reducible refine kept_mk rfl rfl rfl rfl rfl rfl rfl rfl ?_ | split)

/-- State.pumpPort keeps. -/
theorem pumpPort_kept (n : PortIx) (k : Nat) (h : Kept s t) : Kept s (t.pumpPort n k) := by
  induction k generalizing t with
  | zero => exact h
  | succ k ih =>
    unfold State.pumpPort
    dsimp only
    split
    · exact h
    · split
      · exact h
      · exact ih (emit_kept _ (setPort_kept _ _ h))

/-- State.sendPay keeps. -/
theorem sendPay_kept (n : PortIx) (pay : CellPay) (h : Kept s t) : Kept s (State.sendPay t n pay) := by
  unfold State.sendPay
  try dsimp only
  repeat' (first | exact h | with_reducible apply pumpPort_kept | with_reducible apply setPort_kept | fail_if_no_progress with_reducible refine kept_mk rfl rfl rfl rfl rfl rfl rfl rfl ?_ | split)

/-- State.vwrite keeps. -/
theorem vwriteMem_kept (rs : List (Nat × Nat)) (off : Nat) (d : List PByte) (h : Kept s t) : Kept s (t.vwrite rs off d) := by
  induction rs generalizing t off d with
  | nil => exact h
  | cons x rs ih =>
    unfold State.vwrite
    dsimp only
    split
    · exact ih _ _ h
    · split
      · exact memWrite_kept _ _ h
      · exact ih _ _ (memWrite_kept _ _ h)

/-- State.sendRank keeps. -/
theorem sendRank_kept (c : Coll) (r : Nat) (i : Nat) (pay : CellPay) (h : Kept s t) : Kept s (State.sendRank t c r i pay) := by
  unfold State.sendRank
  try dsimp only
  repeat' (first | exact h | with_reducible apply sendPay_kept | fail_if_no_progress with_reducible refine kept_mk rfl rfl rfl rfl rfl rfl rfl rfl ?_ | split)

/-- State.sendChunk keeps. -/
theorem sendChunk_kept (c : Coll) (r : Nat) (i : Nat) (ch : ChunkD) (gather : Bool) (h : Kept s t) : Kept s (State.sendChunk t c r i ch gather) := by
  unfold State.sendChunk
  try dsimp only
  repeat' (first | exact h | with_reducible apply sendRank_kept | with_reducible refine kept_foldl (fun _ _ h => ?_) _ ?_ | split)

/-- State.setColl keeps. -/
theorem setColl_kept (c : Coll) (h : Kept s t) : Kept s (State.setColl t c) := by
  unfold State.setColl
  try dsimp only
  repeat' (first | exact h | fail_if_no_progress with_reducible refine kept_mk rfl rfl rfl rfl rfl rfl rfl rfl ?_ | split)

/-- State.flood keeps. -/
theorem flood_kept (c : Coll) (from_ : Option PortIx) (ident : W32) (p : CtrlPay) (h : Kept s t) : Kept s (State.flood t c from_ ident p) := by
  unfold State.flood
  try dsimp only
  repeat' (first | exact h | with_reducible apply sendRank_kept | with_reducible refine kept_foldl (fun _ _ h => ?_) _ ?_ | fail_if_no_progress with_reducible refine kept_mk rfl rfl rfl rfl rfl rfl rfl rfl ?_ | split)

/-- State.newIdent keeps. -/
theorem newIdent_kept  (h : Kept s t) : Kept s (State.newIdent t).2 := by
  unfold State.newIdent
  try dsimp only
  repeat' (first | exact h | fail_if_no_progress with_reducible refine kept_mk rfl rfl rfl rfl rfl rfl rfl rfl ?_ | split)

/-- State.endColl keeps. -/
theorem endColl_kept (c : Coll) (code : Nat) (rank : BitVec 16) (second : Option W32) (h : Kept s t) : Kept s (State.endColl t c code rank second) := by
  unfold State.endColl
  try dsimp only
  repeat' (first | exact h | with_reducible apply answer_kept | with_reducible apply setUnit_kept | with_reducible refine kept_foldl (fun _ _ h => ?_) _ ?_ | fail_if_no_progress with_reducible refine kept_mk rfl rfl rfl rfl rfl rfl rfl rfl ?_ | split)

/-- State.abortColl keeps. -/
theorem abortColl_kept (c : Coll) (code : Nat) (rank : BitVec 16) (second : Option W32) (h : Kept s t) : Kept s (State.abortColl t c code rank second) := by
  unfold State.abortColl
  try dsimp only
  repeat' (first | exact h | with_reducible apply endColl_kept | with_reducible apply newIdent_kept | with_reducible apply flood_kept | split)

/-- State.pumpChunk keeps. -/
theorem pumpChunk_kept (c : Coll) (i : Nat) (ch : ChunkD) (h : Kept s t) : Kept s (t.pumpChunk c i ch).1 := by
  have go : ∀ (x : State × Coll) (r : Nat) (g : Bool), Kept s x.1 →
      Kept s (if x.2.readyIn.contains r && !x.2.sent.contains (i, g, r) then
        (x.1.sendChunk x.2 r i ch g, { x.2 with sent := (i, g, r) :: x.2.sent }) else x).1 := by
    intro x r g k
    split
    · exact sendChunk_kept _ _ _ _ _ k
    · exact k
  unfold State.pumpChunk
  dsimp only
  split
  · split
    · exact h
    · exact kept_foldl_fst (fun x r k => go x r true k) _ h
  · split
    · split
      · exact go (t, c) _ false h
      · exact h
    · exact h

/-- State.pumpColl keeps. -/
theorem pumpColl_kept (c : Coll) (h : Kept s t) : Kept s (t.pumpColl c) := by
  unfold State.pumpColl
  exact setColl_kept _ (kept_foldl_fst (fun x _ k => pumpChunk_kept _ _ _ k) _ (x := (t, c)) h)

/-- State.fuseChunk keeps. -/
theorem fuseChunk_kept (c : Coll) (op : Nat) (off : Nat) (d : List PByte) (h : Kept s t) : Kept s (State.fuseChunk t c op off d) := by
  unfold State.fuseChunk
  try dsimp only
  repeat' (first | exact h | with_reducible apply offerChunk_kept | with_reducible refine kept_foldl (fun _ _ h => ?_) _ ?_ | fail_if_no_progress with_reducible refine kept_mk rfl rfl rfl rfl rfl rfl rfl rfl ?_ | split)

/-- State.takeChunk keeps. -/
theorem takeChunk_kept (c : Coll) (from_ : Nat) (ci : ChunkInfo) (h : Kept s t) : Kept s (State.takeChunk t c from_ ci) := by
  unfold State.takeChunk
  try dsimp only
  repeat' (first | exact h | with_reducible apply fuseChunk_kept | with_reducible apply pumpColl_kept | with_reducible apply vwriteMem_kept | fail_if_no_progress with_reducible refine kept_mk rfl rfl rfl rfl rfl rfl rfl rfl ?_ | split)

/-- State.takeReady keeps. -/
theorem takeReady_kept (c : Coll) (m : ConvoyMsg) (r : ReadyInfo) (h : Kept s t) : Kept s (State.takeReady t c m r) := by
  unfold State.takeReady
  try dsimp only
  repeat' (first | exact h | with_reducible apply pumpColl_kept | with_reducible apply abortColl_kept | fail_if_no_progress with_reducible refine kept_mk rfl rfl rfl rfl rfl rfl rfl rfl ?_ | split)

/-- State.refuseBack keeps. -/
theorem refuseBack_kept (n : PortIx) (m : ConvoyMsg) (epoch : Byte) (h : Kept s t) : Kept s (State.refuseBack t n m epoch) := by
  unfold State.refuseBack
  try dsimp only
  repeat' (first | exact h | with_reducible apply sendPay_kept | split)

/-- State.readyMsg keeps. -/
theorem readyMsg_kept (n : PortIx) (m : ConvoyMsg) (r : ReadyInfo) (h : Kept s t) : Kept s (State.readyMsg t n m r) := by
  unfold State.readyMsg
  try dsimp only
  repeat' (first | exact h | with_reducible apply refuseBack_kept | with_reducible apply takeReady_kept | fail_if_no_progress with_reducible refine kept_mk rfl rfl rfl rfl rfl rfl rfl rfl ?_ | split)

/-- State.chunkMsg keeps. -/
theorem chunkMsg_kept (n : PortIx) (m : ConvoyMsg) (ci : ChunkInfo) (h : Kept s t) : Kept s (State.chunkMsg t n m ci) := by
  unfold State.chunkMsg
  try dsimp only
  repeat' (first | exact h | with_reducible apply refuseBack_kept | with_reducible apply takeChunk_kept | fail_if_no_progress with_reducible refine kept_mk rfl rfl rfl rfl rfl rfl rfl rfl ?_ | split)

/-- State.refuseMsg keeps. -/
theorem refuseMsg_kept (m : ConvoyMsg) (rank : Nat) (h : Kept s t) : Kept s (State.refuseMsg t m rank) := by
  unfold State.refuseMsg
  try dsimp only
  repeat' (first | exact h | with_reducible apply endColl_kept | with_reducible apply setColl_kept | with_reducible apply sendRank_kept | with_reducible apply latch_kept | fail_if_no_progress with_reducible refine kept_mk rfl rfl rfl rfl rfl rfl rfl rfl ?_ | split)

/-- State.ctrlGate keeps. -/
theorem ctrlGate_kept (m : ConvoyMsg) (ident : W32) (h : Kept s t) : Kept s (State.ctrlGate t m ident).1 := by
  unfold State.ctrlGate
  try dsimp only
  repeat' (first | exact h | fail_if_no_progress with_reducible refine kept_mk rfl rfl rfl rfl rfl rfl rfl rfl ?_ | split)

/-- State.forward keeps. -/
theorem forward_kept (n : PortIx) (m : ConvoyMsg) (ident : W32) (p : CtrlPay) (h : Kept s t) : Kept s (State.forward t n m ident p) := by
  unfold State.forward
  try dsimp only
  repeat' (first | exact h | with_reducible apply flood_kept | fail_if_no_progress with_reducible refine kept_mk rfl rfl rfl rfl rfl rfl rfl rfl ?_ | split)

/-- State.abortMsg keeps. -/
theorem abortMsg_kept (n : PortIx) (m : ConvoyMsg) (c : CtrlInfo) (h : Kept s t) : Kept s (State.abortMsg t n m c) := by
  unfold State.abortMsg
  try dsimp only
  repeat' (first | exact h | with_reducible apply forward_kept | with_reducible apply ctrlGate_kept | with_reducible apply endColl_kept | fail_if_no_progress with_reducible refine kept_mk rfl rfl rfl rfl rfl rfl rfl rfl ?_ | split)

/-- State.memberFailed keeps. -/
theorem memberFailed_kept (fgid : W32) (epoch : Byte) (rank : BitVec 16) (h : Kept s t) : Kept s (State.memberFailed t fgid epoch rank) := by
  unfold State.memberFailed
  try dsimp only
  repeat' (first | exact h | with_reducible apply endColl_kept | with_reducible refine kept_foldl (fun _ _ h => ?_) _ ?_ | fail_if_no_progress with_reducible refine kept_mk rfl rfl rfl rfl rfl rfl rfl rfl ?_ | split)

/-- State.memberFailMsg keeps. -/
theorem memberFailMsg_kept (n : PortIx) (m : ConvoyMsg) (c : CtrlInfo) (h : Kept s t) : Kept s (State.memberFailMsg t n m c) := by
  unfold State.memberFailMsg
  try dsimp only
  repeat' (first | exact h | with_reducible apply memberFailed_kept | with_reducible apply forward_kept | with_reducible apply ctrlGate_kept | split)

/-- State.slowMsg keeps. -/
theorem slowMsg_kept (n : PortIx) (m : ConvoyMsg) (c : CtrlInfo) (h : Kept s t) : Kept s (State.slowMsg t n m c) := by
  unfold State.slowMsg
  try dsimp only
  repeat' (first | exact h | with_reducible apply forward_kept | with_reducible apply ctrlGate_kept | with_reducible apply setColl_kept | fail_if_no_progress with_reducible refine kept_mk rfl rfl rfl rfl rfl rfl rfl rfl ?_ | split)

/-- State.injectFail keeps. -/
theorem injectFail_kept (c : Coll) (rank : BitVec 16) (h : Kept s t) : Kept s (State.injectFail t c rank) := by
  unfold State.injectFail
  try dsimp only
  repeat' (first | exact h | with_reducible apply newIdent_kept | with_reducible apply flood_kept | split)

/-- State.queueColl keeps. -/
theorem queueColl_kept (p : Nat) (c : Nat) (req : CollReq) (reply : ReplyTo) (h : Kept s t) (e : State.queueColl t p c req reply = some u) : Kept s u := by
  unfold State.queueColl at e
  try dsimp only at e
  repeat' (first | exact h | fail_if_no_progress with_reducible refine kept_mk rfl rfl rfl rfl rfl rfl rfl rfl ?_ | split | (cases e) | split at e | (injection e; subst u))

/-- State.setupFused keeps. -/
theorem setupFused_kept (c : Coll) (g : Nat) (k : Nat) (h : Kept s t) : Kept s (t.setupFused c g k).1 := by
  induction k with
  | zero => exact h
  | succ k ih =>
    unfold State.setupFused
    dsimp only
    split
    · exact ih
    · exact stratLast_kept _ _ _ _ _ ih
    · exact setUnit_kept _ _ ih

/-- State.runColl keeps. -/
theorem runColl_kept (c : Coll) (h : Kept s t) : Kept s (State.runColl t c) := by
  unfold State.runColl
  try dsimp only
  repeat' (first | exact h | with_reducible apply sendRank_kept | with_reducible refine kept_foldl (fun _ _ h => ?_) _ ?_ | fail_if_no_progress with_reducible refine kept_mk rfl rfl rfl rfl rfl rfl rfl rfl ?_ | split)

/-- State.takeHeld keeps. -/
theorem takeHeld_kept (c : Coll) (held : List (ConvoyMsg × ReadyInfo)) (h : Kept s t) : Kept s (State.takeHeld t c held) := by
  unfold State.takeHeld
  try dsimp only
  repeat' (first | exact h | with_reducible apply takeReady_kept | with_reducible refine kept_foldl (fun _ _ h => ?_) _ ?_ | fail_if_no_progress with_reducible refine kept_mk rfl rfl rfl rfl rfl rfl rfl rfl ?_ | split)

/-- State.goColl keeps. -/
theorem goColl_kept (c : Coll) (h : Kept s t) : Kept s (t.goColl c) := by
  have fused : ∀ g n, Kept s (t.setupFused c g n).1 := fun g n => setupFused_kept c g n h
  unfold State.goColl
  dsimp only
  split
  · revert fused
    generalize State.setupFused t c = f
    intro fused
    split
    · exact abortColl_kept _ _ _ _ (kept_same (fused _ _) rfl rfl rfl rfl rfl rfl rfl rfl)
    · exact takeHeld_kept _ _ (runColl_kept _ (fused _ _))
  · exact takeHeld_kept _ _ (runColl_kept _ h)

/-- State.startColl keeps. -/
theorem startColl_kept  (h : Kept s t) : Kept s (State.startColl t) := by
  unfold State.startColl
  try dsimp only
  repeat' (first | exact h | with_reducible apply goColl_kept | with_reducible apply endColl_kept | fail_if_no_progress with_reducible refine kept_mk rfl rfl rfl rfl rfl rfl rfl rfl ?_ | split)

/-- State.portLost keeps. -/
theorem portLost_kept (n : PortIx) (h : Kept s t) : Kept s (t.portLost n) := by
  unfold State.portLost
  dsimp only
  have h1 : ∀ x, Kept s ((t.setPort n.val x).latch n.val) := fun x => latch_kept _ (setPort_kept _ _ h)
  split
  · exact kept_foldl (fun _ _ k => sendPay_kept _ _ k) _ (h1 _)
  · refine kept_foldl (fun v x k => ?_) _ (kept_foldl (fun v x k => ?_) _ (h1 _))
    · refine kept_foldl (fun v x k => ?_) _ k
      split
      · exact k
      · split
        · exact k
        · split
          · exact k
          · split
            · exact k
            · exact injectFail_kept _ _ k
    · split
      · exact endColl_kept _ _ _ _ k
      · exact k

/-- State.stormColls keeps. -/
theorem stormColls_kept (k : Nat) (h : Kept s t) : Kept s (State.stormColls t k) := by
  unfold State.stormColls
  try dsimp only
  repeat' (first | exact h | with_reducible apply injectFail_kept | with_reducible apply endColl_kept | with_reducible refine kept_foldl (fun _ _ h => ?_) _ ?_ | split)

/-- State.slowNotices keeps. -/
theorem slowNotices_kept (k : Nat) (level : BitVec 2) (h : Kept s t) : Kept s (State.slowNotices t k level) := by
  unfold State.slowNotices
  try dsimp only
  repeat' (first | exact h | with_reducible apply newIdent_kept | with_reducible apply flood_kept | with_reducible apply setColl_kept | with_reducible refine kept_foldl (fun _ _ h => ?_) _ ?_ | fail_if_no_progress with_reducible refine kept_mk rfl rfl rfl rfl rfl rfl rfl rfl ?_ | split)

/-- State.stkRec keeps. -/
theorem stkRec_kept (k : Nat) (typ : Nat) (flags : Nat) (aux : Nat) (row : Nat) (addr : Nat) (pages : List W32) (h : Kept s t) : Kept s (State.stkRec t k typ flags aux row addr pages) := by
  unfold State.stkRec
  try dsimp only
  repeat' (first | exact h | with_reducible apply drawn_kept | with_reducible apply modStack_kept | split)

/-- State.candidate keeps. -/
theorem candidate_kept (k : Nat) (row : Nat) (addr : Nat) (ue : Bool) (scrub : Bool) (h : Kept s t) : Kept s (State.candidate t k row addr ue scrub) := by
  unfold State.candidate
  try dsimp only
  repeat' (first | exact h | with_reducible apply stkRec_kept | with_reducible apply modStack_kept | fail_if_no_progress with_reducible refine kept_mk rfl rfl rfl rfl rfl rfl rfl rfl ?_ | split)

/-- State.corrected keeps. -/
theorem corrected_kept (k addr : Nat) (scrub : Bool) (h : Kept s t) : Kept s (t.corrected k addr scrub) := by
  have h1 : ∀ x, Kept s (t.setStack k x) := fun x => setStack_kept _ _ h
  unfold State.corrected
  exact kept_ite (kept_ite (h1 _) (stkRec_kept _ _ _ _ _ _ _ (modStack_kept _ _ (h1 _))))
    (kept_ite (candidate_kept _ _ _ _ _ (modStack_kept _ _ (h1 _))) (modStack_kept _ _ (h1 _)))

/-- State.uncorrectable keeps. -/
theorem uncorrectable_kept (k addr : Nat) (scrub : Bool) (h : Kept s t) : Kept s (t.uncorrectable k addr scrub) := by
  have h1 : ∀ a b n x, Kept s (((t.memWrite a b).drawn n).setStack k x) :=
    fun a b n x => setStack_kept _ _ (drawn_kept _ (memWrite_kept _ _ h))
  unfold State.uncorrectable
  exact kept_ite (stkRec_kept _ _ _ _ _ _ _ (h1 _ _ _ _)) (candidate_kept _ _ _ _ _ (h1 _ _ _ _))

/-- State.sectorErr keeps. -/
theorem sectorErr_kept (k addr symbols : Nat) (scrub : Bool) (h : Kept s t) : Kept s (t.sectorErr k addr symbols scrub) := by
  unfold State.sectorErr
  refine kept_ite h ?_
  split
  · exact h
  · exact corrected_kept _ _ _ h
  · exact uncorrectable_kept _ _ _ h
  · exact kept_ite (uncorrectable_kept _ _ _ (drawn_kept _ h)) (corrected_kept _ _ _ (drawn_kept _ (memWrite_kept _ _ (drawn_kept _ h))))

/-- State.accessErrs keeps. -/
theorem accessErrs_kept (k a n : Nat) (whole : Nat → Bool) (l : List (Nat × Nat)) (h : Kept s t) : Kept s (t.accessErrs k a n whole l) := by
  induction l generalizing t with
  | nil => exact h
  | cons e l ih => exact ih (kept_ite (sectorErr_kept _ _ _ _ h) h)

/-- State.stackArrive keeps. -/
theorem stackArrive_kept (r : Req) (h : Kept s t) : Kept s (State.stackArrive t r) := by
  unfold State.stackArrive
  try dsimp only
  repeat' (first | exact h | with_reducible apply respond_kept | with_reducible apply modStack_kept | fail_if_no_progress with_reducible refine kept_mk rfl rfl rfl rfl rfl rfl rfl rfl ?_ | split)

/-- State.stackPerform keeps. -/
theorem stackPerform_kept (k : Nat) (r : Req) (ecc : List (Nat × Nat)) (h : Kept s t) : Kept s (State.stackPerform t k r ecc) := by
  unfold State.stackPerform
  try dsimp only
  repeat' (first | exact h | with_reducible apply accessErrs_kept | with_reducible apply respond_kept | with_reducible apply memWrite_kept | fail_if_no_progress with_reducible refine kept_mk rfl rfl rfl rfl rfl rfl rfl rfl ?_ | split)

/-- State.stackIssue keeps. -/
theorem stackIssue_kept (k : Nat) (cls : Nat) (nth : Nat) (ecc : List (Nat × Nat)) (h : Kept s t) : Kept s (State.stackIssue t k cls nth ecc) := by
  unfold State.stackIssue
  try dsimp only
  repeat' (first | exact h | with_reducible apply stackPerform_kept | with_reducible apply chargeStack_kept | with_reducible apply setStack_kept | fail_if_no_progress with_reducible refine kept_mk rfl rfl rfl rfl rfl rfl rfl rfl ?_ | split)

/-- State.scrubOne keeps. -/
theorem scrubOne_kept (k symbols : Nat) (h : Kept s t) : Kept s (t.scrubOne k symbols) := by
  unfold State.scrubOne
  exact kept_ite h (sectorErr_kept _ _ _ _ (chargeStack_kept _ _ _ (setStack_kept _ _ h)))

/-- State.enterStorm keeps. -/
theorem enterStorm_kept (k : Nat) (h : Kept s t) : Kept s (State.enterStorm t k) := by
  unfold State.enterStorm
  try dsimp only
  repeat' (first | exact h | with_reducible apply stormColls_kept | with_reducible apply stratAbandon_kept | with_reducible apply respond_kept | with_reducible apply drawn_kept | with_reducible apply modStack_kept | with_reducible refine kept_foldl (fun _ _ h => ?_) _ ?_ | fail_if_no_progress with_reducible refine kept_mk rfl rfl rfl rfl rfl rfl rfl rfl ?_ | split)

/-- State.setLevel keeps. -/
theorem setLevel_kept (k : Nat) (new : BitVec 2) (h : Kept s t) : Kept s (State.setLevel t k new) := by
  unfold State.setLevel
  try dsimp only
  repeat' (first | exact h | with_reducible apply enterStorm_kept | with_reducible apply stkRec_kept | with_reducible apply slowNotices_kept | with_reducible apply modStack_kept | fail_if_no_progress with_reducible refine kept_mk rfl rfl rfl rfl rfl rfl rfl rfl ?_ | split)

/-- State.stackSample keeps. -/
theorem stackSample_kept (k : Nat) (t' : Int) (h : Kept s t) : Kept s (State.stackSample t k t') := by
  unfold State.stackSample
  try dsimp only
  repeat' (first | exact h | with_reducible apply setLevel_kept | with_reducible apply setStack_kept | fail_if_no_progress with_reducible refine kept_mk rfl rfl rfl rfl rfl rfl rfl rfl ?_ | split)

/-- State.stackResume keeps. -/
theorem stackResume_kept (k : Nat) (h : Kept s t) : Kept s (State.stackResume t k) := by
  unfold State.stackResume
  try dsimp only
  repeat' (first | exact h | with_reducible apply setLevel_kept | with_reducible apply setStack_kept | fail_if_no_progress with_reducible refine kept_mk rfl rfl rfl rfl rfl rfl rfl rfl ?_ | split)

/-- State.forwardVec keeps. -/
theorem forwardVec_kept  (h : Kept s t) : Kept s (State.forwardVec t) := by
  unfold State.forwardVec
  try dsimp only
  repeat' (first | exact h | with_reducible apply sendMsix_kept | split)

/-- State.seeLine8 keeps. -/
theorem seeLine8_kept  (h : Kept s t) : Kept s (State.seeLine8 t) := by
  unfold State.seeLine8
  try dsimp only
  repeat' (first | exact h | with_reducible apply forwardVec_kept | fail_if_no_progress with_reducible refine kept_mk rfl rfl rfl rfl rfl rfl rfl rfl ?_ | split)

/-- State.icuClaim keeps. -/
theorem icuClaim_kept (n : Nat) (h : Kept s t) : Kept s (State.icuClaim t n).2 := by
  unfold State.icuClaim
  try dsimp only
  repeat' (first | exact h | fail_if_no_progress with_reducible refine kept_mk rfl rfl rfl rfl rfl rfl rfl rfl ?_ | split)

/-- State.icuComplete keeps. -/
theorem icuComplete_kept (n : Nat) (src : Nat) (h : Kept s t) : Kept s (State.icuComplete t n src) := by
  unfold State.icuComplete
  try dsimp only
  repeat' (first | exact h | with_reducible apply seeLine8_kept | with_reducible apply forwardVec_kept | fail_if_no_progress with_reducible refine kept_mk rfl rfl rfl rfl rfl rfl rfl rfl ?_ | split)

/-- State.targetWrite keeps. -/
theorem targetWrite_kept (n : Nat) (r : Nat) (v : W64) (h : Kept s t) : Kept s (State.targetWrite t n r v) := by
  unfold State.targetWrite
  try dsimp only
  repeat' (first | exact h | with_reducible apply icuComplete_kept | fail_if_no_progress with_reducible refine kept_mk rfl rfl rfl rfl rfl rfl rfl rfl ?_ | split)

/-- icuRc keeps. -/
theorem icuRc_kept (off : Nat) (h : Kept s t) : Kept s (icuRc t off) := by
  unfold icuRc
  generalize arrIx off 0x5000 0x10 10 = x
  refine kept_ite (kept_same h rfl rfl rfl rfl rfl rfl rfl rfl) ?_
  split
  · exact kept_ite (seeLine8_kept (icuClaim_kept _ h)) h
  · exact h

/-- icuWrite keeps. -/
theorem icuWrite_kept (off : Nat) (v : W64) (h : Kept s t) : Kept s (icuWrite t off v) := by
  have hi : ∀ b : IcuBlk, b.prio = t.icu.prio → Kept s { t with icu := b } := fun b e => kept_same h rfl rfl rfl rfl rfl rfl rfl e
  have hp : ∀ k x, Kept s { t with icu := { t.icu with prio := tset 0 t.icu.prio k x } } := fun k x =>
    h.trans ⟨rfl, rfl, fun o => ⟨o.memory, o.layout, o.hamper, o.trace, o.sessions, wf_tset o.priorities⟩⟩
  unfold icuWrite
  generalize arrIx off 0x5000 0x10 10 = x
  refine seeLine8_kept ?_
  refine kept_ite (hi _ rfl) (kept_ite (hi _ rfl) (kept_ite (hp _ _) (kept_ite (hi _ rfl) (kept_ite (hi _ rfl) ?_))))
  split
  · exact targetWrite_kept _ _ _ h
  · exact h

/-- State.hostRequest keeps. -/
theorem hostRequest_kept (r : Req) (h : Kept s t) : Kept s (State.hostRequest t r) := by
  unfold State.hostRequest
  try dsimp only
  repeat' (first | exact h | with_reducible apply respond_kept | with_reducible apply emit_kept | fail_if_no_progress with_reducible refine kept_mk rfl rfl rfl rfl rfl rfl rfl rfl ?_ | split)

/-- State.sendReq keeps. -/
theorem sendReq_kept (r : Req) (h : Kept s t) : Kept s (State.sendReq t r) := by
  unfold State.sendReq
  try dsimp only
  repeat' (first | exact h | with_reducible apply hostRequest_kept | fail_if_no_progress with_reducible refine kept_mk rfl rfl rfl rfl rfl rfl rfl rfl ?_ | split)

/-- State.copyEnded keeps. -/
theorem copyEnded_kept (n : Nat) (h : Kept s t) : Kept s (State.copyEnded t n) := by
  unfold State.copyEnded
  try dsimp only
  repeat' (first | exact h | with_reducible apply faultStream_kept | with_reducible apply completeCmd_kept | fail_if_no_progress with_reducible refine kept_mk rfl rfl rfl rfl rfl rfl rfl rfl ?_ | split)

/-- State.chanEnd keeps. -/
theorem chanEnd_kept (ch : Chan) (e : DmaEnd) (h : Kept s t) : Kept s (State.chanEnd t ch e) := by
  unfold State.chanEnd
  try dsimp only
  repeat' (first | exact h | with_reducible apply copyEnded_kept | with_reducible apply deliverEvt_kept | with_reducible apply setChan_kept | with_reducible apply modTile_kept | fail_if_no_progress with_reducible refine kept_mk rfl rfl rfl rfl rfl rfl rfl rfl ?_ | split)

/-- State.chanIssue keeps. -/
theorem chanIssue_kept (ch : Chan) (h : Kept s t) : Kept s (State.chanIssue t ch) := by
  unfold State.chanIssue
  try dsimp only
  repeat' (first | exact h | with_reducible apply chanEnd_kept | with_reducible apply sendReq_kept | fail_if_no_progress with_reducible refine kept_mk rfl rfl rfl rfl rfl rfl rfl rfl ?_ | split)

/-- State.chanRetry keeps. -/
theorem chanRetry_kept (ch : Chan) (burst : Nat) (h : Kept s t) : Kept s (State.chanRetry t ch burst) := by
  unfold State.chanRetry
  try dsimp only
  repeat' (first | exact h | with_reducible apply chanEnd_kept | with_reducible apply sendReq_kept | fail_if_no_progress with_reducible refine kept_mk rfl rfl rfl rfl rfl rfl rfl rfl ?_ | split)

/-- State.chanResponse keeps. -/
theorem chanResponse_kept (ch : Chan) (i : Nat) (h : Kept s t) : Kept s (State.chanResponse t ch i) := by
  unfold State.chanResponse
  try dsimp only
  repeat' (first | exact h | with_reducible apply chanEnd_kept | with_reducible apply drawn_kept | fail_if_no_progress with_reducible refine kept_mk rfl rfl rfl rfl rfl rfl rfl rfl ?_ | split)

/-- State.sysCtrl keeps. -/
theorem sysCtrl_kept (n : Fin 64) (v : W64) (h : Kept s t) : Kept s (State.sysCtrl t n v) := by
  unfold State.sysCtrl
  try dsimp only
  repeat' (first | exact h | with_reducible apply chanEnd_kept | with_reducible apply drawn_kept | split)

/-- sdmaWrite keeps. -/
theorem sdmaWrite_kept (g : Tag) (o : Nat) (p : Part) (v : W64) (h : Kept s t) : Kept s (sdmaWrite t g o p v).1 := by
  unfold sdmaWrite
  try dsimp only
  repeat' (first | exact h | with_reducible apply sysCtrl_kept | with_reducible apply setChan_kept | fail_if_no_progress with_reducible refine kept_mk rfl rfl rfl rfl rfl rfl rfl rfl ?_ | split)

/-- State.extend keeps. -/
theorem extend_kept (n : Nat) (d : BitVec 384) (h : Kept s t) : Kept s (State.extend t n d) := by
  unfold State.extend
  try dsimp only
  repeat' (first | exact h | fail_if_no_progress with_reducible refine kept_mk rfl rfl rfl rfl rfl rfl rfl rfl ?_ | split)

/-- State.report keeps. -/
theorem report_kept (nonce : BitVec 256) (h : Kept s t) : Kept s (State.report t nonce).2 := by
  unfold State.report
  try dsimp only
  repeat' (first | exact h | fail_if_no_progress with_reducible refine kept_mk rfl rfl rfl rfl rfl rfl rfl rfl ?_ | split)

/-- State.endSession keeps. -/
theorem endSession_kept  (h : Kept s t) : Kept s (State.endSession t) := by
  unfold State.endSession
  try dsimp only
  repeat' (first | exact h | fail_if_no_progress with_reducible refine kept_mk rfl rfl rfl rfl rfl rfl rfl rfl ?_ | split)

/-- State.keyInstall keeps. -/
theorem keyInstall_kept (g : W32) (h : Kept s t) : Kept s (State.keyInstall t g).2 := by
  unfold State.keyInstall
  try dsimp only
  repeat' (first | exact h | with_reducible apply slot_kept | fail_if_no_progress with_reducible refine kept_mk rfl rfl rfl rfl rfl rfl rfl rfl ?_ | split)

/-- State.keyRetire keeps. -/
theorem keyRetire_kept (g : W32) (h : Kept s t) : Kept s (State.keyRetire t g).2 := by
  unfold State.keyRetire
  try dsimp only
  repeat' (first | exact h | with_reducible apply slot_kept | fail_if_no_progress with_reducible refine kept_mk rfl rfl rfl rfl rfl rfl rfl rfl ?_ | split)

/-- State.cryptEnds keeps. -/
theorem cryptEnds_kept (slot : Nat) (gen : W32) (session : Nat) (h : Kept s t) : Kept s (State.cryptEnds t slot gen session) := by
  unfold State.cryptEnds
  try dsimp only
  repeat' (first | exact h | with_reducible apply slot_kept | fail_if_no_progress with_reducible refine kept_mk rfl rfl rfl rfl rfl rfl rfl rfl ?_ | split)

/-- State.sealChunks keeps. -/
theorem sealChunks_kept (g : Tag) (src count w ch0 slot session : Nat) (l : List Nat) (h : Kept s t) :
    Kept s (t.sealChunks g src count w ch0 slot session l).1 := by
  induction l generalizing t with
  | nil => exact h
  | cons j l ih =>
    unfold State.sealChunks
    dsimp only
    split
    · exact poisonHub_kept _ h
    · split
      · exact h
      · exact ih (emit_kept _ (emit_kept _ (kept_same h rfl rfl rfl rfl rfl rfl rfl rfl)))

/-- State.unsealChunk keeps. -/
theorem unsealChunk_kept (g : Tag) (dst : Nat) (count : Nat) (w : Nat) (slot : Nat) (session : Nat) (j : Nat) (hdr : List PByte) (ct : List PByte) (h : Kept s t) : Kept s (State.unsealChunk t g dst count w slot session j hdr ct).1 := by
  unfold State.unsealChunk
  try dsimp only
  repeat' (first | exact h | with_reducible apply slot_kept | with_reducible apply hubWrite_kept | fail_if_no_progress with_reducible refine kept_mk rfl rfl rfl rfl rfl rfl rfl rfl ?_ | split)

/-- State.tileClear keeps. -/
theorem tileClear_kept (t' : Nat) (h : Kept s t) : Kept s (State.tileClear t t') := by
  unfold State.tileClear
  try dsimp only
  repeat' (first | exact h | with_reducible apply setTile_kept | fail_if_no_progress with_reducible refine kept_mk rfl rfl rfl rfl rfl rfl rfl rfl ?_ | split)

/-- State.spdm keeps. -/
theorem spdm_kept (code : Nat) (d : List Byte) (h : Kept s t) : Kept s (State.spdm t code d) := by
  unfold State.spdm
  try dsimp only
  repeat' (first | exact h | with_reducible apply emit_kept | split)

/-- State.spdmErr keeps. -/
theorem spdmErr_kept (code : Nat) (h : Kept s t) : Kept s (State.spdmErr t code) := by
  unfold State.spdmErr
  try dsimp only
  repeat' (first | exact h | with_reducible apply emit_kept | split)

/-- State.vendor keeps. -/
theorem vendor_kept (status : Nat) (v : W64) (h : Kept s t) : Kept s (State.vendor t status v) := by
  unfold State.vendor
  try dsimp only
  repeat' (first | exact h | with_reducible apply emit_kept | split)

/-- secWrite keeps. -/
theorem secWrite_kept (off : Nat) (p : Part) (v : W64) (h : Kept s t) : Kept s (secWrite t off p v) := by
  unfold secWrite
  try dsimp only
  repeat' (first | exact h | with_reducible apply tileClear_kept | with_reducible apply extend_kept | fail_if_no_progress with_reducible refine kept_mk rfl rfl rfl rfl rfl rfl rfl rfl ?_ | split)

/-- State.startGroups keeps. -/
theorem startGroups_kept (p : Nat) (h : Kept s t) : Kept s (State.startGroups t p) := by
  unfold State.startGroups
  try dsimp only
  repeat' (first | exact h | with_reducible refine kept_foldl (fun _ _ h => ?_) _ ?_ | fail_if_no_progress with_reducible refine kept_mk rfl rfl rfl rfl rfl rfl rfl rfl ?_ | split)

/-- State.requestNoon keeps. -/
theorem requestNoon_kept (t' : Nat) (h : Kept s t) : Kept s (State.requestNoon t t') := by
  unfold State.requestNoon
  try dsimp only
  repeat' (first | exact h | with_reducible apply startGroups_kept | with_reducible apply setTile_kept | fail_if_no_progress with_reducible refine kept_mk rfl rfl rfl rfl rfl rfl rfl rfl ?_ | split)

/-- State.wakeTile keeps. -/
theorem wakeTile_kept (t' : Nat) (h : Kept s t) : Kept s (State.wakeTile t t') := by
  unfold State.wakeTile
  try dsimp only
  repeat' (first | exact h | with_reducible apply setTile_kept | fail_if_no_progress with_reducible refine kept_mk rfl rfl rfl rfl rfl rfl rfl rfl ?_ | split)

/-- State.startTile keeps. -/
theorem startTile_kept (m : Module) (k : Kernel) (h' : W32) (image : Tab W64) (t' : Nat) (h : Kept s t) : Kept s (State.startTile t m k h' image t') := by
  unfold State.startTile
  try dsimp only
  repeat' (first | exact h | with_reducible apply setTile_kept | fail_if_no_progress with_reducible refine kept_mk rfl rfl rfl rfl rfl rfl rfl rfl ?_ | split)

/-- State.startLaunch keeps. -/
theorem startLaunch_kept (i : Nat) (h : Kept s t) : Kept s (State.startLaunch t i) := by
  unfold State.startLaunch
  try dsimp only
  repeat' (first | exact h | with_reducible apply startTile_kept | with_reducible apply setRun_kept | with_reducible apply faultStream_kept | with_reducible refine kept_foldl (fun _ _ h => ?_) _ ?_ | fail_if_no_progress with_reducible refine kept_mk rfl rfl rfl rfl rfl rfl rfl rfl ?_ | split)

/-- State.releaseClaims keeps. -/
theorem releaseClaims_kept (e : StreamEnt) (ts : List Nat) (h : Kept s t) : Kept s (State.releaseClaims t e ts) := by
  unfold State.releaseClaims
  try dsimp only
  repeat' (first | exact h | with_reducible apply modTile_kept | with_reducible refine kept_foldl (fun _ _ h => ?_) _ ?_ | fail_if_no_progress with_reducible refine kept_mk rfl rfl rfl rfl rfl rfl rfl rfl ?_ | split)

/-- State.endLaunch keeps. -/
theorem endLaunch_kept (i : Nat) (h : Kept s t) : Kept s (State.endLaunch t i) := by
  unfold State.endLaunch
  try dsimp only
  repeat' (first | exact h | with_reducible apply releaseClaims_kept | with_reducible apply faultStream_kept | with_reducible apply completeCmd_kept | fail_if_no_progress with_reducible refine kept_mk rfl rfl rfl rfl rfl rfl rfl rfl ?_ | split)

/-- State.startLaunches keeps. -/
theorem startLaunches_kept  (h : Kept s t) : Kept s (State.startLaunches t) := by
  unfold State.startLaunches
  try dsimp only
  repeat' (first | exact h | with_reducible apply startLaunch_kept | with_reducible refine kept_foldl (fun _ _ h => ?_) _ ?_ | split)

/-- State.launchGo keeps. -/
theorem launchGo_kept (i : Nat) (c : StreamCmd) (h' : W32) (k : Kernel) (ov : List (Nat × W64)) (h : Kept s t) : Kept s (State.launchGo t i c h' k ov) := by
  unfold State.launchGo
  try dsimp only
  repeat' (first | exact h | with_reducible apply startLaunch_kept | with_reducible apply requestNoon_kept | with_reducible apply setRun_kept | with_reducible refine kept_foldl (fun _ _ h => ?_) _ ?_ | split)

/-- State.badRead keeps. -/
theorem badRead_kept (i : Nat) (a : Nat) (st : Nat) (h : Kept s t) : Kept s (State.badRead t i a st) := by
  unfold State.badRead
  try dsimp only
  repeat' (first | exact h | with_reducible apply faultStream_kept | with_reducible apply poisonHub_kept | split)

/-- State.patchGo keeps. -/
theorem patchGo_kept (i : Nat) (c : StreamCmd) (m : Module) (k : Kernel) (kn : Nat) (l : List (Nat × W64)) (h : Kept s t) : Kept s (State.patchGo t i c m k kn l) := by
  unfold State.patchGo
  try dsimp only
  repeat' (first | exact h | with_reducible apply faultStream_kept | with_reducible apply completeCmd_kept | fail_if_no_progress with_reducible refine kept_mk rfl rfl rfl rfl rfl rfl rfl rfl ?_ | split)

/-- State.copyGo keeps. -/
theorem copyGo_kept (i : Nat) (c : StreamCmd) (e : StreamEnt) (h : Kept s t) (e : State.copyGo t i c e = some u) : Kept s u := by
  unfold State.copyGo at e
  try dsimp only at e
  repeat' (first | exact h | with_reducible apply sysCtrl_kept | with_reducible apply setRun_kept | with_reducible apply drawn_kept | with_reducible apply setChan_kept | fail_if_no_progress with_reducible refine kept_mk rfl rfl rfl rfl rfl rfl rfl rfl ?_ | split | (cases e) | split at e | (injection e; subst u))

/-- State.cryptFinish keeps. -/
theorem cryptFinish_kept (i : Nat) (c : StreamCmd) (slot : Nat) (gen : W32) (session : Nat) (code : Nat) (hi : Nat) (h : Kept s t) : Kept s (State.cryptFinish t i c slot gen session code hi) := by
  unfold State.cryptFinish
  try dsimp only
  repeat' (first | exact h | with_reducible apply cryptEnds_kept | with_reducible apply faultStream_kept | with_reducible apply completeCmd_kept | split)

/-- State.unsealGo keeps. -/
theorem unsealGo_kept (i : Nat) (c : StreamCmd) (slot : Nat) (gen : W32) (session : Nat) (j : Nat) (l : List (List PByte × List PByte))
    (h : Kept s t) : Kept s (t.unsealGo i c slot gen session j l) := by
  induction l generalizing t j with
  | nil =>
    unfold State.unsealGo
    exact kept_ite (cryptFinish_kept _ _ _ _ _ _ _ h) (kept_ite (cryptFinish_kept _ _ _ _ _ _ _ h) (setRun_kept _ _ _ _ h))
  | cons x l ih =>
    unfold State.unsealGo
    exact kept_ite (cryptFinish_kept _ _ _ _ _ _ _ h) (kept_ite (cryptFinish_kept _ _ _ _ _ _ _ h)
      (kept_ite (ih _ (unsealChunk_kept _ _ _ _ _ _ _ _ _ h)) (cryptFinish_kept _ _ _ _ _ _ _ (unsealChunk_kept _ _ _ _ _ _ _ _ _ h))))

/-- State.startCmd keeps. -/
theorem startCmd_kept (i : Nat) (c : StreamCmd) (host : List PByte) (chunks : List (List PByte × List PByte)) (h : Kept s t)
    (e : t.startCmd i c host chunks = some u) : Kept s u := by
  have h1 : Kept s (t.setRun i c .barrier .active) := setRun_kept _ _ _ _ h
  unfold State.startCmd at e
  dsimp only at e
  revert e h1
  generalize t.setRun i c .barrier .active = v
  intro e h1
  have hk : ∀ b, Kept s { v with sec := b } := fun b => kept_same h1 rfl rfl rfl rfl rfl rfl rfl rfl
  split at e
  · cases e; exact faultStream_kept _ _ _ h1
  · split at e
    · cases e; exact completeCmd_kept _ _ h1
    · split at e
      · cases e; exact faultStream_kept _ _ _ h1
      · split at e
        · cases e; exact faultStream_kept _ _ _ h1
        · split at e
          · cases e
          · cases e; exact launchGo_kept _ _ _ _ _ h1
    · split at e
      · cases e; exact faultStream_kept _ _ _ h1
      · split at e
        · cases e; exact patchGo_kept _ _ _ _ _ _ h1
        · split at e
          · cases e
          · cases e; exact patchGo_kept _ _ _ _ _ _ h1
          · cases e; exact badRead_kept _ _ _ h1
    · exact copyGo_kept _ _ _ h e
    · split at e
      · cases e; exact faultStream_kept _ _ _ h1
      · cases e; exact cryptFinish_kept _ _ _ _ _ _ _ (sealChunks_kept _ _ _ _ _ _ _ _ (hk _))
    · split at e
      · cases e; exact faultStream_kept _ _ _ h1
      · cases e; exact unsealGo_kept _ _ _ _ _ _ _ (setRun_kept _ _ _ _ (hk _))
    · cases e; exact completeCmd_kept _ _ (evPut_kept _ _ _ _ _ h1)
    · split at e
      · cases e; exact completeCmd_kept _ _ h1
      · cases e; exact setRun_kept _ _ _ _ h1
    · split at e
      · cases e; exact faultStream_kept _ _ _ h1
      · split at e
        · cases e; exact completeCmd_kept _ _ h1
        · cases e; exact setRun_kept _ _ _ _ h1
    · split at e
      · cases e
      · next hq => cases e; exact setRun_kept _ _ _ _ (queueUpdate_kept _ _ _ _ _ h1 hq)
    · split at e
      · cases e
      · next hq => cases e; exact setRun_kept _ _ _ _ (queueColl_kept _ _ _ _ h1 hq)

/-- State.streamCmd keeps. -/
theorem streamCmd_kept (i op : Nat) (c : StreamCmd) (host : List PByte) (chunks : List (List PByte × List PByte)) (h : Kept s t) :
    Kept s (t.streamCmd i op c host chunks) := by
  unfold State.streamCmd
  split
  · cases e : t.startCmd i (withOp c op) host chunks with
    | none => exact h
    | some u => exact startCmd_kept _ _ _ _ h e
  · exact h

/-- State.tryStream keeps. -/
theorem tryStream_kept (i : Nat) (host : List PByte) (h : Kept s t) (e : t.tryStream i host = some u) : Kept s u := by
  unfold State.tryStream at e
  dsimp only at e
  split at e
  · cases e
  · exact startCmd_kept _ _ _ _ h e
  · cases e; exact badRead_kept _ _ _ h

/-- State.firstStart keeps. -/
theorem firstStart_kept (host : List PByte) (l : List Nat) (h : Kept s t) : Kept s (t.firstStart host l) := by
  induction l with
  | nil => exact h
  | cons i l ih =>
    unfold State.firstStart
    split
    · next u e => exact kept_same (tryStream_kept _ _ h e) rfl rfl rfl rfl rfl rfl rfl rfl
    · exact ih

/-- State.applyReq keeps. -/
theorem applyReq_kept (i : Nat) (r : StreamReq) (h : Kept s t) : Kept s (State.applyReq t i r) := by
  unfold State.applyReq
  try dsimp only
  repeat' (first | exact h | with_reducible apply faultStream_kept | with_reducible apply setEntry_kept | fail_if_no_progress with_reducible refine kept_mk rfl rfl rfl rfl rfl rfl rfl rfl ?_ | split)

/-- State.streamReq keeps. -/
theorem streamReq_kept (i : Nat) (r : StreamReq) (h : Kept s t) : Kept s (t.streamReq i r) := by
  unfold State.streamReq
  split
  · next u e => exact applyReq_kept _ _ (fetchEntry_kept _ h e)
  · exact kept_same h rfl rfl rfl rfl rfl rfl rfl rfl

/-- State.servePending keeps. -/
theorem servePending_kept (i : Nat) (h : Kept s t) : Kept s (t.servePending i) := by
  unfold State.servePending
  split
  · exact h
  · next u e =>
    exact kept_ite h (kept_foldl (fun _ _ k => applyReq_kept _ _ k) _ (kept_same (fetchEntry_kept _ h e) rfl rfl rfl rfl rfl rfl rfl rfl))

/-- State.waitDone keeps. -/
theorem waitDone_kept (i : Nat) (h : Kept s t) : Kept s (State.waitDone t i) := by
  unfold State.waitDone
  try dsimp only
  repeat' (first | exact h | with_reducible apply completeCmd_kept | fail_if_no_progress with_reducible refine kept_mk rfl rfl rfl rfl rfl rfl rfl rfl ?_ | split)

/-- State.waitTimeout keeps. -/
theorem waitTimeout_kept (i : Nat) (h : Kept s t) : Kept s (State.waitTimeout t i) := by
  unfold State.waitTimeout
  try dsimp only
  repeat' (first | exact h | with_reducible apply faultStream_kept | fail_if_no_progress with_reducible refine kept_mk rfl rfl rfl rfl rfl rfl rfl rfl ?_ | split)

/-- streamWrite keeps. -/
theorem streamWrite_kept (g : Tag) (off : Nat) (p : Part) (v : W64) (h : Kept s t) : Kept s (streamWrite t g off p v) := by
  have hs : ∀ st : StreamBlk, st.hamper = t.stream.hamper → Kept s { t with stream := st } :=
    fun st e => kept_same h rfl rfl rfl rfl e rfl rfl rfl
  unfold streamWrite
  dsimp only
  split
  · exact kept_ite (hs _ rfl) h
  · exact streamReq_kept _ _ (hs _ rfl)
  · split
    · exact streamReq_kept _ _ h
    · exact streamReq_kept _ _ h
    · exact streamReq_kept _ _ h
    · exact h
  · exact hs _ rfl
  · split
    · split
      · exact h
      · split
        · next u e => exact setEntry_kept _ _ (fetchEntry_kept _ h e)
        · exact h
    · exact kept_ite (hs _ rfl) h
    · exact streamReq_kept _ _ h
    · exact h

/-- State.setSlotOf keeps. -/
theorem setSlotOf_kept (i : Nat) (x : StashSlot) (h : Kept s t) : Kept s (State.setSlotOf t i x) := by
  unfold State.setSlotOf
  try dsimp only
  repeat' (first | exact h | fail_if_no_progress with_reducible refine kept_mk rfl rfl rfl rfl rfl rfl rfl rfl ?_ | split)

/-- stashWrite keeps. -/
theorem stashWrite_kept (g : Tag) (o : Nat) (p : Part) (v : W64) (h : Kept s t) : Kept s (stashWrite t g o p v) := by
  unfold stashWrite
  try dsimp only
  repeat' (first | exact h | with_reducible apply setSlotOf_kept | fail_if_no_progress with_reducible refine kept_mk rfl rfl rfl rfl rfl rfl rfl rfl ?_ | split)

/-- State.claimEvt keeps. -/
theorem claimEvt_kept (g : Tag) (v : W32) (h : Kept s t) : Kept s (State.claimEvt t g v) := by
  unfold State.claimEvt
  try dsimp only
  repeat' (first | exact h | fail_if_no_progress with_reducible refine kept_mk rfl rfl rfl rfl rfl rfl rfl rfl ?_ | split)

/-- State.claimTrc keeps. -/
theorem claimTrc_kept (g : Tag) (v : W32) (h : Kept s t) : Kept s (t.claimTrc g v) := by
  refine h.trans ⟨rfl, rfl, fun o => ⟨o.memory, o.layout, o.hamper, ?_, o.sessions, o.priorities⟩⟩
  unfold State.claimTrc
  dsimp only
  split
  · exact Nat.zero_le _
  · exact o.trace

/-- State.setTphHub keeps. -/
theorem setTphHub_kept (n : Nat) (x : PhTimer) (h : Kept s t) : Kept s (State.setTphHub t n x) := by
  unfold State.setTphHub
  try dsimp only
  repeat' (first | exact h | fail_if_no_progress with_reducible refine kept_mk rfl rfl rfl rfl rfl rfl rfl rfl ?_ | split)

/-- State.hubPhase keeps. -/
theorem hubPhase_kept (n : Fin 8) (v : W32) (h : Kept s t) : Kept s (State.hubPhase t n v) := by
  unfold State.hubPhase
  try dsimp only
  repeat' (first | exact h | with_reducible apply setTphHub_kept | with_reducible apply traceRecord_kept | with_reducible apply drawn_kept | fail_if_no_progress with_reducible refine kept_mk rfl rfl rfl rfl rfl rfl rfl rfl ?_ | split)

/-- State.trcCtl keeps. -/
theorem trcCtl_kept (v : W32) (h : Kept s t) : Kept s (State.trcCtl t v) := by
  unfold State.trcCtl
  try dsimp only
  repeat' (first | exact h | fail_if_no_progress with_reducible refine kept_mk rfl rfl rfl rfl rfl rfl rfl rfl ?_ | split)

/-- State.writeConsts keeps. -/
theorem writeConsts_kept (p c : Nat) (m : List Byte) (ks : List Kernel) (h : Kept s t) : Kept s (t.writeConsts p c m ks) := by
  unfold State.writeConsts
  dsimp only
  split
  · refine kept_foldl_fst (fun x _ k => ?_) _ (x := (t, _)) h
    split
    · exact k
    · split
      · exact k
      · split
        · exact hubWrite_kept _ _ _ k
        · split
          · refine kept_foldl (fun v x k => ?_) _ k
            exact kept_ite (modTile_kept _ _ k) k
          · exact k
  · exact h

/-- State.npcBusy keeps. -/
theorem npcBusy_kept (p : Nat) (addr : Option Nat) (status : Nat) (record : List Byte) (h : Kept s t) : Kept s (State.npcBusy t p addr status record) := by
  unfold State.npcBusy
  try dsimp only
  repeat' (first | exact h | with_reducible apply setNpc_kept | fail_if_no_progress with_reducible refine kept_mk rfl rfl rfl rfl rfl rfl rfl rfl ?_ | split)

/-- State.npcLoadGo keeps. -/
theorem npcLoadGo_kept (p : Nat) (d : List PByte) (h : Kept s t) : Kept s (State.npcLoadGo t p d) := by
  unfold State.npcLoadGo
  try dsimp only
  repeat' (first | exact h | with_reducible apply npcBusy_kept | with_reducible apply writeConsts_kept | fail_if_no_progress with_reducible refine kept_mk rfl rfl rfl rfl rfl rfl rfl rfl ?_ | split)

/-- State.npcUnloadGo keeps. -/
theorem npcUnloadGo_kept (p : Nat) (d : List PByte) (h : Kept s t) : Kept s (t.npcUnloadGo p d) := by
  have hm : ∀ l, Kept s { t with modules := l } := fun l => kept_same h rfl rfl rfl rfl rfl rfl rfl rfl
  unfold State.npcUnloadGo
  dsimp only
  split
  · exact npcBusy_kept _ _ _ _ h
  · split
    · exact npcBusy_kept _ _ _ _ h
    · split
      · exact npcBusy_kept _ _ _ _ h
      · exact npcBusy_kept _ _ _ _ (hm _)

/-- State.npcDoorbell keeps. -/
theorem npcDoorbell_kept (p : Nat) (h : Kept s t) : Kept s (t.npcDoorbell p) := by
  unfold State.npcDoorbell
  exact kept_ite h (kept_ite (setNpc_kept _ _ h) (kept_ite (npcBusy_kept _ _ _ _ h) (kept_ite (npcBusy_kept _ _ _ _ h)
    (kept_ite (npcLoadGo_kept _ _ h) (npcUnloadGo_kept _ _ h)))))

/-- State.npcComplete keeps. -/
theorem npcComplete_kept (p : Nat) (h : Kept s t) : Kept s (State.npcComplete t p) := by
  unfold State.npcComplete
  try dsimp only
  repeat' (first | exact h | with_reducible apply latch_kept | with_reducible apply hubWrite_kept | with_reducible apply setNpc_kept | fail_if_no_progress with_reducible refine kept_mk rfl rfl rfl rfl rfl rfl rfl rfl ?_ | split)

/-- State.npcReqWrite keeps. -/
theorem npcReqWrite_kept (p : Nat) (part : Part) (v : W64) (h : Kept s t) : Kept s (State.npcReqWrite t p part v) := by
  unfold State.npcReqWrite
  try dsimp only
  repeat' (first | exact h | with_reducible apply setNpc_kept | fail_if_no_progress with_reducible refine kept_mk rfl rfl rfl rfl rfl rfl rfl rfl ?_ | split)

/-- npcWrite keeps. -/
theorem npcWrite_kept (o : Nat) (part : Part) (v : W64) (h : Kept s t) : Kept s (npcWrite t o part v) := by
  unfold npcWrite
  generalize arrIx o 0 0x20 4 = x
  split
  · exact npcReqWrite_kept _ _ _ h
  · exact npcDoorbell_kept _ h
  · exact kept_ite h (setNpc_kept _ _ h)
  · exact h

/-- State.modPwr keeps. -/
theorem modPwr_kept (f : PwrBlk → PwrBlk) (h : Kept s t) : Kept s (State.modPwr t f) := by
  unfold State.modPwr
  try dsimp only
  repeat' (first | exact h | fail_if_no_progress with_reducible refine kept_mk rfl rfl rfl rfl rfl rfl rfl rfl ?_ | split)

/-- State.opAdvance keeps. -/
theorem opAdvance_kept  (h : Kept s t) : Kept s (State.opAdvance t) := by
  unfold State.opAdvance
  try dsimp only
  repeat' (first | exact h | with_reducible apply emit_kept | fail_if_no_progress with_reducible refine kept_mk rfl rfl rfl rfl rfl rfl rfl rfl ?_ | split)

/-- State.opWrite keeps. -/
theorem opWrite_kept (v : BitVec 2) (h : Kept s t) : Kept s (State.opWrite t v) := by
  unfold State.opWrite
  try dsimp only
  repeat' (first | exact h | with_reducible apply opAdvance_kept | with_reducible apply modPwr_kept | with_reducible apply emit_kept | fail_if_no_progress with_reducible refine kept_mk rfl rfl rfl rfl rfl rfl rfl rfl ?_ | split)

/-- State.pllLock keeps. -/
theorem pllLock_kept (g : Nat) (h : Kept s t) : Kept s (State.pllLock t g) := by
  unfold State.pllLock
  try dsimp only
  repeat' (first | exact h | with_reducible apply opAdvance_kept | with_reducible apply modPwr_kept | fail_if_no_progress with_reducible refine kept_mk rfl rfl rfl rfl rfl rfl rfl rfl ?_ | split)

/-- State.pllTimeout keeps. -/
theorem pllTimeout_kept (g : Nat) (h : Kept s t) : Kept s (State.pllTimeout t g) := by
  unfold State.pllTimeout
  try dsimp only
  repeat' (first | exact h | with_reducible apply modPwr_kept | fail_if_no_progress with_reducible refine kept_mk rfl rfl rfl rfl rfl rfl rfl rfl ?_ | split)

/-- State.voltageSettle keeps. -/
theorem voltageSettle_kept  (h : Kept s t) : Kept s (State.voltageSettle t) := by
  unfold State.voltageSettle
  try dsimp only
  repeat' (first | exact h | with_reducible apply opAdvance_kept | with_reducible apply modPwr_kept | fail_if_no_progress with_reducible refine kept_mk rfl rfl rfl rfl rfl rfl rfl rfl ?_ | split)

/-- State.stopGroups keeps. -/
theorem stopGroups_kept (p : Nat) (h : Kept s t) : Kept s (State.stopGroups t p) := by
  unfold State.stopGroups
  try dsimp only
  repeat' (first | exact h | with_reducible apply modPwr_kept | with_reducible refine kept_foldl (fun _ _ h => ?_) _ ?_ | fail_if_no_progress with_reducible refine kept_mk rfl rfl rfl rfl rfl rfl rfl rfl ?_ | split)

/-- State.tileRequest keeps. -/
theorem tileRequest_kept (t' : Nat) (st : Nat) (h : Kept s t) : Kept s (State.tileRequest t t' st) := by
  unfold State.tileRequest
  try dsimp only
  repeat' (first | exact h | with_reducible apply stopGroups_kept | with_reducible apply modPwr_kept | with_reducible apply requestNoon_kept | with_reducible apply setTile_kept | fail_if_no_progress with_reducible refine kept_mk rfl rfl rfl rfl rfl rfl rfl rfl ?_ | split)

/-- State.faultLaunches keeps. -/
theorem faultLaunches_kept (ts : List Nat) (h : Kept s t) : Kept s (State.faultLaunches t ts) := by
  unfold State.faultLaunches
  try dsimp only
  repeat' (first | exact h | with_reducible apply faultStream_kept | with_reducible refine kept_foldl (fun _ _ h => ?_) _ ?_ | fail_if_no_progress with_reducible refine kept_mk rfl rfl rfl rfl rfl rfl rfl rfl ?_ | split)

/-- State.dropPasses keeps. -/
theorem dropPasses_kept (k : Nat) (h : Kept s t) : Kept s (State.dropPasses t k) := by
  unfold State.dropPasses
  try dsimp only
  repeat' (first | exact h | with_reducible apply unitDone_kept | with_reducible apply setUnit_kept | with_reducible refine kept_foldl (fun _ _ h => ?_) _ ?_ | fail_if_no_progress with_reducible refine kept_mk rfl rfl rfl rfl rfl rfl rfl rfl ?_ | split)

/-- State.clockWatchdog keeps. -/
theorem clockWatchdog_kept (d : Nat) (h : Kept s t) : Kept s (t.clockWatchdog d) := by
  unfold State.clockWatchdog
  exact kept_ite (faultLaunches_kept _ (modPwr_kept _ (kept_foldl (fun _ _ k => setTile_kept _ _ k) _ (modPwr_kept _ h))))
    (kept_foldl (fun _ _ k => respond_kept _ _ _ k) _ (setStack_kept _ _ (dropPasses_kept _ (modPwr_kept _ h))))

/-- State.backstop keeps. -/
theorem backstop_kept (h : Kept s t) : Kept s t.backstop := by
  unfold State.backstop
  exact kept_ite h (kept_foldl (fun _ _ k => modStack_kept _ _ k) _ (modPwr_kept _ h))

/-- State.takeMeasure keeps. -/
theorem takeMeasure_kept (h : Kept s t) : Kept s t.takeMeasure := by
  unfold State.takeMeasure
  exact kept_ite h (kept_ite (opWrite_kept _ (modPwr_kept _ h)) (kept_ite
    (kept_foldl (fun _ _ k => modStack_kept _ _ k) _ (modPwr_kept _ h)) (kept_ite (modPwr_kept _ (modPwr_kept _ h)) h)))

/-- State.undoMeasure keeps. -/
theorem undoMeasure_kept (h : Kept s t) : Kept s t.undoMeasure := by
  unfold State.undoMeasure
  split
  · exact h
  · dsimp only
    split
    · exact opWrite_kept _ (modPwr_kept _ h)
    · exact kept_foldl (fun _ _ k => modStack_kept _ _ k) _ (modPwr_kept _ h)
    · exact modPwr_kept _ (modPwr_kept _ h)

/-- State.evaluate keeps. -/
theorem evaluate_kept (h : Kept s t) : Kept s t.evaluate := by
  unfold State.evaluate
  exact kept_ite h (kept_ite (takeMeasure_kept (modPwr_kept _ (modPwr_kept _ h))) (kept_ite (kept_ite
    (undoMeasure_kept (modPwr_kept _ (modPwr_kept _ h))) (modPwr_kept _ (modPwr_kept _ h))) (modPwr_kept _ (modPwr_kept _ h))))

/-- State.devDusk keeps. -/
theorem devDusk_kept (h : Kept s t) : Kept s t.devDusk := by
  unfold State.devDusk
  exact kept_ite h (kept_ite (modPwr_kept _ h) (setCore_kept _ _ (modPwr_kept _ (kept_foldl (fun _ _ k => modStack_kept _ _ k) _ h))))

/-- State.devWake keeps. -/
theorem devWake_kept  (h : Kept s t) : Kept s (State.devWake t) := by
  unfold State.devWake
  try dsimp only
  repeat' (first | exact h | with_reducible apply modPwr_kept | fail_if_no_progress with_reducible refine kept_mk rfl rfl rfl rfl rfl rfl rfl rfl ?_ | split)

/-- State.devDawn keeps. -/
theorem devDawn_kept (h : Kept s t) : Kept s t.devDawn := by
  unfold State.devDawn
  exact kept_ite h (seeLine8_kept (setCore_kept _ _ (modPwr_kept _ (kept_foldl (fun _ _ k => modStack_kept _ _ k) _ h))))

/-- State.trip keeps. -/
theorem trip_kept (h : Kept s t) : Kept s t.trip := by
  unfold State.trip
  exact kept_foldl (fun _ _ k => kept_ite (portLost_kept _ k) k) _ (kept_same h rfl rfl rfl rfl rfl rfl rfl rfl)

/-- State.evtHold keeps. -/
theorem evtHold_kept  (h : Kept s t) : Kept s (State.evtHold t) := by
  unfold State.evtHold
  try dsimp only
  repeat' (first | exact h | with_reducible apply modPwr_kept | fail_if_no_progress with_reducible refine kept_mk rfl rfl rfl rfl rfl rfl rfl rfl ?_ | split)

/-- State.hubenWrite keeps. -/
theorem hubenWrite_kept (v : BitVec 4) (h : Kept s t) : Kept s (State.hubenWrite t v) := by
  unfold State.hubenWrite
  try dsimp only
  repeat' (first | exact h | with_reducible apply modPwr_kept | fail_if_no_progress with_reducible refine kept_mk rfl rfl rfl rfl rfl rfl rfl rfl ?_ | split)

/-- clkWrite keeps. -/
theorem clkWrite_kept (off : Nat) (v : W64) (h : Kept s t) : Kept s (clkWrite t off v) := by
  unfold clkWrite
  try dsimp only
  repeat' (first | exact h | with_reducible apply hubenWrite_kept | with_reducible apply modPwr_kept | fail_if_no_progress with_reducible refine kept_mk rfl rfl rfl rfl rfl rfl rfl rfl ?_ | split)

/-- State.limitWrite keeps. -/
theorem limitWrite_kept (v : W32) (h : Kept s t) : Kept s (State.limitWrite t v) := by
  unfold State.limitWrite
  try dsimp only
  repeat' (first | exact h | with_reducible apply modPwr_kept | fail_if_no_progress with_reducible refine kept_mk rfl rfl rfl rfl rfl rfl rfl rfl ?_ | split)

/-- pwrWrite keeps. -/
theorem pwrWrite_kept (lookout sc0 : Bool) (off : Nat) (v : W64) (h : Kept s t) : Kept s (pwrWrite t lookout sc0 off v) := by
  have hp : ∀ f, Kept s (t.modPwr f) := fun f => modPwr_kept _ h
  unfold pwrWrite
  generalize arrIx off 0x200 4 8 = x
  split
  · exact opWrite_kept _ h
  · exact hp _
  · exact kept_ite (limitWrite_kept _ h) h
  · exact hp _
  · exact hp _
  · exact kept_ite (tileRequest_kept _ _ (hp _)) (hp _)
  · exact hp _
  · exact hp _
  · exact kept_ite (devDusk_kept (hp _)) (hp _)
  · split
    · exact hp _
    · exact h

/-- State.linkDown keeps. -/
theorem linkDown_kept (h : Kept s t) : Kept s t.linkDown := by
  unfold State.linkDown
  exact kept_ite h (latch_kept _ (endSession_kept (kept_foldl (fun _ _ k => respond_kept _ _ _ k) _
    (kept_same h rfl rfl rfl rfl rfl rfl rfl rfl))))

/-- State.linkUp keeps. -/
theorem linkUp_kept (w : BitVec 4) (r : BitVec 4) (h : Kept s t) : Kept s (State.linkUp t w r) := by
  unfold State.linkUp
  try dsimp only
  repeat' (first | exact h | with_reducible apply latch_kept | fail_if_no_progress with_reducible refine kept_mk rfl rfl rfl rfl rfl rfl rfl rfl ?_ | split)

/-- State.hostAnswer keeps. -/
theorem hostAnswer_kept (id : Nat) (ok : Bool) (d : List PByte) (h : Kept s t) : Kept s (State.hostAnswer t id ok d) := by
  unfold State.hostAnswer
  try dsimp only
  repeat' (first | exact h | with_reducible apply respond_kept | fail_if_no_progress with_reducible refine kept_mk rfl rfl rfl rfl rfl rfl rfl rfl ?_ | split)

/-- State.note keeps. -/
theorem note_kept (kind : Nat) (arg : Nat) (h : Kept s t) : Kept s (State.note t kind arg) := by
  unfold State.note
  try dsimp only
  repeat' (first | exact h | fail_if_no_progress with_reducible refine kept_mk rfl rfl rfl rfl rfl rfl rfl rfl ?_ | split)

/-- State.hostLost keeps. -/
theorem hostLost_kept (h : Kept s t) : Kept s t.hostLost := by
  unfold State.hostLost
  refine kept_ite h (note_kept _ _ (kept_foldl (fun v i k => ?_) _ (latch_kept _ (kept_same h rfl rfl rfl rfl rfl rfl rfl rfl))))
  dsimp only
  split
  · split
    · next u e => exact faultStream_kept _ _ _ (fetchEntry_kept _ k e)
    · exact k
  · exact k

/-- State.perstAssert keeps. -/
theorem perstAssert_kept  (h : Kept s t) : Kept s (State.perstAssert t) := by
  unfold State.perstAssert
  try dsimp only
  repeat' (first | exact h | with_reducible apply linkDown_kept | fail_if_no_progress with_reducible refine kept_mk rfl rfl rfl rfl rfl rfl rfl rfl ?_ | split)

/-- State.msixWrite keeps. -/
theorem msixWrite_kept (i : Nat) (v : W32) (h : Kept s t) : Kept s (State.msixWrite t i v) := by
  unfold State.msixWrite
  try dsimp only
  repeat' (first | exact h | with_reducible apply sendMsix_kept | fail_if_no_progress with_reducible refine kept_mk rfl rfl rfl rfl rfl rfl rfl rfl ?_ | split)

/-- pciWrite keeps. -/
theorem pciWrite_kept (off : Nat) (p : Part) (v : W64) (h : Kept s t) : Kept s (pciWrite t off p v) := by
  unfold pciWrite
  try dsimp only
  repeat' (first | exact h | with_reducible apply msixWrite_kept | fail_if_no_progress with_reducible refine kept_mk rfl rfl rfl rfl rfl rfl rfl rfl ?_ | split)

/-- State.holdCore keeps. -/
theorem holdCore_kept (n : Nat) (h : Kept s t) : Kept s (State.holdCore t n) := by
  unfold State.holdCore
  try dsimp only
  repeat' (first | exact h | with_reducible apply note_kept | with_reducible apply setCore_kept | split)

/-- State.releaseCore keeps. -/
theorem releaseCore_kept (a : Agent) (n : Nat) (h : Kept s t) : Kept s (State.releaseCore t a n) := by
  unfold State.releaseCore
  try dsimp only
  repeat' (first | exact h | with_reducible apply setCore_kept | fail_if_no_progress with_reducible refine kept_mk rfl rfl rfl rfl rfl rfl rfl rfl ?_ | split)

/-- State.scwdWrite keeps. -/
theorem scwdWrite_kept (a : Agent) (n : Nat) (v : W32) (h : Kept s t) : Kept s (State.scwdWrite t a n v) := by
  unfold State.scwdWrite
  try dsimp only
  repeat' (first | exact h | with_reducible apply releaseCore_kept | fail_if_no_progress with_reducible refine kept_mk rfl rfl rfl rfl rfl rfl rfl rfl ?_ | split)

/-- hubWrite0 keeps. -/
theorem hubWrite0_kept (a : Agent) (off : Nat) (v : W64) (h : Kept s t) : Kept s (hubWrite0 t a off v) := by
  unfold hubWrite0
  try dsimp only
  repeat' (first | exact h | with_reducible apply scwdWrite_kept | with_reducible apply evtHold_kept | with_reducible apply claimTrc_kept | with_reducible apply claimEvt_kept | fail_if_no_progress with_reducible refine kept_mk rfl rfl rfl rfl rfl rfl rfl rfl ?_ | split)

/-- State.bootFailed keeps. -/
theorem bootFailed_kept (a : Nat) (b : Nat) (h : Kept s t) : Kept s (State.bootFailed t a b) := by
  unfold State.bootFailed
  try dsimp only
  repeat' (first | exact h | with_reducible apply note_kept | fail_if_no_progress with_reducible refine kept_mk rfl rfl rfl rfl rfl rfl rfl rfl ?_ | split)

/-- State.bootRom keeps. -/
theorem bootRom_kept (fresh : Bool) (h : Kept s t) : (∀ u, t.bootRom fresh = .error u → Kept s u) ∧ (∀ u, t.bootRom fresh = .ok u → Kept s u) := by
  have core : ∀ v, Kept s v → Kept s ([0, 1, 2, 3, 4, 5, 6, 7].foldl (fun v n => v.setCore n .run) v) :=
    fun v k => kept_foldl (fun _ _ k => setCore_kept _ _ k) _ k
  have hs : ∀ b, Kept s { t with sec := b } := fun b => kept_same h rfl rfl rfl rfl rfl rfl rfl rfl
  unfold State.bootRom
  dsimp only
  split
  · exact ⟨fun u e => by cases e; exact bootFailed_kept _ _ h, fun u e => by cases e⟩
  · split
    · exact ⟨fun u e => by cases e; exact bootFailed_kept _ _ h, fun u e => by cases e⟩
    · refine ⟨fun u e => (by cases e), fun u e => ?_⟩
      cases e
      refine core _ ?_
      refine kept_same (t := if (!fresh) = true then _ else _) (kept_ite (hs _) (extend_kept _ _ (extend_kept _ _ (extend_kept _ _
        (extend_kept _ _ (extend_kept _ _ (hs _))))))) rfl rfl rfl rfl rfl rfl rfl rfl

/-- State.startStack keeps. -/
theorem startStack_kept (ok : BitVec 12) (k : Nat) (h : Kept s t) : Kept s (State.startStack t ok k) := by
  unfold State.startStack
  try dsimp only
  repeat' (first | exact h | with_reducible apply note_kept | with_reducible apply setStack_kept | with_reducible refine kept_foldl (fun _ _ h => ?_) _ ?_ | fail_if_no_progress with_reducible refine kept_mk rfl rfl rfl rfl rfl rfl rfl rfl ?_ | split)

/-- State.startUp keeps. -/
theorem startUp_kept (fresh : Bool) (cause : BitVec 4) (h : Kept s t) : Kept s (t.startUp fresh cause) := by
  have h1 : ∀ b, Kept s { t with hub := b } := fun b => kept_same h rfl rfl rfl rfl rfl rfl rfl rfl
  unfold State.startUp
  dsimp only
  split
  · next u e => exact (bootRom_kept fresh (h1 _)).1 u e
  · next v e =>
    have hv := (bootRom_kept fresh (h1 _)).2 v e
    have clean : ∀ w, Kept s w → Kept s { w with mem := [], memPois := [] } :=
      fun w k => k.trans ⟨rfl, rfl, fun o => ⟨rfl, o.layout, o.hamper, o.trace, o.sessions, o.priorities⟩⟩
    refine kept_foldl (fun v n k => kept_ite (latch_kept _ (setPort_kept _ _ k)) k) _ ?_
    refine kept_same (kept_foldl (fun v k hk => startStack_kept _ k hk) _ (clean _ (modPwr_kept _ hv))) rfl rfl rfl rfl rfl rfl rfl rfl

/-- State.underPorst keeps. -/
theorem underPorst_kept (h : Kept s t) : Kept s t.underPorst :=
  h.trans ⟨rfl, rfl, fun _ => ⟨rfl, Nat.zero_le _, Nat.zero_le _, Nat.zero_le _, Nat.zero_le _, rfl⟩⟩

/-- State.powerUp keeps. -/
theorem powerUp_kept  (h : Kept s t) : Kept s (State.powerUp t) := by
  unfold State.powerUp
  try dsimp only
  repeat' (first | exact h | with_reducible apply startUp_kept | with_reducible apply bootFailed_kept | with_reducible apply drawn_kept | with_reducible refine kept_foldl (fun _ _ h => ?_) _ ?_ | fail_if_no_progress with_reducible refine kept_mk rfl rfl rfl rfl rfl rfl rfl rfl ?_ | split)

/-- State.enterNight keeps. -/
theorem enterNight_kept (h : Kept s t) : Kept s t.enterNight := by
  have k := linkDown_kept h
  exact k.trans ⟨rfl, rfl, fun o => ⟨rfl, o.layout, Nat.zero_le _, Nat.zero_le _, o.sessions, rfl⟩⟩

/-- State.mgmt keeps. -/
theorem mgmt_kept (p : MgmtPath) (ok : Bool) (d : List Byte) (h : Kept s t) : Kept s (State.mgmt t p ok d) := by
  unfold State.mgmt
  try dsimp only
  repeat' (first | exact h | with_reducible apply emit_kept | split)

/-- State.persist keeps. -/
theorem persist_kept (v : W64) (h : Kept s t) : Kept s (State.persist t v) := by
  unfold State.persist
  try dsimp only
  repeat' (first | exact h | fail_if_no_progress with_reducible refine kept_mk rfl rfl rfl rfl rfl rfl rfl rfl ?_ | split)

/-- State.mailbox keeps. -/
theorem mailbox_kept (v : W64) (h : Kept s t) : Kept s (State.mailbox t v) := by
  unfold State.mailbox
  try dsimp only
  repeat' (first | exact h | with_reducible apply persist_kept | fail_if_no_progress with_reducible refine kept_mk rfl rfl rfl rfl rfl rfl rfl rfl ?_ | split)

/-- State.setLayout keeps. -/
theorem wfFrom_filter {α : Type} [DecidableEq α] {d : α} (p : Nat × α → Bool) (m : Tab α) (lo : Nat) (w : Tab.wfFrom d lo m = true) :
    Tab.wfFrom d lo (m.filter p) = true := by
  induction m generalizing lo with
  | nil => rfl
  | cons x m ih =>
    simp only [Tab.wfFrom, Bool.and_eq_true, decide_eq_true_eq] at w
    rw [List.filter_cons]
    split
    · simp only [Tab.wfFrom, Bool.and_eq_true, decide_eq_true_eq]
      exact ⟨w.1, ih _ w.2⟩
    · exact Tab.wfFrom_mono (by omega) (ih _ w.2)

/-- A change of layout keeps, given one of the three layouts of R83. -/
theorem setLayout_kept (new : Nat) (hn : new ≤ 2) (h : Kept s t) : Kept s (t.setLayout new) := by
  unfold State.setLayout
  have k : ∀ v : State, Kept s v → ∀ (p : Nat × Byte → Bool) (q : Tab Bool), Kept s { v with partMode := new, mem := v.mem.filter p, memPois := q } :=
    fun v hv p q => hv.trans ⟨rfl, rfl, fun o => ⟨wfFrom_filter _ _ _ o.memory, hn, o.hamper, o.trace, o.sessions, o.priorities⟩⟩
  refine extend_kept _ _ (k _ ?_ _ _)
  exact kept_foldl (fun _ _ k => kept_ite (modTile_kept _ _ k) k) _ h

/-- State.passRecord keeps. -/
theorem passRecord_kept (a : Agent) (k : Nat) (r : Option FltRec) (h : Kept s t) : Kept s (State.passRecord t a k r) := by
  unfold State.passRecord
  try dsimp only
  repeat' (first | exact h | fail_if_no_progress with_reducible refine kept_mk rfl rfl rfl rfl rfl rfl rfl rfl ?_ | split)

/-- stkWrite keeps. -/
theorem stkWrite_kept (a : Agent) (k : Nat) (off : Nat) (p : Part) (v : W64) (h : Kept s t) : Kept s (stkWrite t a k off p v) := by
  unfold stkWrite
  try dsimp only
  repeat' (first | exact h | with_reducible apply passRecord_kept | with_reducible apply stackResume_kept | with_reducible apply setStack_kept | fail_if_no_progress with_reducible refine kept_mk rfl rfl rfl rfl rfl rfl rfl rfl ?_ | split)

/-- State.stratReseed keeps. -/
theorem stratReseed_kept (k : Nat) (fixed : Bool) (h : Kept s t) : Kept s (State.stratReseed t k fixed) := by
  unfold State.stratReseed
  try dsimp only
  repeat' (first | exact h | with_reducible apply setUnit_kept | fail_if_no_progress with_reducible refine kept_mk rfl rfl rfl rfl rfl rfl rfl rfl ?_ | split)

/-- stratWrite keeps. -/
theorem stratWrite_kept (g : Tag) (k : Nat) (off : Nat) (p : Part) (v : W64) (h : Kept s t) : Kept s (stratWrite t g k off p v).1 := by
  unfold stratWrite
  try dsimp only
  repeat' (first | exact h | with_reducible apply stratReseed_kept | with_reducible apply setUnit_kept | fail_if_no_progress with_reducible refine kept_mk rfl rfl rfl rfl rfl rfl rfl rfl ?_ | split)

/-- cvyRc keeps. -/
theorem cvyRc_kept (off : Nat) (h : Kept s t) : Kept s (cvyRc t off) := by
  unfold cvyRc
  try dsimp only
  repeat' (first | exact h | with_reducible apply setPort_kept | fail_if_no_progress with_reducible refine kept_mk rfl rfl rfl rfl rfl rfl rfl rfl ?_ | split)

/-- State.portCtl keeps. -/
theorem portCtl_kept (n : Nat) (en : Bool) (retrain : Bool) (h : Kept s t) : Kept s (State.portCtl t n en retrain) := by
  unfold State.portCtl
  try dsimp only
  repeat' (first | exact h | with_reducible apply latch_kept | with_reducible apply setPort_kept | fail_if_no_progress with_reducible refine kept_mk rfl rfl rfl rfl rfl rfl rfl rfl ?_ | split)

/-- cvyWrite keeps. -/
theorem cvyWrite_kept (g : Tag) (off : Nat) (p : Part) (v : W64) (h : Kept s t) : Kept s (cvyWrite t g off p v) := by
  unfold cvyWrite
  try dsimp only
  repeat' (first | exact h | with_reducible apply portCtl_kept | with_reducible apply setPort_kept | fail_if_no_progress with_reducible refine kept_mk rfl rfl rfl rfl rfl rfl rfl rfl ?_ | split)

/-- blockRc keeps. -/
theorem blockRc_kept (b : HubBlock) (o : Nat) (h : Kept s t) : Kept s (blockRc t b o) := by
  unfold blockRc
  try dsimp only
  repeat' (first | exact h | with_reducible apply cvyRc_kept | with_reducible apply modPwr_kept | with_reducible apply icuRc_kept | with_reducible apply icuClaim_kept | with_reducible apply seeLine8_kept | with_reducible apply setUnit_kept | with_reducible apply setStack_kept | fail_if_no_progress with_reducible refine kept_mk rfl rfl rfl rfl rfl rfl rfl rfl ?_ | split)

/-- blockWrite keeps. -/
theorem blockWrite_kept (a : Agent) (b : HubBlock) (o : Nat) (p : Part) (v : W64) (h : Kept s t) : Kept s (blockWrite t a b o p v).1 := by
  cases b
  · exact hubWrite0_kept _ _ _ h
  · exact stashWrite_kept _ _ _ _ h
  · exact npcWrite_kept _ _ _ h
  · unfold blockWrite
    generalize arrIx o 0x100 0x10 8 = x
    dsimp only
    split
    · exact trcCtl_kept _ h
    · split
      · exact hubPhase_kept _ _ h
      · exact h
  · exact sdmaWrite_kept _ _ _ _ h
  · exact h
  · exact stkWrite_kept _ _ _ _ _ h
  · exact stratWrite_kept _ _ _ _ _ h
  · exact cvyWrite_kept _ _ _ _ h
  · exact streamWrite_kept _ _ _ _ h
  · exact kept_ite (icuComplete_kept _ _ h) (pciWrite_kept _ _ _ h)
  · exact secWrite_kept _ _ _ h
  · refine kept_ite ?_ h
    split
    · exact kept_same h rfl rfl rfl rfl rfl rfl rfl rfl
    · exact mailbox_kept _ h
  · exact icuWrite_kept _ _ h
  · exact clkWrite_kept _ _ h
  · exact pwrWrite_kept _ _ _ _ h

/-- State.hubReadParts keeps. -/
theorem hubReadParts_kept (a : Agent) (b : HubBlock) (l : List (Nat × Part)) (sh : Nat) (h : Kept s t) : Kept s (t.hubReadParts a b l sh).2 := by
  induction l generalizing t sh with
  | nil => exact h
  | cons x l ih => exact ih _ (blockRc_kept _ _ h)

/-- State.hubWriteParts keeps. -/
theorem hubWriteParts_kept (a : Agent) (b : HubBlock) (v : W64) (l : List (Nat × Part)) (h : Kept s t) : Kept s (t.hubWriteParts a b v l).1 := by
  induction l generalizing t v with
  | nil => exact h
  | cons x l ih => exact ih _ (blockWrite_kept _ _ _ _ _ h)

/-- State.hubAccess keeps. -/
theorem hubAccess_kept (a : Agent) (off : Nat) (op : ReqOp) (h : Kept s t) : Kept s (State.hubAccess t a off op).s := by
  unfold State.hubAccess
  try dsimp only
  repeat' (first | exact h | with_reducible apply hubWriteParts_kept | with_reducible apply hubReadParts_kept | fail_if_no_progress with_reducible refine kept_mk rfl rfl rfl rfl rfl rfl rfl rfl ?_ | split)

/-- State.bar0Reg keeps. -/
theorem bar0Reg_kept (off : Nat) (op : ReqOp) (h : Kept s t) : Kept s (State.bar0Reg t off op).s := by
  unfold State.bar0Reg
  try dsimp only
  repeat' (first | exact h | with_reducible apply hubAccess_kept | fail_if_no_progress with_reducible refine kept_mk rfl rfl rfl rfl rfl rfl rfl rfl ?_ | split)

/-- State.regAccess keeps. -/
theorem regAccess_kept (a : Agent) (addr : Nat) (op : ReqOp) (h : Kept s t) : Kept s (t.regAccess a addr op).s := by
  unfold State.regAccess
  generalize (addr - winBase) / 2 ^ 24 = x
  generalize (addr - winBase) % 2 ^ 24 = y
  generalize addr - hubBase = z
  extract_lets zero
  split
  · exact h
  · split
    · exact bar0Reg_kept _ _ h
    · split
      · exact tileAccess_kept _ _ _ _ h
      · split
        · exact hubAccess_kept _ _ _ h
        · exact h

/-- State.putReg keeps. -/
theorem putReg_kept (a : Agent) (addr : Nat) (w8 : Bool) (v : W64) (h : Kept s t) : Kept s (t.putReg a addr w8 v) := by
  unfold State.putReg
  have k := fun op => regAccess_kept a addr op h
  unfold Ans.tell
  cases a <;> first | exact k _ | exact emit_kept _ (k _)

/-- State.getReg keeps. -/
theorem getReg_kept (a : Agent) (addr : Nat) (w8 : Bool) (h : Kept s t) : Kept s (t.getReg a addr w8) := by
  unfold State.getReg
  have k := fun op => regAccess_kept a addr op h
  unfold Ans.tell
  cases a <;> exact emit_kept _ (k _)

/-- State.put32 keeps. -/
theorem put32_kept (a : Agent) (off : Nat) (v : W32) (h : Kept s t) : Kept s (State.put32 t a off v) := by
  unfold State.put32
  try dsimp only
  repeat' (first | exact h | with_reducible apply putReg_kept | split)

/-- State.put64 keeps. -/
theorem put64_kept (a : Agent) (off : Nat) (v : W64) (h : Kept s t) : Kept s (State.put64 t a off v) := by
  unfold State.put64
  try dsimp only
  repeat' (first | exact h | with_reducible apply putReg_kept | split)

/-- State.arrived keeps. -/
theorem arrived_kept (r : Req) (h : Kept s t) : Kept s (State.arrived t r) := by
  unfold State.arrived
  try dsimp only
  repeat' (first | exact h | fail_if_no_progress with_reducible refine kept_mk rfl rfl rfl rfl rfl rfl rfl rfl ?_ | split)

/-- State.windowServe keeps. -/
theorem windowServe_kept (r : Req) (h : Kept s t) : Kept s (State.windowServe t r) := by
  unfold State.windowServe
  try dsimp only
  repeat' (first | exact h | with_reducible apply regAccess_kept | with_reducible apply respond_kept | split)

/-- State.evtLeft keeps. -/
theorem evtLeft_kept (m : EvtMsg) (h : Kept s t) : Kept s (State.evtLeft t m) := by
  unfold State.evtLeft
  try dsimp only
  repeat' (first | exact h | with_reducible apply modTile_kept | fail_if_no_progress with_reducible refine kept_mk rfl rfl rfl rfl rfl rfl rfl rfl ?_ | split)

/-- State.phaseArrives keeps. -/
theorem phaseArrives_kept (m : PhaseMsg) (h : Kept s t) : Kept s (State.phaseArrives t m) := by
  unfold State.phaseArrives
  try dsimp only
  repeat' (first | exact h | with_reducible apply traceRecord_kept | with_reducible apply modTile_kept | fail_if_no_progress with_reducible refine kept_mk rfl rfl rfl rfl rfl rfl rfl rfl ?_ | split)

/-- State.claimWrite keeps. -/
theorem claimWrite_kept (r : ClaimReg) (a : Agent) (v : W32) (h : Kept s t) : Kept s (State.claimWrite t r a v) := by
  unfold State.claimWrite
  try dsimp only
  repeat' (first | exact h | with_reducible apply put32_kept | with_reducible apply ctlWrite_kept | fail_if_no_progress with_reducible refine kept_mk rfl rfl rfl rfl rfl rfl rfl rfl ?_ | split)

/-- State.dmaSlotOp keeps. -/
theorem dmaSlotOp_kept (t' : TileIx) (op : Nat) (n : Nat) (sr : Nat) (h : Kept s t) : Kept s (State.dmaSlotOp t t' op n sr) := by
  unfold State.dmaSlotOp
  try dsimp only
  repeat' (first | exact h | with_reducible apply slot_kept | split)

/-- State.dmaCtl keeps. -/
theorem dmaCtl_kept (c : Chan) (a : Agent) (bits : W32) (h : Kept s t) : Kept s (State.dmaCtl t c a bits) := by
  unfold State.dmaCtl
  try dsimp only
  repeat' (first | exact h | with_reducible apply put32_kept | with_reducible apply ctlWrite_kept | fail_if_no_progress with_reducible refine kept_mk rfl rfl rfl rfl rfl rfl rfl rfl ?_ | split)

/-- State.dmaStop keeps. -/
theorem dmaStop_kept (c : Chan) (a : Agent) (op : Nat) (bits : W32) (h : Kept s t) : Kept s (State.dmaStop t c a op bits) := by
  unfold State.dmaStop
  try dsimp only
  repeat' (first | exact h | with_reducible apply dmaCtl_kept | with_reducible apply dmaSlotOp_kept | fail_if_no_progress with_reducible refine kept_mk rfl rfl rfl rfl rfl rfl rfl rfl ?_ | split)

/-- State.ackPort keeps. -/
theorem ackPort_kept (n : PortIx) (ack : BitVec 12) (h : Kept s t) : Kept s (State.ackPort t n ack) := by
  unfold State.ackPort
  try dsimp only
  repeat' (first | exact h | with_reducible apply pumpPort_kept | with_reducible apply setPort_kept | fail_if_no_progress with_reducible refine kept_mk rfl rfl rfl rfl rfl rfl rfl rfl ?_ | split)

/-- State.sendNak keeps. -/
theorem sendNak_kept (n : PortIx) (h : Kept s t) : Kept s (State.sendNak t n) := by
  unfold State.sendNak
  try dsimp only
  repeat' (first | exact h | with_reducible apply emit_kept | split)

/-- State.crcFail keeps. -/
theorem crcFail_kept (n : PortIx) (h : Kept s t) : Kept s (State.crcFail t n) := by
  unfold State.crcFail
  try dsimp only
  repeat' (first | exact h | with_reducible apply sendNak_kept | with_reducible apply setPort_kept | fail_if_no_progress with_reducible refine kept_mk rfl rfl rfl rfl rfl rfl rfl rfl ?_ | split)

/-- State.recvCell keeps. -/
theorem recvCell_kept (n : PortIx) (c : Cell) (h : Kept s t) : Kept s (State.recvCell t n c) := by
  unfold State.recvCell
  try dsimp only
  repeat' (first | exact h | with_reducible apply crcFail_kept | with_reducible apply sendNak_kept | with_reducible apply ackPort_kept | with_reducible apply devWake_kept | with_reducible apply setPort_kept | fail_if_no_progress with_reducible refine kept_mk rfl rfl rfl rfl rfl rfl rfl rfl ?_ | split)

/-- State.takeCtrl keeps. -/
theorem takeCtrl_kept (n : PortIx) (x : CtrlPay) (h : Kept s t) (e : State.takeCtrl t n x = some u) : Kept s u := by
  unfold State.takeCtrl at e
  try dsimp only at e
  repeat' (first | exact h | with_reducible apply setPort_kept | fail_if_no_progress with_reducible refine kept_mk rfl rfl rfl rfl rfl rfl rfl rfl ?_ | split | (cases e) | split at e | (injection e; subst u))

/-- State.takeParts keeps. -/
theorem takeParts_kept (n : PortIx) (m : ConvoyMsg) (c : ChunkInfo) (h : Kept s t) (e : State.takeParts t n m c = some u) : Kept s u := by
  unfold State.takeParts at e
  try dsimp only at e
  repeat' (first | exact h | with_reducible apply setPort_kept | with_reducible refine kept_foldl (fun _ _ h => ?_) _ ?_ | fail_if_no_progress with_reducible refine kept_mk rfl rfl rfl rfl rfl rfl rfl rfl ?_ | split | (cases e) | split at e | (injection e; subst u))

/-- State.bar2Refused keeps. -/
theorem bar2Refused_kept (r : Req) (h : Kept s t) : Kept s (State.bar2Refused t r) := by
  unfold State.bar2Refused
  try dsimp only
  repeat' (first | exact h | with_reducible apply respond_kept | split)

/-- State.bar2Go keeps. -/
theorem bar2Go_kept (b : BarAcc) (h : Kept s t) : Kept s (State.bar2Go t b) := by
  unfold State.bar2Go
  try dsimp only
  repeat' (first | exact h | with_reducible apply bar2Refused_kept | with_reducible apply stackArrive_kept | split)

/-- State.spdmReq keeps. -/
theorem spdmReq_kept (f : State → State) (hf : ∀ v, Kept s v → Kept s (f v)) (h : Kept s t) : Kept s (t.spdmReq f) := by
  unfold State.spdmReq
  exact kept_ite (hf _ h) h

/-- State.spdmPlain keeps. -/
theorem spdmPlain_kept (code reqCode : Nat) (req : List Byte) (h : Kept s t) : Kept s (t.spdmPlain code reqCode req) := by
  unfold State.spdmPlain
  exact spdmReq_kept _ (fun _ k => spdm_kept _ _ k) h

/-- State.spdmIn keeps. -/
theorem spdmIn_kept (f : State → State) (hf : ∀ v, Kept s v → Kept s (f v)) (h : Kept s t) : Kept s (t.spdmIn f) := by
  unfold State.spdmIn
  exact spdmReq_kept _ (fun _ k => kept_ite (hf _ k) (spdmErr_kept _ k)) h

/-- State.vendorReq keeps. -/
theorem vendorReq_kept (f : State → State × Nat × W64) (hf : ∀ v, Kept s v → Kept s (f v).1) (h : Kept s t) : Kept s (t.vendorReq f) := by
  unfold State.vendorReq
  exact kept_ite h (kept_ite (spdmErr_kept _ h) (vendor_kept _ _ (hf _ h)))

/-- State.vendorOp keeps. -/
theorem vendorOp_kept (f : State → Nat × State) (hf : ∀ v, Kept s v → Kept s (f v).2) (h : Kept s t) : Kept s (t.vendorOp f) := by
  unfold State.vendorOp
  exact vendorReq_kept _ (fun _ k => hf _ k) h

/-- State.confEnter keeps. -/
theorem confEnter_kept  (h : Kept s t) : Kept s (State.confEnter t).2 := by
  unfold State.confEnter
  try dsimp only
  repeat' (first | exact h | with_reducible apply seeLine8_kept | fail_if_no_progress with_reducible refine kept_mk rfl rfl rfl rfl rfl rfl rfl rfl ?_ | split)

/-- State.windowSet keeps. -/
theorem windowSet_kept (w : Nat) (data : BitVec 44) (hdr : BitVec 44) (chunks : BitVec 20) (part : BitVec 2) (ctx : BitVec 4) (h : Kept s t) : Kept s (State.windowSet t w data hdr chunks part ctx).2 := by
  unfold State.windowSet
  try dsimp only
  repeat' (first | exact h | fail_if_no_progress with_reducible refine kept_mk rfl rfl rfl rfl rfl rfl rfl rfl ?_ | split)

/-- State.windowClear keeps. -/
theorem windowClear_kept (w : Nat) (h : Kept s t) : Kept s (State.windowClear t w).2 := by
  unfold State.windowClear
  try dsimp only
  repeat' (first | exact h | fail_if_no_progress with_reducible refine kept_mk rfl rfl rfl rfl rfl rfl rfl rfl ?_ | split)

/-- State.vendorAccess keeps. -/
theorem vendorAccess_kept (off : Nat) (v : Option W64) (h : Kept s t) : Kept s (State.vendorAccess t off v).1 := by
  unfold State.vendorAccess
  try dsimp only
  repeat' (first | exact h | with_reducible apply regAccess_kept | fail_if_no_progress with_reducible refine kept_mk rfl rfl rfl rfl rfl rfl rfl rfl ?_ | split)

/-- State.lookoutOp keeps. -/
theorem lookoutOp_kept (p : MgmtPath) (mctp : Bool) (f : State → State) (hf : ∀ v, Kept s v → Kept s (f v)) (h : Kept s t) :
    Kept s (t.lookoutOp p mctp f) := by
  unfold State.lookoutOp
  exact kept_ite (hf _ (devWake_kept h)) h

/-- State.lookoutOn keeps. -/
theorem lookoutOn_kept  (h : Kept s t) : Kept s (State.lookoutOn t) := by
  unfold State.lookoutOn
  try dsimp only
  repeat' (first | exact h | fail_if_no_progress with_reducible refine kept_mk rfl rfl rfl rfl rfl rfl rfl rfl ?_ | split)

end Sys2Proof.Machine
end

