-- ==== Sys2Proof/Tests/Slice0.lean ====
section
/-! SUPPORT. The model's own tests: an ill-formed term for each check of WellFormed, a few single commands whose results the
spec's text gives, and for each statement with hypotheses a witness that meets them. -/

namespace Sys2Proof.Tests

open Sys2Proof.Machine Sys2Proof.Slice0

/-! ### Small states -/

/-- A tile in Noon whose sequencer runs. -/
def calmT : Tile := { power := .noon, seq := { st := .running } }

/-- The state after reset with one tile replaced. -/
def one (x : Tile) : State := State.reset.setTile 0 x

/-- A tile in Noon whose sequencer has halted. -/
def restT : Tile := { power := .noon }

/-- Fields of the sequencer slot: d, a, b, sub, imm. -/
def sq (d a b sub imm : Nat) : SeqF := ⟨BitVec.ofNat 7 d, BitVec.ofNat 7 a, BitVec.ofNat 7 b, BitVec.ofNat 3 sub, BitVec.ofNat 24 imm⟩

theorem calm_running : Calm ((one calmT).tile 0) := ⟨⟨by decide, rfl⟩, rfl, rfl, by decide, rfl⟩

/-- Service core 0 reaches tile 0 when nothing on the way is stopped. -/
def onState (x : Tile) : State := { one x with pwr := { pgRun := 0xFFFF } }

theorem reaches_tile : Reaches (onState restT) (.sc 0) 0 := ⟨by decide, by decide, by decide⟩

theorem may_write : MayWrite State.reset (.sc 0) := ⟨by decide, by decide⟩

/-! ### Ill-formed operands are refused (WellFormed.lean) -/

theorem test_address_outside_space : exec (.registerWrite (.sc 0) (2 ^ 48) false 0) State.reset = .fault .noSuchEvent := rfl
theorem test_read_outside_space : exec (.rcRegisterRead (.sc 0) (2 ^ 48) true) State.reset = .fault .noSuchEvent := rfl
theorem test_empty_request : exec (.windowRequest ⟨.tile 0, 0, 0, 0x200000000000, .read 0⟩) State.reset = .fault .noSuchEvent := rfl
theorem test_long_request : exec (.stackRequest ⟨.tile 0, 0, 0, 0, .read 257⟩) State.reset = .fault .noSuchEvent := rfl
theorem test_symbol_count : exec (.stackRequestIssue 0 0 0 [(0, 37)]) State.reset = .fault .noSuchEvent := rfl
theorem test_bank_number : exec (.refresh 0 4096 false) State.reset = .fault .noSuchEvent := rfl
theorem test_scrub_symbols : exec (.scrubStep 0 37) State.reset = .fault .noSuchEvent := rfl
theorem test_long_host_read : exec (.bar0Access ⟨0, .read 4097⟩) State.reset = .fault .noSuchEvent := rfl
theorem test_long_host_write (d : List PByte) (h : d.length = 513) : exec (.bar2Access ⟨0, .write d⟩) State.reset = .fault .noSuchEvent := by
  have w : BarAcc.wf ⟨0, .write d⟩ = false := by simp [BarAcc.wf, ReqOp.size, h]
  simp only [exec, execBar2Access, w]
  rfl
theorem test_ill_formed_terms : Instr.wf (.refresh 0 4096 false) = false ∧ Instr.wf (.scrubStep 0 37) = false ∧
    Instr.wf (.registerWrite .lookout (2 ^ 48) false 0) = false ∧ Instr.wf (.stackRequestIssue 0 0 0 [(0, 0)]) = false ∧
    Instr.wf (.bar0Access ⟨0, .read 0⟩) = false := by decide

/-! ### Witnesses -/

theorem witness_StepRunsFrontCommand : ({ State.reset with pending := [.pcieLinkDown] } : State).pending = .pcieLinkDown :: [] ∧
    State.reset.pending = [] := ⟨rfl, rfl⟩

theorem witness_StepKeepsStateOrderly : Orderly { State.reset with pending := [.pcieLinkDown] } ∧
    step { State.reset with pending := [.pcieLinkDown] } = .next State.reset :=
  ⟨⟨rfl, by decide, by decide, by decide, by decide, rfl⟩, rfl⟩

theorem witness_ExecKeepsQueueAndPart : exec .pcieLinkDown State.reset = .next State.reset := rfl

theorem witness_ScalarOperationsGiveTheirValue : Calm ((one calmT).tile 0) ∧ (scalarOps ≠ []) ∧
    readSrc ((one calmT).tile 0) 0 0 = .ok 0 ∧ readSrc ((one calmT).tile 0) 0x4F 0 = .ok 0 ∧ readSrc ((one calmT).tile 0) 0x7F 5 = .ok 5 ∧
    dstKind 0x0F ≠ .trap ∧ dstKind 0x5B ≠ .trap ∧ dstKind 0x60 ≠ .trap ∧ dstKind 0x6F ≠ .trap :=
  ⟨calm_running, by simp [scalarOps], rfl, rfl, rfl, by decide, by decide, by decide, by decide⟩

theorem witness_ReservedOperandsTrap : Calm ((one calmT).tile 0) ∧ dstKind 0x10 = .trap ∧ dstKind 0x7F = .trap ∧
    srcOperand ((one calmT).tile 0) 0x70 0 = none ∧ srcOperand ((one calmT).tile 0) 0x5C 0 = none ∧
    ∃ a, readSrc ((one calmT).tile 0) 0x5B 0 = .ok a := ⟨calm_running, rfl, rfl, rfl, rfl, 0, rfl⟩

theorem witness_ProductRetiresInThirdCycle : Calm ((one calmT).tile 0) ∧ readSrc ((one calmT).tile 0) 0x0F 0 = .ok 0 ∧
    dstKind 0 = .reg ∧ dstKind 0x6F = .reg ∧ dstKind 0x58 = .loopCounter := ⟨calm_running, rfl, rfl, rfl, rfl⟩

theorem witness_HaltAndTrapStopIssue : Calm ((one calmT).tile 0) := calm_running

theorem witness_BranchesJumpOnTheirCondition : Calm ((one calmT).tile 0) ∧ 5 < (sq 0 0 0 6 0).sub.toNat ∧ 2 < (sq 3 0 0 0 0).d.toNat ∧
    (sq 2 0 0 5 0).sub.toNat ≤ 5 ∧ (sq 2 0 0 5 0).d.toNat ≤ 2 ∧ readSrc ((one calmT).tile 0) 0 0 = .ok 0 :=
  ⟨calm_running, by decide, by decide, by decide, by decide, rfl⟩

/-- A running tile with the live loop 0 to 1 of counter 0 at n, whose end is the bundle at the pc. -/
def loopT (n : W32) : Tile := { calmT with seq := { calmT.seq with pc := 1, loop := tset 0 [] 0 n, loops := [⟨0, 0, 1⟩] } }

theorem witness_LoopOpensSkipsAndGoesBack :
    (let x := (one calmT).tile 0
     Calm x ∧ 0x58 ≤ (sq 0x58 0x7F 0 0 0).d.toNat ∧ (sq 0x5B 0x4F 0 0 0).d.toNat < 0x5C ∧ x.seq.pc.toNat < (sq 0x5B 0x4F 0 0 1).imm.toNat % 2048 ∧
     (sq 0x5B 0x4F 0 0 1).a.toNat < 0x50 ∧ (sq 0x58 0x7F 0 0 0x801).a.toNat = 0x7F ∧ x.seq.loops.any (·.k = 0) = false ∧
     loopCount x (sq 0x58 0x7F 0 0 0x801) ≠ 0 ∧ loopCount x (sq 0x58 0x7F 0 0 1) = 0) ∧
    (let x := (one (loopT 2)).tile 0
     Calm x ∧ x.seq.loops = [⟨0, 0, 1⟩] ∧ x.seq.loops.any (·.k = 0) = true ∧ x.seq.pc.toNat = 1 ∧ 1 < (tget 0 x.seq.loop 0).toNat ∧
     cond x 0 = false) ∧
    (let x := (one (loopT 1)).tile 0
     Calm x ∧ x.seq.loops = [⟨0, 0, 1⟩] ∧ (tget 0 x.seq.loop 0).toNat ≤ 1 ∧ cond x 0 = false) :=
  ⟨⟨calm_running, by decide, by decide, by decide, by decide, by decide, by decide, by decide, by decide⟩,
   ⟨⟨⟨by decide, rfl⟩, rfl, rfl, by decide, rfl⟩, rfl, rfl, rfl, by decide, by decide⟩,
   ⟨⟨⟨by decide, rfl⟩, rfl, rfl, by decide, rfl⟩, rfl, by decide, by decide⟩⟩

theorem witness_LoadAndStoreAccessNextCycle : Calm ((one calmT).tile 0) ∧ readSrc ((one calmT).tile 0) 0 0 = .ok 0 ∧ dstKind 0 ≠ .trap ∧
    (accessOf (sq 0 0 0 3 0x7FFFF8) 0).1 + (accessOf (sq 0 0 0 3 0x7FFFF8) 0).2 ≤ spSize ∧
    spSize < (accessOf (sq 0 0 0 3 0x7FFFF9) 0).1 + (accessOf (sq 0 0 0 3 0x7FFFF9) 0).2 :=
  ⟨calm_running, rfl, by decide, by decide, by decide⟩

/-- A running tile that remembers bundle 1 as the next, with work and retirements in flight. -/
def workT (k : List Task) (r : List Ret) (p : Tab Bool) : Tile :=
  { calmT with seq := { calmT.seq with undo := some (1, []) }, tasks := k, rets := r, spPois := p }

theorem witness_RetireStepPerformsDueWork :
    (let x := (one (workT [] [] [])).tile 0
     x.power = .noon ∧ x.seq.st = .running ∧ x.outs.all TileOut.isPhase = true ∧ x.seq.chk = false ∧ x.seq.undo = some (1, []) ∧
     x.tasks = [] ∧ x.rets = [] ∧ dstKind 0 = .reg) ∧
    ((one (workT [⟨0, 0, 0, 0, 0, .st 0 [1]⟩] [] [])).tile 0).tasks = [⟨0, 0, 0, 0, 0, .st 0 [1]⟩] ∧
    anyPois (spRead ((one (workT [⟨0, 0, 0, 0, 0, .ld 0 0 8 false⟩] [] [])).tile 0) 0 8) = false ∧
    anyPois (spRead ((one (workT [⟨0, 0, 0, 0, 0, .ld 0 0 8 false⟩] [] [(0, true)])).tile 0) 0 8) = true ∧
    ((one (workT [] [⟨0, 0, 0, 0, .sreg 0 1⟩] [])).tile 0).rets = [⟨0, 0, 0, 0, .sreg 0 1⟩] :=
  ⟨⟨rfl, rfl, rfl, rfl, rfl, rfl, rfl, rfl⟩, rfl, rfl, rfl, rfl⟩

/-- A running tile 0 whose context 0 has stream event counters at memory address 0. -/
def eventS : State := { one calmT with stk := tset StkBlk.zero [] 0 { ready := true } }

theorem witness_CmpsetSigAndHsigActAtIssue : Calm ((one calmT).tile 0) ∧ readSrc ((one calmT).tile 0) 0 0 = .ok 0 ∧
    (sq 0 0x0F 0 0 0).a.toNat < 0x10 ∧ (0x60 ≤ (sq 0 0x6F 0 0 0).a.toNat ∧ (sq 0 0x6F 0 0 0).a.toNat < 0x70) ∧
    ¬ ((sq 0 0x10 0 0 0).a.toNat < 0x10 ∨ (0x60 ≤ (sq 0 0x10 0 0 0).a.toNat ∧ (sq 0 0x10 0 0 0).a.toNat < 0x70)) ∧
    (sq 0x6F 0 0 0 0).d.toNat = 0x60 + (15 : Fin 16).val ∧ ¬ (0x60 ≤ (sq 0x70 0 0 0 0).d.toNat ∧ (sq 0x70 0 0 0 0).d.toNat < 0x70) ∧
    Calm (eventS.tile 0) ∧ eventS.evGet 0 (eventS.ctxOf 0) 0 = some 0 :=
  ⟨calm_running, rfl, by decide, by decide, by decide, rfl, by decide, ⟨⟨by decide, rfl⟩, rfl, rfl, by decide, rfl⟩, by decide⟩

/-- A tile whose sequencer waits since cycle 0, at cycle c, with a wait limit. -/
def waitT (c : Nat) (lim : W32) (w : WaitFor) : Tile :=
  { calmT with cyc := c, seq := { calmT.seq with st := .waiting, wait := some w, waitlim := lim, undo := some (1, []) } }

theorem witness_WaitsBlockEndAndTimeOut :
    (let x := (one calmT).tile 0
     Calm x ∧ waitHolds x .fence = true ∧ waitHolds x (.comparator 0) = false ∧ x.seq.waitlim ≠ 1) ∧
    (let x := (one { calmT with seq := { calmT.seq with waitlim := 1 } }).tile 0
     Calm x ∧ waitHolds x (.comparator 0) = false ∧ x.seq.waitlim = 1) ∧
    (let x := (one (waitT 3 4 .fence)).tile 0
     Quiet x ∧ x.seq.st = .waiting ∧ x.seq.wait = some .fence ∧ x.seq.undo = some (1, []) ∧ x.cyc ≤ x.seq.waitAt + x.seq.waitlim.toNat - 1 ∧
     waitHolds x .fence = true) ∧
    (let x := (one (waitT 3 4 (.comparator 0))).tile 0
     Quiet x ∧ x.seq.waitlim ≠ 0 ∧ x.cyc = x.seq.waitAt + x.seq.waitlim.toNat - 1 ∧ x.seq.waitAt ≤ x.cyc ∧ waitHolds x (.comparator 0) = false) :=
  ⟨⟨calm_running, by decide, by decide, by decide⟩, ⟨⟨⟨by decide, rfl⟩, rfl, rfl, by decide, rfl⟩, by decide, rfl⟩,
   ⟨⟨by decide, rfl⟩, rfl, rfl, rfl, by decide, by decide⟩, ⟨⟨by decide, rfl⟩, by decide, by decide, by decide, by decide⟩⟩

/-- A running tile whose bundle 0 holds a value. -/
def bundleT (b : BitVec 256) (bad : Bool) : Tile :=
  { calmT with seq := { calmT.seq with store := tset 0 [] 0 b, storeBad := tset false [] 0 bad } }

theorem witness_BundleRunsSequencerOperation : Calm ((one (bundleT 0x11 false)).tile 0) ∧ (0x11, Instr.seqAdd) ∈ seqCodes ∧
    tget false ((one (bundleT 0x11 false)).tile 0).seq.storeBad 0 = false ∧ tget 0 ((one (bundleT 0x11 false)).tile 0).seq.store 0 = 0x11 ∧
    ((0x11 : BitVec 256).extractLsb' 0 8).toNat = 0x11 ∧ (0x11 : BitVec 256).extractLsb' 56 200 = 0 :=
  ⟨⟨⟨by decide, rfl⟩, rfl, rfl, by decide, rfl⟩, by simp [seqCodes], by decide, by decide, by decide, by decide⟩

theorem witness_BadBundleHaltsWithoutIssue : Calm ((one (bundleT 0 true)).tile 0) ∧
    tget false ((one (bundleT 0 true)).tile 0).seq.storeBad 0 = true := ⟨⟨⟨by decide, rfl⟩, rfl, rfl, by decide, rfl⟩, by decide⟩

theorem witness_PhaseStartsAndStopsTileTimer : Calm ((one calmT).tile 0) ∧ (sq 0 0 0 0 0x70000).imm.toNat / 2 ^ 16 % 8 = (7 : Fin 8).val :=
  ⟨calm_running, by decide⟩

/-! ### Registers of tiles, engines -/

theorem witness_StartCopiesCodeAndStopHalts :
    (let s := onState { restT with seq := { restT.seq with codelen := 1 } }
     let x := s.tile 0
     Reaches s (.sc 0) 0 ∧ x.seq.st = .halted ∧ x.power = .noon ∧ x.seq.valid = false ∧ 0 < x.seq.codelen.toNat % 4096 ∧
     x.seq.codebase.toNat + 32 * (x.seq.codelen.toNat % 4096) ≤ spSize) ∧
    (let x := (onState { restT with seq := { restT.seq with valid := true } }).tile 0
     x.seq.st = .halted ∧ x.power = .noon ∧ ¬ ((8 : W32)[3] = false ∨ x.seq.valid = false)) ∧
    (let x := (onState restT).tile 0
     x.seq.st = .halted ∧ ((0 : W32)[3] = false ∨ x.seq.valid = false) ∧ ¬ 0 < x.seq.codelen.toNat % 4096) ∧
    (let x := (onState restT).tile 1
     x.seq.st = .halted ∧ x.power ≠ .noon) ∧
    ((onState calmT).tile 0).seq.st ≠ .halted ∧ (1 : W32)[0] = true ∧ (1 : W32)[1] = false ∧
    (let x := (one { restT with seq := { restT.seq with st := .loading, codelen := 1 } }).tile 0
     x ≠ Tile.reset ∧ Quiet x ∧ x.seq.st = .loading ∧ x.seq.nextAt ≤ x.cyc) ∧
    (let x := (one restT).tile 0
     x ≠ Tile.reset ∧ Quiet x ∧ x.seq.st ≠ .loading) :=
  ⟨⟨⟨by decide, by decide, by decide⟩, rfl, rfl, rfl, by decide, by decide⟩, ⟨rfl, rfl, by decide⟩, ⟨rfl, by decide, by decide⟩,
   ⟨rfl, by decide⟩, by decide, by decide, by decide, ⟨by decide, ⟨by decide, rfl⟩, rfl, by decide⟩, ⟨by decide, ⟨by decide, rfl⟩, by decide⟩⟩

theorem witness_ArrayEnableAbandonsItsArray :
    (let s := onState { restT with mx := { clken := 0xF } }
     Reaches s (.sc 0) 0 ∧ (s.tile 0).power = .noon ∧
     (∀ m < 4, (s.tile 0).mx.clken.getLsbD m = true → (0xF : BitVec 4).getLsbD m = true) ∧
     (s.tile 0).mx.clken.getLsbD 3 = true ∧ (0x7 : BitVec 4).getLsbD 3 = false ∧
     (∀ m < 4, m ≠ 3 → (s.tile 0).mx.clken.getLsbD m = true → (0x7 : BitVec 4).getLsbD m = true)) :=
  ⟨⟨by decide, by decide, by decide⟩, rfl, by decide, by decide, by decide, by decide⟩

theorem witness_DrizzleOpensClosesAborts :
    (let s := onState { restT with dz := { rows := 1, dstr := 64 } }
     Reaches s (.sc 0) 0 ∧ (s.tile 0).power = .noon) ∧
    Fmt.ofCode ((0x00000001 : W32).extractLsb' 24 4).toNat = some .bf16 ∧ dzFmtOk .bf16 = true ∧
    (let d : DzBlk := { rows := 1, dstr := 64, rowlen := 1 }
     d.rowlen ≠ 0 ∧ d.rows ≠ 0 ∧ d.data.toNat % 64 = 0 ∧ d.dir.toNat % 64 = 0 ∧ d.dstr.toNat % 64 = 0 ∧
     4 * ((d.rowlen.toNat + 63) / 64) ≤ d.dstr.toNat) ∧
    Fmt.ofCode ((0x0D000001 : W32).extractLsb' 24 4).toNat = none ∧
    (Fmt.ofCode ((0x08000001 : W32).extractLsb' 24 4).toNat = some .fp32 ∧ dzFmtOk .fp32 = false) ∧
    (0x00000001 : W32)[29] = false ∧ ((onState { restT with dz := { active := true } }).tile 0).dz.active = true ∧
    ((onState restT).tile 0).dz.active = false :=
  ⟨⟨⟨by decide, by decide, by decide⟩, rfl⟩, rfl, rfl, by decide, rfl, ⟨rfl, rfl⟩, by decide, rfl, rfl⟩

theorem witness_VectorClearAndReseedSetBusy : Reaches (onState restT) (.sc 0) 0 ∧ ((onState restT).tile 0).power = .noon ∧
    ((onState restT).tile 0).seq.st = .halted ∧ (2 : W32)[1] = true ∧ (0 : W32)[1] = false ∧ ((onState calmT).tile 0).seq.st ≠ .halted :=
  ⟨reaches_tile, rfl, rfl, by decide, by decide, by decide⟩

theorem witness_PhaseTimersClearStartAndStop : Reaches (onState restT) (.sc 0) 0 ∧ ((onState restT).tile 0).power = .noon ∧
    MayWrite State.reset (.sc 0) := ⟨reaches_tile, rfl, may_write⟩

/-- A tile 0 of context 0 that sends a phase record, and a trace buffer that is claimed for phases. -/
def recordS (b : TrcBlk) : State := { onState { restT with outs := [.phase 2 0x31 8368] } with trc := b }

theorem witness_PhaseRecordsReachTraceBuffer :
    (let s := recordS { clmTrc := 1 }
     (s.tile 0).outs = .phase 2 0x31 8368 :: [] ∧ (routeTiles 0 (hubPortTile 0)).all (fun i => s.groupRuns (groupOf i)) = true ∧
     s.trc.clmTrc &&& 0xF#32 = 1 ∧ s.trc.frozen = false ∧ s.ownsTrace 0 = true ∧ s.trc.held ≠ trcSize) ∧
    ((recordS {}).trc.clmTrc &&& 0xF#32 ≠ 1) ∧ (recordS { clmTrc := 1, frozen := true }).trc.frozen = true ∧
    (routeTiles 0 (hubPortTile 0)).all (fun i => (one restT).groupRuns (groupOf i)) = false ∧
    (recordS { clmTrc := 0x00010001 }).ownsTrace 0 = false ∧
    (let s := recordS { clmTrc := 1, held := trcSize }
     s.ownsTrace 0 = true ∧ s.trc.held = trcSize ∧ s.trc.wrap = false) ∧ (recordS { clmTrc := 1, held := trcSize, wrap := true }).trc.wrap = true :=
  ⟨⟨rfl, by decide, by decide, rfl, by decide, by decide⟩, by decide, rfl, by decide, by decide, ⟨by decide, rfl, rfl⟩, rfl⟩

/-- Fields of the vector slot in count form: format, count minus 1, vd, va. -/
def vf (form : Bool) (fmt n vd va asrc bsrc : Nat) : VecF :=
  ⟨form, BitVec.ofNat 4 fmt, 8, BitVec.ofNat 12 n, BitVec.ofNat 5 vd, BitVec.ofNat 5 va, 1, 2, BitVec.ofNat 2 asrc, BitVec.ofNat 2 bsrc, 0, 0, 0, 0,
    false, false, 0⟩

/-- A running tile whose lanes, load and store paths and special-function slot are occupied. -/
def busyT : Tile := { calmT with ve := { lanesFree := 9, pathFree := 9, lsFree := 9 }, sf := { free := 9 } }

theorem calm_busy : Calm ((one busyT).tile 0) := ⟨⟨by decide, rfl⟩, rfl, rfl, by decide, rfl⟩

theorem witness_VectorOperationsEnterLanes :
    (let x := (one calmT).tile 0
     Calm x ∧ (VOp.add, Instr.vadd) ∈ vecOps ∧ x.ve.lanesFree ≤ x.cyc ∧ (vInst x .add (vf false 8 0 0 0 0 0) []).countBad = false ∧
     (vInst x .add (vf false 8 127 0 0 1 0) []).countBad = false ∧ descRefused (vInst x .add (vf true 8 0 0 0 0 0) []) = false ∧
     (vInst x .add (vf false 15 0 0 0 0 0) []).countBad = true ∧ descRefused (vInst x .fma (vf true 8 0 0 0 0 0) []) = true) ∧
    (let x := (one busyT).tile 0
     Calm x ∧ ¬ x.ve.lanesFree ≤ x.cyc ∧ (vInst x .add (vf false 8 0 0 0 0 0) []).countBad = false ∧
     descRefused (vInst x .add (vf true 8 0 0 0 0 0) []) = false) :=
  ⟨⟨calm_running, by simp [vecOps, elemOps], by decide, by decide, by decide, by decide, by decide, by decide⟩,
   ⟨calm_busy, by decide, by decide, by decide⟩⟩

theorem witness_ElementwiseResultsRetireAtLatency :
    let x := (one calmT).tile 0
    let v := vInst x .add (vf false 8 511 0 0 0 0) []
    Calm x ∧ (VOp.add, Instr.vadd) ∈ elemOps ∧ v.countBad = false ∧ x.ve.lanesFree ≤ x.cyc ∧ v.ck = [] ∧ (vf false 8 511 0 0 0 0).cnt ≤ v.C :=
  ⟨calm_running, by simp [elemOps], by decide, by decide, rfl, by decide⟩

theorem witness_TableExpandAndRecombineIssue :
    (let f : VecF := { vf false 12 0 0 0 0 0 with sub := 2 }
     let x := (one { calmT with sf := { claim := 1 } }).tile 0
     Calm x ∧ State.reset.fx = true ∧ x.sf.use = 1 ∧ x.ve.lanesFree ≤ x.cyc ∧ (vInst x .ptld f []).ptBad = false ∧ (vInst x .ptmac f []).ptBad = false) ∧
    ((one calmT).tile 0).sf.use ≠ 1 ∧ ({ State.reset with fx := false } : State).fx = false ∧
    (let x := (one { calmT with mx := { arr := tset MxArr.zero [] 0 { sliceN := 7 } } }).tile 0
     Calm x ∧ (vInst x .rcmb (vf false 8 0 0 0 0 0) []).rcBad = false ∧ (marr x 0).sliceN.toNat ≠ 0 ∧ 0 + 1 * (marr x 0).sliceN.toNat ≤ 128) ∧
    ¬ ((one busyT).tile 0).ve.lanesFree ≤ ((one busyT).tile 0).cyc :=
  ⟨⟨⟨⟨by decide, rfl⟩, rfl, rfl, by decide, rfl⟩, rfl, rfl, by decide, by decide, by decide⟩, by decide, rfl,
   ⟨⟨⟨by decide, rfl⟩, rfl, rfl, by decide, rfl⟩, by decide, by decide, by decide⟩, by decide⟩

/-- Fields of the load/store slot. -/
def lf (vfmt dfmt n : Nat) : LsF := ⟨BitVec.ofNat 4 vfmt, BitVec.ofNat 4 dfmt, BitVec.ofNat 12 n, 0, 0, 0, 0, false, false, 0⟩

theorem witness_LoadStoreSlotMovesUnits :
    (let x := (one calmT).tile 0
     Calm x ∧ x.ve.lsFree ≤ x.cyc ∧ x.ve.pathFree ≤ x.cyc ∧ (lInst x 1 (lf 8 8 0)).bad = false ∧ (lInst x 2 (lf 5 8 0)).bad = false ∧
     (lInst x 3 (lf 8 8 0)).bad = false ∧ (lf 8 8 0).fmt?.isNone = false ∧ regFmt (lf 8 8 0).fm = true ∧ groupBad .fp32 0 64 = false ∧
     (lInst x 1 (lf 15 8 0)).bad = true ∧ (lf 15 8 0).fmt?.isNone = true) ∧
    ¬ (((one busyT).tile 0).ve.lsFree ≤ ((one busyT).tile 0).cyc) :=
  ⟨⟨calm_running, by decide, by decide, by decide, by decide, by decide, by decide, by decide, by decide, by decide, by decide⟩, by decide⟩

/-- Fields of the special-function slot. -/
def sf (func : Nat) (form : Bool) (ifmt : Nat) : SfF := ⟨BitVec.ofNat 5 func, form, BitVec.ofNat 4 ifmt, 8, 0, 0, 0, 0, 0, false, 0, 0⟩

theorem witness_SpecialFunctionsTakeGrants :
    (let x := (one calmT).tile 0
     Calm x ∧ x.sf.free ≤ x.cyc ∧ (sInst x 0 (sf 0 false 8) []).isUser = false ∧ (sInst x 0 (sf 0 false 8) []).bad = false ∧
     (sInst x 1 (sf 0 false 8) []).bad = false ∧ (sInst x 2 (sf 0 true 8) []).bad = false ∧
     (sInst x 0 (sf 14 false 8) []).isUser = true ∧ x.sf.use ≠ 2 ∧ (sInst x 0 (sf 15 false 8) []).bad = true) ∧
    (let x := (one { calmT with sf := { claim := 2 } }).tile 0
     let i := sInst x 3 (sf 0 false 8) []
     x.sf.use = 2 ∧ i.sva.toNat % 2 ^ 23 % 64 = 0 ∧ i.svd.toNat % 64 = 0 ∧ i.sva.toNat % 2 ^ 23 + 64 * i.cnt ≤ spSize ∧
     i.svd.toNat + 64 * i.cnt ≤ 0x20000) ∧
    (let x := (one { calmT with sf := { claim := 2 }, seq := { calmT.seq with scalar := tset 0 [] 0 1 } }).tile 0
     x.sf.use = 2 ∧ ¬ (sInst x 3 (sf 0 false 8) []).sva.toNat % 2 ^ 23 % 64 = 0) ∧
    (Calm ((one busyT).tile 0) ∧ ¬ ((one busyT).tile 0).sf.free ≤ ((one busyT).tile 0).cyc) :=
  ⟨⟨calm_running, by decide, by decide, by decide, by decide, by decide, by decide, by decide, by decide⟩,
   ⟨by decide, by decide, by decide, by decide, by decide⟩, ⟨by decide, by decide⟩, calm_busy, by decide⟩

/-- A running tile with array 0 enabled and an MMA descriptor at offset 0 (R140, the worked example). -/
def mmT (run : Option MxOp) (pend : Option MxOp) : Tile :=
  { calmT with
    mx := { clken := 1, arr := tset MxArr.zero [] 0 { run := run, pend := pend } }
    sp := tsetList 0 [] 0 ([0x0000001F03000008, 0x80, 0x0000010000010000, 0x0000010000020000, 0, 0, 0, 0].flatMap (leBytes 8)) }
/-- The operation that the descriptor at offset 0 of a tile gives. -/
def mmOp (x : Tile) : MxOp := ⟨0, 0, .mma, (List.range 8).map (fun i => BitVec.ofNat 64 (leNatP (((spRead x 0 64).drop (8 * i)).take 8))), []⟩

theorem witness_MatrixOperationsRunPendOrDrop :
    (let x := (one (mmT none none)).tile 0
     Calm x ∧ (marr x 0).pend = none ∧ (marr x 0).run = none ∧ x.mx.clken.getLsbD 0 = true ∧ (mmOp x).bad true = false ∧ (mmOp x).clash (marr x 0) = false) ∧
    (let x := (one (mmT (some ⟨0, 0, .mma, [], []⟩) none)).tile 0
     Calm x ∧ (marr x 0).pend = none ∧ (marr x 0).run = some ⟨0, 0, .mma, [], []⟩ ∧ (mmOp x).clash (marr x 0) = false) ∧
    (let x := (one { mmT none none with sp := tset 0 [] 15 1 }).tile 0
     (mmOp x).bad true = true) ∧
    (let x := (one { mmT none none with sp := tsetList 0 [] 0 (leBytes 8 0x0000001F03000000 ++ [0x80]), mx := { clken := 1, arr := tset MxArr.zero [] 0 { amode := 1 } } }).tile 0
     (mmOp x).bad true = false ∧ (mmOp x).clash (marr x 0) = true) ∧
    (marr ((one (mmT none (some ⟨0, 0, .mma, [], []⟩))).tile 0) 0).pend ≠ none ∧
    ((one calmT).tile 0).mx.clken.getLsbD 0 = false ∧
    (let x := (one { mmT none none with seq := { calmT.seq with scalar := tset 0 [] 0 8 } }).tile 0
     (scalarOf x 0).toNat % 2 ^ 23 % 64 ≠ 0) :=
  ⟨⟨⟨⟨by decide, rfl⟩, rfl, rfl, by decide, rfl⟩, by decide, by decide, by decide, by decide, by decide⟩,
   ⟨⟨⟨by decide, rfl⟩, rfl, rfl, by decide, rfl⟩, by decide, by decide, by decide⟩, by decide, ⟨by decide, by decide⟩, by decide, by decide, by decide⟩

theorem witness_PendingOperationTakesArray :
    (let x := (one restT).tile 0
     (marr x 0).pend = none ∧ x ≠ Tile.reset ∧ x.outs.all TileOut.isPhase = true) ∧
    (let o : MxOp := ⟨0, 0, .mma, [], []⟩
     let x := (one { mmT (some o) (some o) with tasks := [⟨0, 0, 0, 0, 0, .mxEnd 0⟩] }).tile 0
     (marr x 0).pend = some o ∧ (marr x 0).run = some o ∧ x.power = .noon ∧ x.seq.st ≠ .waiting ∧ x.seq.chk = false ∧
     x.outs.all TileOut.isPhase = true ∧ x.tasks = ⟨0, 0, 0, 0, 0, .mxEnd 0⟩ :: [] ∧ x.cyc = 0 ∧ x.rets = []) :=
  ⟨⟨by decide, by decide, rfl⟩, by decide, by decide, rfl, by decide, rfl, rfl, rfl, rfl, rfl⟩

/-! ### Claims, channels, directory, translator -/

theorem witness_ClaimAndReleaseSetOwner : Reaches (onState restT) (.sc 0) 0 ∧ ((onState restT).tile 0).power = .noon ∧ MayWrite State.reset (.sc 0) ∧
    (State.reset.trc.clmTrc &&& 0xF#32 = 0 ∧ ((1 : W32) &&& 0xF#32) ≠ 0 ∧ ((1 : W32) &&& 0xF#32) = 1) ∧
    (let s : State := { State.reset with sec := { debugOpen := true } }
     s.sec.debugOpen = true ∧ s.sec.conf = false ∧ ((2 : W32) &&& 0xF#32) = 2) ∧
    ({ State.reset with trc := { clmTrc := 1 } } : State).trc.clmTrc &&& 0xF#32 ≠ 0 ∧
    ¬ (((3 : W32) &&& 0xF#32) = 1 ∨ (((3 : W32) &&& 0xF#32) = 2 ∧ State.reset.sec.debugOpen = true ∧ State.reset.sec.conf = false)) ∧
    State.reset.trc.clmEvt &&& 0xF#32 ≠ 2 ∧ ({ State.reset with trc := { clmEvt := 2 } } : State).trc.clmEvt &&& 0xF#32 = 2 :=
  ⟨reaches_tile, rfl, may_write, by decide, by decide, by decide, by decide, by decide, by decide⟩

/-- A channel that copies 64 bytes from stack memory to stack memory. -/
def copyCh : DmaCh := { src := 0, dst := 0x10000, cnt := 64 }
/-- That channel Running, with work in flight. -/
def runCh (l : List DmaBurst) : DmaCh := { copyCh with st := .running, infl := l }
/-- A tile in Noon, its sequencer running, with a channel 0. -/
def dmaT (c : DmaCh) : Tile := { calmT with dma := tset DmaCh.zero [] 0 c }

theorem witness_DmaControlActsOnItsChannel :
    (let s := onState (dmaT copyCh)
     let c := ctlKept (tdma (s.tile 0) 0) false
     Reaches s (.sc 0) 0 ∧ (s.tile 0).power = .noon ∧ Agent.sc 0 ≠ .tile 0 ∧ c.st = .idle ∧ c.check false = 0 ∧ c.isZero = false) ∧
    (ctlKept (tdma ((onState (dmaT (runCh []))).tile 0) 0) false).st ≠ .idle ∧
    (let s : State := { State.reset with pwr := { huben := 0xF } }
     MayWrite s (.sc 0) ∧ s.hubEn 1 = true ∧ s.sec.conf = false) ∧
    (let x := (one (dmaT (runCh [⟨0, 0, 64, 1, 0, [], []⟩]))).tile 0
     Calm x ∧ (tdma x 0).st = .running ∧ (tdma x 0).infl.any (·.outstanding) = true) :=
  ⟨⟨⟨by decide, by decide, by decide⟩, rfl, by decide, by decide, by decide, by decide⟩, by decide, ⟨⟨by decide, by decide⟩, by decide, rfl⟩,
   ⟨⟨by decide, rfl⟩, rfl, rfl, by decide, rfl⟩, by decide, by decide⟩

theorem witness_DmaBurstsIssueRespondAndRetry :
    (let c := tdma ((one (dmaT (runCh []))).tile 0) 0
     c.st = .running ∧ issueWrite c.infl = none ∧ c.inFlight < 4 ∧ c.next < c.bursts) ∧
    (let w : DmaWr := ⟨0x10000, 0, 64, 0, 0⟩
     let b : DmaBurst := ⟨0, 0, 64, 2, 0, List.replicate 64 (0, false), [w]⟩
     issueWrite (tdma ((one (dmaT (runCh [b]))).tile 0) 0).infl = some (b, w, [{ b with wrs := [{ w with st := 1 }] }])) ∧
    (let r : Resp := ⟨⟨.tile 0, 7, 0, 0, .read 64⟩, 0, []⟩
     let s : State := { State.reset with resps := [r] }
     s.resps[0]? = some r ∧ r.req.src = .tile 0 ∧ r.req.chan = (7 : Fin 8).val ∧ r.req.chan ≠ (0 : Fin 8).val) ∧
    (let b : DmaBurst := ⟨3, 0, 64, 3, 0, [], []⟩
     let c := tdma ((one (dmaT (runCh [b]))).tile 0) 0
     c.st = .running ∧ c.infl.find? (fun y => y.idx = 3) = some b ∧ b.rst = 3) :=
  ⟨by decide, by decide, by decide, by decide⟩

/-- The state after reset with stash slot 0 replaced. -/
def slotS (x : StashSlot) : State := State.reset.setSlotOf 0 x

theorem witness_StashSlotsFollowTheirOwner : MayWrite State.reset (.sc 0) ∧ (State.reset.slotOf 0).st = 0 ∧
    (let x := (slotS { st := 1, base := 0x1000, size := 0x17FFFFFF000 }).slotOf 0
     let g := State.reset.tagOf (.tile 0)
     x.st = 1 ∧ x.part.toNat = g.part ∧ x.ctx.toNat = g.ctx ∧ x.base.toNat % 4096 = 0 ∧ x.base.toNat + x.size.toNat ≤ memEnd) ∧
    (¬ ((slotS { st := 1, base := 0x800 }).slotOf 0).base.toNat % 4096 = 0) ∧
    (let x := (slotS { st := 2, ctx := 3 }).slotOf 0
     x.st ≠ 0 ∧ (State.reset.tagOf (.sc 0)).fw = true ∧ ¬ x.ctx.toNat = (State.reset.tagOf (.tile 0)).ctx ∧ (State.reset.tagOf (.tile 0)).fw = false ∧
     ¬ x.st = 1) := ⟨may_write, by decide, by decide, by decide, by decide⟩

/-- Bytes of numbers: place, length, value. -/
def bytesAt (l : List (Nat × Nat × Nat)) : Tab Byte := l.foldl (fun m x => tsetList 0 m x.1 (leBytes x.2.1 x.2.2)) []

/-- The state after reset with the twelve stacks ready, every group and hub block clocked, and bytes of stack memory. -/
def devS (l : List (Nat × Nat × Nat)) : State :=
  { State.reset with
    stk := (List.range 12).map (fun k => (k, { ready := true })), pwr := { pgRun := 0xFFFF, huben := 0xF }
    sec := { crange := tset 0 [] 1 0x20000000000 }, mem := bytesAt l }

/-- A load request at 0x1000 of a module of 128 bytes at 0x2000, with its record at 0x3000 (R266). -/
def loadS (op : Nat) : State :=
  (devS [(0x1000, 2, op), (0x1008, 8, 0x2000), (0x1010, 8, 128), (0x1018, 8, 0x3000)]).setNpc 0 { req := 0x1000 }

theorem witness_TranslatorServesOneRequest : MayWrite (loadS 1) (.sc 0) ∧ (0 : PartIx).val < partCount (loadS 1).partMode ∧
    (let s := loadS 1
     let r := s.hubRead ⟨false, 0, noCtx⟩ 0x1000 64
     (s.npcOf 0).busy = none ∧ (s.npcOf 0).req.toNat = 0x1000 ∧ r.1 = 0 ∧ s.reqOk 0 r.2 = true ∧ leAt r.2 0 2 = 1) ∧
    (let s := loadS 2
     let r := s.hubRead ⟨false, 0, noCtx⟩ 0x1000 64
     r.1 = 0 ∧ s.reqOk 0 r.2 = true ∧ leAt r.2 0 2 = 2) ∧
    (State.reset.hubRead ⟨false, 0, noCtx⟩ 0 64).1 ≠ 0 ∧
    ((State.reset.setNpc 0 { busy := some ⟨none, [], 10⟩ }).npcOf 0).busy = some ⟨none, [], 10⟩ ∧
    ((State.reset.setNpc 0 { busy := some ⟨some 0x3000, [], 0⟩ }).npcOf 0).busy = some ⟨some 0x3000, [], 0⟩ :=
  ⟨⟨by decide, by decide⟩, by decide, by decide, by decide, by decide, by decide, by decide⟩

/-- A collective of a tile. -/
def coll0 : Coll := { id := 9, part := 0, ctx := 0, req := ⟨0, false, 0, 0, 0, 64, 8, 0, none⟩, reply := .tile 0 0 0 }

theorem witness_TilesQueueCollectivesAndUpdates : (devS []).hubEn 2 = true ∧ (devS []).cvy.queue.length < 64 ∧ State.reset.hubEn 2 = false ∧
    64 ≤ ({ devS [] with cvy := { queue := List.replicate 64 coll0 } } : State).cvy.queue.length ∧
    (List.range 12).any (fun k => decide (32 ≤ ((devS []).unit k).queue.length)) = false ∧
    (List.range 12).any (fun k => decide (32 ≤ ((State.reset.setUnit 11 { queue := List.replicate 32 (.pass 0 0 0 0 0) }).unit k).queue.length)) = true :=
  ⟨by decide, by decide, by decide, by decide, by decide, by decide⟩

/-! ### Stacks and stratus units -/

/-- A request for 32 bytes of stack 0. -/
def rd0 : Req := ⟨.sc 0, 0, 0, 0, .read 32⟩
/-- A write of 32 bytes. -/
def wr0 : Req := ⟨.sc 0, 0, 0, 32, .write (List.replicate 32 (1, false))⟩
/-- The ready stacks with requests in the queue of stack 0. -/
def queueS (l : List StkReq) (r : Tab W32) (b : Tab Int) : State := (devS []).setStack 0 { ready := true, queue := l, reg := r, bucket := b }

theorem witness_StackControllersQueueAndIssue :
    (rd0.wf = true ∧ rd0.addr < memEnd ∧ (devS []).mayArrive rd0 = true ∧ (devS []).memCheck ((devS []).tagOf (.sc 0)) rd0.addr 32 = 0 ∧
      State.reset.memCheck (State.reset.tagOf (.sc 0)) rd0.addr 32 ≠ 0) ∧
    (let b := (queueS [⟨rd0, 4, 0⟩, ⟨wr0, 4, 0⟩] [] []).stack 0
     eccWf [(0, 1), (32, 36)] = true ∧ (b.queue.filter (·.cls = 4))[0]? = some ⟨rd0, 4, 0⟩ ∧ (b.queue.filter (·.cls = 4))[1]? = some ⟨wr0, 4, 0⟩ ∧
     tget 0 b.reg 4 &&& 0x3FF#32 = 0 ∧ b.selfRefresh = false ∧ mayPass b ⟨rd0, 4, 0⟩ [] = true) ∧
    (let b := (queueS [⟨rd0, 4, 0⟩] (tset 0 [] 4 1) (tset 0 [] 4 (-1))).stack 0
     ¬ (tget 0 b.reg 4 &&& 0x3FF#32 = 0 ∨ 0 ≤ tget 0 b.bucket 4)) ∧
    (bankWf 4095 = true ∧ bankWf 0 = true) ∧
    (let b := (devS []).stack 0
     b.scrubEn = true ∧ b.ready = true ∧ b.selfRefresh = false ∧ tget 0 b.reg 4 &&& 0x3FF#32 = 0) ∧ (State.reset.stack 0).ready = false :=
  ⟨by decide, by decide, by decide, by decide, by decide, by decide⟩

theorem witness_StackSettingsAndLevelsFollowRules : MayWrite State.reset (.sc 0) ∧ (∃ n, Agent.sc 0 = .sc n) ∧
    ((∀ n, Agent.tile 0 ≠ .sc n) ∧ Agent.tile 0 ≠ .bar0) ∧ (0 : W32)[0] = false ∧ (1 : W32)[0] = true ∧ (State.reset.stack 0).flt = [] ∧
    (let r : FltRec := ⟨1, 0, 0, 0, 0, 0, []⟩
     let s : State := { State.reset.setStack 0 { flt := [r] } with lko := { up := true } }
     (s.stack 0).flt = r :: [] ∧ s.lko.up = true) :=
  ⟨may_write, ⟨0, rfl⟩, ⟨by simp, by simp⟩, by decide, by decide, rfl, by decide⟩

/-- Stack 0 with group 0 of context 0 on its unit: one element, the schedule at 0x4000 (R353, R355). -/
def unitS (job : List StratJob) (step : Nat) : State :=
  (devS [(0x1000, 1, 1), (0x1008, 8, 1), (0x1010, 8, step), (0x1018, 8, 0x2000), (0x1020, 8, 0x2040), (0x1028, 8, 0x2080), (0x1030, 8, 0x20C0),
    (0x1038, 8, 0x2100), (0x1040, 8, 0x2140), (0x1050, 8, 0x4000), (0x4000, 4, 1)]).setUnit 0
    { gtBase := tset 0 [] 0 0x1000, gtCnt := tset 0 [] 0 1, queue := job }

/-- A run of the unit. -/
def run0 : StratRun := ⟨7, 0, 0, 1, [], [], [], []⟩

theorem witness_StratusUnitsServePassesAndChunks :
    (let s := unitS [.pass 7 0 0 0 1] 0
     (s.unit 0).run = none ∧ (s.unit 0).queue = .pass 7 0 0 0 1 :: [] ∧ (s.stack 0).selfRefresh = false ∧
     min 4096 (tget 0 (s.unit 0).gtCnt 0).toNat ≠ 0 ∧ (s.stack 0).halted = false ∧ partOfStack s.partMode 0 = 0 ∧
     (∃ d sc ly, s.stratCheck 0 0 0 0 1 = .ok d sc ly)) ∧
    (unitS [] 5).stratCheck 0 0 0 0 1 = .fail 1 true ∧
    min 4096 (tget 0 (State.reset.unit 0).gtCnt 0).toNat = 0 ∧
    (let s := (unitS [.pass 7 0 0 0 1] 0).setStack 0 { ready := true, halted := true }
     (s.stack 0).halted = true) ∧
    partOfStack (unitS [] 0).partMode 0 ≠ 1 ∧ min 4096 (tget 0 ((unitS [] 0).unit 0).gtCnt 0).toNat ≤ 1 ∧
    (State.reset.setUnit 0 { run := some run0 }).unit 0 = { run := some run0 } ∧
    ((State.reset.unit 0).run = none ∧ (State.reset.unit 0).queue = [] ∧ (State.reset.stack 0).selfRefresh = false) ∧
    (let d := leBytes 8 1 ++ leBytes 8 1 ++ List.replicate 112 0
     let f : FusedRun := ⟨0, 0, 1, d, [], [], [], [], false, 0⟩
     let s := State.reset.setUnit 0 { fused := [f] }
     (s.unit 0).fused.find? (fun x => x.ctx = (0 : Fin 16).val && x.group = (0 : BitVec 32).toNat) = some f ∧
     chunkOk f.desc ⟨0, 0, 0, [(1, false)]⟩ = true ∧ (s.stack 0).halted = false) ∧
    (MayWrite State.reset (.sc 0) ∧ (2 : W32)[1] = true ∧ (0 : W32)[1] = false) :=
  ⟨⟨by decide, by decide, by decide, by decide, by decide, by decide, ⟨_, _, _, rfl⟩⟩, by decide, by decide, by decide, by decide, by decide, by decide,
   by decide, by decide, may_write, by decide, by decide⟩

/-! ### Fabric and convoy -/

/-- The state with port 0 replaced, every hub block clocked. -/
def portS (p : PortBlk) : State := (devS []).setPort 0 p

theorem witness_PortsTrainAndTakeCellsInSequence :
    (MayWrite (portS {}) (.sc 0) ∧ (portS {}).hubEn 2 = true ∧ (portS {}).portHere 0 = true ∧ ((portS {}).portOf 0).st = .down) ∧
    ((portS { st := .train }).portOf 0).st = .train ∧ ((portS { st := .lost }).portOf 0).st = .lost ∧
    (let p := (portS { st := .up, rxSeq := 0xFFF, heard := true }).portOf 0
     p.st = .up ∧ (⟨0, 0, 0, true, .keepalive⟩ : Cell).crcOk = true ∧ (⟨0, 0, 0, true, .nak⟩ : Cell).seq = p.rxSeq + 1 ∧
     (⟨1, 0, 0, true, .nak⟩ : Cell).seq ≠ p.rxSeq + 1 ∧ (⟨0, 0, 0, false, .nak⟩ : Cell).crcOk = false ∧ p.heard = true) ∧
    (let p := (portS { st := .up, missed := 7 }).portOf 0
     p.st = .up ∧ p.heard = false ∧ 8 ≤ p.missed.toNat + 1) ∧
    ¬ 8 ≤ ((portS { st := .up, missed := 6 }).portOf 0).missed.toNat + 1 :=
  ⟨⟨⟨by decide, by decide⟩, by decide, by decide, by decide⟩, by decide, by decide, by decide, by decide, by decide⟩

/-- Group 0 of context 0: the direct algorithm with 2 members, this device of rank 0, its neighbour on port 0, epoch 1, fabric group 5 (R401); the
port is UP. -/
def groupS (cvy : CvyBlk) (p : PortBlk) : State :=
  { (devS [(0x1000, 1, 5), (0x1001, 1, 1), (0x1002, 2, 2), (0x1004, 4, 5), (0x1010, 8, 0x2000), (0x2008, 2, 7), (0x200A, 2, 1)]).setPort 0
      { p with st := .up, peerId := 7 } with
    cvy := { cvy with gtBase := tset 0 [] 0 0x1000, gtCnt := tset 0 [] 0 1 } }

/-- A collective of that group that runs: 8 bytes of FP32 at 0x8000. -/
def coll5 : Coll :=
  { coll0 with req := ⟨0, false, 0, 0, 0x8000, 8, 8, 0, none⟩, fgid := 5, epoch := 1, alg := 2, p := 2, roles := [⟨0, 0⟩, ⟨7, 1⟩], ranges := [(0x8000, 8)] }

theorem witness_CollectivesStartTimeOutAndEnd :
    (State.reset.hubEn 2 = false ∧ (devS []).cvy.pick = none) ∧
    (let s := groupS { queue := [coll0] } {}
     s.hubEn 2 = true ∧ s.cvy.pick = some coll0 ∧ (∃ c, s.startCheck coll0 = some c ∧ s.tensorOk { c with ranges := s.collRanges c } = true ∧
       s.cvy.failed.find? (fun f => f.1 = c.fgid && f.2.1 = c.epoch) = none ∧ c.req.kind ≠ 3)) ∧
    ((devS []).startCheck coll0 = none) ∧
    (let s := groupS { queue := [coll0], failed := [(5, 1, 1)] } {}
     ∃ c, s.startCheck coll0 = some c ∧ s.cvy.failed.find? (fun f => f.1 = c.fgid && f.2.1 = c.epoch) = some (5, 1, 1)) ∧
    (let s := groupS {} {}
     ∃ c, s.startCheck { coll0 with req := ⟨0, false, 0, 0, 0, 7, 8, 0, none⟩ } = some c ∧ s.tensorOk { c with ranges := s.collRanges c } = false) ∧
    (groupS { run := [coll5] } {}).cvy.run.find? (fun x => x.fgid = 5) = some coll5 ∧ coll5.done = false ∧
    ({ coll5 with final := [0, 1], sent := [(0, true, 1)] } : Coll).done = true ∧ State.reset.cvy.run.find? (fun x => x.fgid = 5) = none ∧
    ({ coll5 with reply := .stream 0 0 } : Coll).reply = .stream 0 0 ∧ coll5.req.kind ≠ 3 :=
  ⟨by decide, ⟨by decide, by decide, _, rfl, by decide, by decide, by decide⟩, by decide, ⟨_, rfl, by decide⟩, ⟨_, rfl, by decide⟩, by decide, by decide, by decide,
   by decide, rfl, by decide⟩

/-- A message of rank 1 of fabric group 5. -/
def msg5 (epoch : Byte) (seq : BitVec 16) : ConvoyMsg := ⟨5, epoch, seq, 1⟩
/-- A port 0 that has received a control message and the cells of a chunk. -/
def inboxP (x : CtrlPay) (m : ConvoyMsg) (c : ChunkInfo) : PortBlk := { inbox := [x], parts := chunkParts m c }
/-- The gathered chunk 1 of the collective: four bytes. -/
def chunk5 : ChunkInfo := ⟨1, true, 0, []⟩

theorem witness_ConvoyMessagesActOnTheirCollective :
    (let r : ReadyInfo := ⟨0, 8, 0, 0⟩
     let s := groupS { run := [coll5] } (inboxP (.ready (msg5 1 0) r) (msg5 1 0) chunk5)
     let took (y : CtrlPay) := s.setPort 0 { s.portOf 0 with inbox := (s.portOf 0).inbox.erase y }
     CtrlPay.ready (msg5 1 0) r ∈ (s.portOf 0).inbox ∧ (took (.ready (msg5 1 0) r)).epochOf 5 = some 1 ∧ (msg5 1 0).epoch = 1 ∧ (msg5 2 0).epoch ≠ 1 ∧
     (took (.ready (msg5 1 0) r)).collOf 5 = some coll5 ∧ (msg5 1 0).from_.toNat ∉ coll5.readyIn ∧ coll5.readyCode (msg5 1 0) r = 0 ∧
     coll5.readyCode (msg5 1 1) r ≠ 0 ∧ (chunkParts (msg5 1 0) chunk5).all (s.portOf 0).parts.contains = true) ∧
    (let s := groupS {} (inboxP (.refuse (msg5 1 0) 2) (msg5 1 0) chunk5)
     CtrlPay.refuse (msg5 1 0) 2 ∈ (s.portOf 0).inbox ∧ s.epochOf 5 = some 1 ∧ s.collOf 5 = none) ∧
    (1 ∈ ({ coll5 with readyIn := [1] } : Coll).readyIn) ∧
    (let s := groupS { run := [coll5] } {}
     CtrlPay.refuse (msg5 1 0) 2 ∉ (s.portOf 0).inbox ∧ (chunkParts (msg5 1 0) chunk5).all (s.portOf 0).parts.contains = false ∧
     (msg5 1 0).seq = coll5.seq ∧ (msg5 1 1).seq ≠ coll5.seq ∧ coll5.req.retry = false) ∧
    (let s := groupS { run := [coll5] } {}
     s.epochOf 5 = some 1 ∧ s.collOf 5 = some coll5 ∧ (∃ ch, coll5.chunks[0]? = some ch) ∧ (0, true, 1) ∉ coll5.got ∧ coll5.req.kind ≠ 2 ∧ coll5.req.kind ≠ 3) ∧
    (let x : CtrlInfo := ⟨3, 1, 5, 0⟩
     let s := groupS { run := [coll5] } (inboxP (.abort (msg5 1 0) x) (msg5 1 0) chunk5)
     let t := s.setPort 0 { s.portOf 0 with inbox := (s.portOf 0).inbox.erase (.abort (msg5 1 0) x) }
     CtrlPay.abort (msg5 1 0) x ∈ (s.portOf 0).inbox ∧ t.epochOf 5 = some (msg5 1 0).epoch ∧ x.ident ∉ t.cvy.seen ∧
     (t.forward 0 (msg5 1 0) x.ident (.abort (msg5 1 0) x)).collOf 5 = some coll5) ∧
    (let s := groupS { seen := [3] } {}
     (3 : W32) ∈ s.cvy.seen) :=
  ⟨by decide, by decide, by decide, by decide, ⟨by decide, by decide, ⟨_, rfl⟩, by decide, by decide, by decide⟩, by decide, by decide⟩

/-! ### Streams -/

/-- The ready device with stream 0 in the hamper. -/
def strS (e : StreamEnt) : State := { devS [] with stream := { hamper := [(0, e)] } }
/-- A stream whose ring of 16 commands lies at 0x10000. -/
def ent (st : StreamSt) : StreamEnt := { st := st, lsize := 4, ring := 0x10000, tail := 1 }
/-- A hamper whose 512 places are all pinned. -/
def fullS : State := { devS [] with stream := { sel := 600, hamper := (List.range 512).map (fun k => (k, { st := .faulted })) } }

theorem lastFree_pinned : ∀ l : List (Nat × StreamEnt), (∀ x ∈ l, x.2.pinned = true) → lastFree l = none
  | [], _ => rfl
  | x :: xs, h => by
    unfold lastFree
    rw [lastFree_pinned xs (fun y hy => h y (by simp [hy])), h x (by simp)]
    rfl

theorem full_fetch : fullS.fetchEntry fullS.stream.sel.toNat = none := by
  have n : fullS.stream.hamper.find? (fun x => x.1 = fullS.stream.sel.toNat) = none := by
    simp only [List.find?_eq_none, fullS, List.mem_map, List.mem_range]
    rintro x ⟨k, hk, rfl⟩ h
    have h' : k = 600 := of_decide_eq_true h
    omega
  have l : ¬ fullS.stream.hamper.length < 512 := by simp [fullS]
  have p : lastFree fullS.stream.hamper = none := lastFree_pinned _ (by
    simp only [fullS, List.mem_map, List.mem_range]
    rintro x ⟨k, hk, rfl⟩
    rfl)
  unfold State.fetchEntry
  dsimp only
  rw [n]
  dsimp only
  rw [if_neg l, p]

theorem witness_StreamRequestsActOnTheirEntry :
    (MayWrite (strS (ent .idle)) (.sc 0) ∧ (strS (ent .idle)).hubEn 0 = true) ∧ fullS.fetchEntry fullS.stream.sel.toNat = none ∧
    (∃ t, (strS (ent .closed)).fetchEntry 0 = some t ∧ (t.entry 0).st = .closed ∧ t.openOk (t.entry 0) = true) ∧
    (∃ t, (strS { ent .closed with lsize := 3 }).fetchEntry 0 = some t ∧ (t.entry 0).st = .closed ∧ t.openOk (t.entry 0) = false) ∧
    (∃ t, (strS { ent .active with run := some (0, .barrier) }).fetchEntry 0 = some t ∧ (t.entry 0).st ≠ .closed ∧ (t.entry 0).run ≠ none ∧
      (t.entry 0).st ≠ .faulted) ∧
    (∃ t, (strS (ent .faulted)).fetchEntry 0 = some t ∧ (t.entry 0).st = .faulted ∧ (t.entry 0).run = none) ∧
    (∃ t, (strS (ent .idle)).fetchEntry 0 = some t ∧ (t.entry 0).st = .idle ∧ ((16 : W32) - (t.entry 0).head).toNat ≤ 2 ^ (t.entry 0).lsize.toNat ∧
      ¬ ((17 : W32) - (t.entry 0).head).toNat ≤ 2 ^ (t.entry 0).lsize.toNat) ∧
    (∃ t, (strS (ent .waiting)).fetchEntry 0 = some t ∧ (t.entry 0).st = .waiting) ∧
    (∃ t, ({ strS (ent .closed) with stream := { hamper := [(0, ent .closed)], pending := [(0, .open_)] } } : State).fetchEntry 0 = some t ∧
      t.stream.pending.filter (fun r => r.1 = 0) ≠ []) :=
  ⟨⟨⟨by decide, by decide⟩, by decide⟩, full_fetch, ⟨_, rfl, by decide⟩, ⟨_, rfl, by decide⟩, ⟨_, rfl, by decide⟩, ⟨_, rfl, by decide⟩, ⟨_, rfl, by decide⟩,
   ⟨_, rfl, by decide⟩, ⟨_, rfl, by decide⟩⟩

/-- The ready device with stream 0 active, a live key and a bounce window in confidential operation. -/
def confS : State :=
  { strS (ent .active) with sec := { conf := true, key0 := { st := .live }, bwin := tset 0 [] 2 0x8000000000000001 } }
/-- A module of one kernel on tile 0. -/
def mod1 : Module := ⟨1, 0, 0, false, [⟨0, 0, 1, 1, 0, 0, [], 0, [], [(0, 1)]⟩]⟩
/-- The ready device with that module. -/
def modS (busy : Bool) : State := { strS (ent .active) with modules := [mod1], tiles := tset Tile.reset [] 0 (if busy then calmT else Tile.reset) }
/-- Handle of kernel 0 of module 1 in bytes 8 to 11. -/
def hnd (op : Nat) : StreamCmd := BitVec.ofNat 512 (0x10000 * 2 ^ 64 + op)

theorem chosen_some {α : Type} (a b : Nat) (l : List α) (h : l ≠ []) : ∃ x, chosen a b l = some x := by
  unfold chosen
  exact ⟨_, List.getElem?_eq_getElem (Nat.mod_lt _ (List.length_pos_iff.2 h))⟩

theorem witness_StreamCommandsStart_none :
    (strS (ent .idle)).canStart 0 = false ∧ (∀ y slot gen k j, ((strS (ent .idle)).entry 0).run ≠ some (y, .crypt slot gen k j)) :=
  ⟨by decide, fun _ _ _ _ _ h => by cases h⟩

theorem witness_StreamCommandsStart_format :
    (strS (ent .active)).canStart 0 = true ∧ cmdOk (withOp 0x100000000000000000 0) = false ∧ cmdOk (withOp 0 0) = true :=
  ⟨by decide, by decide +kernel, by decide +kernel⟩

theorem witness_StreamCommandsStart_launch :
    cmdOk (withOp (hnd 1) 1) = true ∧ (strS (ent .active)).kernelOf 0 0 0x10000 = none ∧
    (∃ k, (modS false).kernelOf 0 0 0x10000 = some (mod1, k) ∧ (modS false).paramCode 0 0 k [] = 0 ∧ (modS false).paramCode 0 0 k [(0, 0)] ≠ 0 ∧
      (modS false).tilesBusy 0 k.tiles = false ∧ (modS true).tilesBusy 0 k.tiles = true) :=
  ⟨by decide +kernel, by decide, _, rfl, by decide +kernel, by decide +kernel, by decide +kernel, by decide +kernel⟩

/-- An indirect PATCH of one entry at 0x3000. -/
def patchCmd : StreamCmd := withOp (BitVec.ofNat 512 (0x10000 * 2 ^ 64 + 2 ^ 104 + 0x3000 * 2 ^ 128 + 2 ^ 192)) 2

theorem witness_StreamCommandsStart_patch :
    cmdOk (withOp (hnd 2) 2) = true ∧ cmdAt (withOp (hnd 2) 2) 13 1 = 0 ∧ cmdOk patchCmd = true ∧ cmdAt patchCmd 13 1 = 1 ∧
    ((modS false).fetch ((modS false).entry 0) (cmdAt patchCmd 16 8) (16 * cmdAt patchCmd 24 2) []).map (·.1) = some 0 :=
  ⟨by decide +kernel, by decide +kernel, by decide +kernel, by decide +kernel, by decide +kernel⟩

theorem witness_StreamCommandsStart_copy : cmdOk (withOp 0 3) = true ∧
    (∃ x, chosen 2 0 ((List.finRange 64).filter (fun x => ((devS []).chan x.val).st = .idle && ((devS []).copyOf x.val).isNone)) = some x) ∧
    (let s : State := { devS [] with sdma := (List.range 64).map (fun n => (n, runCh [])) }
     (List.finRange 64).filter (fun x => (s.chan x.val).st = .idle && (s.copyOf x.val).isNone) = []) :=
  ⟨by decide +kernel, chosen_some _ _ _ (by decide +kernel), by decide +kernel⟩

/-- A SEAL or UNSEAL of one byte whose host address, of the bounce window, stands at byte `i`. -/
def cryptCmd (i op : Nat) : StreamCmd := withOp (BitVec.ofNat 512 (0x300000000000 * 2 ^ (8 * i) + 2 ^ 192)) op

theorem witness_StreamCommandsStart_crypt : cmdOk (cryptCmd 16 4) = true ∧ cmdOk (cryptCmd 8 5) = true ∧ (strS (ent .active)).sec.conf = false ∧
    confS.cryptStart (ent .active) (cryptCmd 8 4) true = .inl 0xF ∧ confS.cryptStart (ent .active) (cryptCmd 16 4) true = .inr (0, 0, 0, 0) ∧
    confS.cryptStart (ent .active) (cryptCmd 8 5) false = .inr (0, 0, 0, 0) :=
  ⟨by decide +kernel, by decide +kernel, rfl, by decide +kernel, by decide +kernel, by decide +kernel⟩

theorem witness_StreamCommandsStart_wait : cmdOk (withOp 0 6) = true ∧ cmdOk (withOp 0 7) = true ∧ (strS (ent .active)).evGet 0 0 0 = some 0 ∧
    0 ≤ ((0 : W64) - 0).toInt ∧ ¬ 0 ≤ ((0 : W64) - 1).toInt :=
  ⟨by decide +kernel, by decide +kernel, by decide +kernel, by decide, by decide⟩

/-- A BARRIER on index `n` of stream 0. -/
def barrierCmd (n : Nat) : StreamCmd := withOp (BitVec.ofNat 512 (2 ^ 64 + n * 2 ^ 144)) 8

theorem witness_StreamCommandsStart_barrier : cmdOk (barrierCmd 0) = true ∧ cmdOk (barrierCmd 1) = true ∧
    (strS (ent .active)).barrierOwn (ent .active) (barrierCmd 0) = true ∧ (strS (ent .active)).barrierMet (barrierCmd 0) = true ∧
    (strS (ent .active)).barrierMet (barrierCmd 1) = false ∧ (strS (ent .active)).barrierOwn { ent .active with owner := 1 } (barrierCmd 0) = false :=
  ⟨by decide +kernel, by decide +kernel, by decide +kernel, by decide +kernel, by decide +kernel, by decide +kernel⟩

theorem witness_StreamCommandsStart_queued : cmdOk (withOp 0 9) = true ∧ cmdOk (withOp 0 0xA) = true ∧ cmdOk (withOp 0 0xB) = true ∧
    ((devS []).queueUpdate 0 0 0 0 (.stream 0 0)).isSome = true ∧
    ((State.reset.setUnit 11 { queue := List.replicate 32 (.pass 0 0 0 0 0) }).queueUpdate 0 0 0 0 (.stream 0 0)).isNone = true ∧
    ((devS []).queueColl 0 0 coll0.req (.stream 0 0)).isSome = true ∧
    (({ devS [] with cvy := { queue := List.replicate 64 coll0 } } : State).queueColl 0 0 coll0.req (.stream 0 0)).isNone = true :=
  ⟨by decide +kernel, by decide +kernel, by decide +kernel, by decide +kernel, by decide +kernel, by decide +kernel, by decide +kernel⟩

theorem ready_one : (strS (ent .active)).readyStreams = [0] := by
  have h : ((strS (ent .active)).stream.hamper.map (·.1)).filter (fun i =>
    (strS (ent .active)).canStart i && ((strS (ent .active)).entry i).head ≠ ((strS (ent .active)).entry i).tail) = [0] := by decide
  unfold State.readyStreams
  dsimp only
  rw [h, List.mergeSort_singleton]
  decide +kernel

theorem witness_StreamCommandsDispatchAndEnd_dispatch : State.reset.readyStreams = [] ∧
    (let s := strS (ent .active)
     s.readyStreams = [0] ∧ (s.fetch (s.entry 0) ((s.entry 0).slotAddr (s.entry 0).head.toNat) 64 []).map (·.1) = some 0 ∧
     (s.startCmd 0 0 [] []).isSome = true) :=
  ⟨by simp [State.readyStreams, State.reset], ready_one, by decide +kernel, by decide +kernel⟩

theorem witness_StreamCommandsDispatchAndEnd_launch :
    (let s := { strS { ent .active with run := some (1, .launch 0x10000 [0] [] true) } with tiles := tset Tile.reset [] 0 restT }
     (s.entry 0).run = some (1, .launch 0x10000 [0] [] true) ∧
     ([0] : List Nat).all (fun t => (s.tile t).seq.st = .halted && tileIdle (s.tile t)) = true ∧
     ([0] : List Nat).any (fun t => (s.tile t).seq.faultHalt || (s.tile t).seq.mcHalt) = false) ∧
    (([0] : List Nat).all (fun t => ((one calmT).tile t).seq.st = .halted && tileIdle ((one calmT).tile t)) = false) ∧
    (([0] : List Nat).any (fun t => ((one { restT with seq := { faultHalt := true } }).tile t).seq.faultHalt) = true) :=
  ⟨by decide +kernel, by decide +kernel, by decide +kernel⟩

/-- Stream 0 waits in command `y`. -/
def waitS (y : StreamCmd) (r : RunCmd) : State := strS { ent .waiting with run := some (y, r) }
/-- A WAIT with a time limit. -/
def limitCmd : StreamCmd := withOp (BitVec.ofNat 512 (2 ^ 192)) 7

theorem witness_StreamCommandsDispatchAndEnd_wait :
    ((waitS limitCmd (.wait 0 0)).entry 0).st = .waiting ∧ ((waitS limitCmd (.wait 0 0)).entry 0).run = some (limitCmd, .wait 0 0) ∧
    (waitS limitCmd (.wait 0 0)).evGet 0 0 0 = some 0 ∧ 0 ≤ ((0 : W64) - 0).toInt ∧ ¬ 0 ≤ ((0 : W64) - 1).toInt ∧ cmdAt limitCmd 24 4 ≠ 0 ∧
    cmdAt (withOp 0 7) 24 4 = 0 ∧ ((waitS (barrierCmd 0) .barrier).entry 0).run = some (barrierCmd 0, .barrier) ∧
    (waitS (barrierCmd 0) .barrier).barrierMet (barrierCmd 0) = true ∧ (waitS (barrierCmd 1) .barrier).barrierMet (barrierCmd 1) = false :=
  ⟨rfl, rfl, by decide +kernel, by decide, by decide, by decide +kernel, by decide +kernel, rfl, by decide +kernel, by decide +kernel⟩

theorem witness_StreamCommandsDispatchAndEnd_ends :
    ((strS { ent .active with run := some (withOp 0 5, .crypt 0 0 0 0) }).entry 0).run = some (withOp 0 5, .crypt 0 0 0 0) ∧
    cmdAt (0 : StreamCmd) 1 1 = 0 ∧ (ent .active).closing = false ∧ (ent .active).resuming = false :=
  ⟨rfl, by decide +kernel, rfl, rfl⟩

/-! ### Host, security, management -/

/-- The ready device with the PCIe link up. -/
def linkS (sec : SecBlk) : State := { devS [] with pci := { up := true }, sec := sec }

theorem witness_HostAccessesAreServedOrRefused :
    ((⟨0, .read 0⟩ : BarAcc).wf = false ∧ (⟨0, .read 4⟩ : BarAcc).wf = true ∧ State.reset.pci.up = false ∧ (linkS {}).pci.up = true) ∧
    (linkS { conf := true }).sec.conf = true ∧ confPage 0 4 = false ∧ confPage 0x10 8 = true ∧ (linkS {}).sec.conf = false ∧ bar2Size < bar2Size + 4 ∧
    ((linkS {}).pci.b2base.toNat + 0 + 4 ≤ memEnd ∧ (linkS {}).devWake.memCheck ((linkS {}).devWake.tagOf .bar2) 0 4 = 0) ∧
    (let s : State := { linkS {} with stk := [] }
     s.devWake.memCheck (s.devWake.tagOf .bar2) 0 4 ≠ 0 ∧ s.devWake.memCheck (s.devWake.tagOf .bar2) 0 4 ≠ 5) ∧
    (let s := (linkS {}).setStack 0 { ready := true, ret := [0] }
     s.devWake.memCheck (s.devWake.tagOf .bar2) 0 4 = 5) ∧
    (let s : State := { State.reset with pci := { up := true, msixPend := [(7, true)] } }
     (3 : Fin 4).val = 3 ∧ (0 : W32)[0] = false ∧ tget false s.pci.msixPend 7 = true) ∧
    ¬ ((3 : Fin 4).val = 3 ∧ (1 : W32)[0] = false ∧ tget false State.reset.pci.msixPend 7 = true) :=
  ⟨by decide, rfl, by decide, by decide, rfl, by decide, by decide, by decide, by decide, by decide, by decide⟩

theorem witness_HostAnswersAndLinkEvents :
    State.reset.pci.hostReqs.find? (·.1 = 3) = none ∧
    ({ State.reset with pci := { hostReqs := [(3, rd0)] } } : State).pci.hostReqs.find? (·.1 = 3) = some (3, rd0) ∧
    State.reset.pci.released = false ∧
    (let s : State := { State.reset with pci := { released := true } }
     s.pci.up = false ∧ s.pci.released = true ∧ s.pin.perst = true ∧ s.pwr.dev ≠ .night) ∧ (linkS {}).pci.up = true :=
  ⟨rfl, rfl, rfl, by decide, rfl⟩

theorem witness_SpdmRequestsAreAnswered :
    State.reset.pci.up = false ∧ (linkS {}).pci.up = true ∧ (8 : Byte).toNat = (7 : Fin 8).val + 1 ∧ (1 : Byte).toNat = (0 : Fin 8).val + 1 ∧
    (0xFD : Byte).toNat = 0xFD ∧ (linkS { entBad := true }).sec.entBad = true ∧ (linkS {}).sec.entBad = false ∧ (0 : Byte).toNat = 0 ∧
    (0xFF : Byte).toNat = 0xFF ∧ (8 < (9 : Byte).toNat ∧ (9 : Byte).toNat ≠ 0xFD ∧ (9 : Byte).toNat ≠ 0xFF) ∧ (linkS {}).sec.session = .none ∧
    (linkS { session := .handshake }).sec.session = .handshake ∧ (linkS { session := .open_ }).sec.session = .open_ ∧
    (linkS { session := .open_ }).sec.session ≠ .none ∧ (linkS { session := .open_ }).sec.session ≠ .handshake ∧ (linkS {}).sec.session ≠ .open_ := by decide

/-- The device inside a session, with a security block. -/
def sessS (sec : SecBlk) : State := linkS { sec with session := .open_ }

theorem witness_VendorRequestsActInSession :
    State.reset.pci.up = false ∧ (linkS {}).sec.session ≠ .open_ ∧ (sessS {}).pci.up = true ∧ (sessS {}).sec.session = .open_ ∧
    (sessS { debugOpen := true }).sec.debugOpen = true ∧
    ¬ ((caps1 (sessS {}).fx)[11] = false ∨ (sessS {}).sec.debugOpen = true ∨ (sessS {}).openStreams ≠ [] ∨ (sessS {}).modules ≠ []) ∧
    (0x800 : BitVec 44).toNat % 4096 ≠ 0 ∧
    ¬ ((0x1000 : BitVec 44).toNat % 4096 ≠ 0 ∨ (0x40 : BitVec 44).toNat % 64 ≠ 0 ∨ partCount (sessS {}).partMode ≤ (0 : BitVec 2).toNat) ∧
    (sessS { bwin := tset 0 [] 2 0x8000000000000000 }).bwinValid 0 = true ∧ (sessS {}).bwinValid 0 = false ∧ (sessS {}).windowUsed 0 = false ∧
    (sessS { entBad := true }).sec.entBad = true ∧ (sessS {}).sec.lastGen = none ∧ ((sessS {}).sec.slot 0).st ≠ .live ∧
    ((sessS { key0 := { st := .live } }).sec.slot 0).st = .live ∧ ((sessS { key0 := { st := .live } }).sec.slot 0).gen = 0 ∧
    ((sessS { key0 := { st := .live } }).sec.slot 0).inflight = 0 ∧ ((sessS { key0 := { st := .live, inflight := 1 } }).sec.slot 0).inflight ≠ 0 ∧
    vendorReg 0 = none ∧ vendorReg 0x3800008 = some false ∧ vendorReg 0x3800040 = some true := by decide

theorem witness_VendorRequestsActInSession_used :
    (let s : State := { sessS { conf := true, bwin := tset 0 [] 2 0x8000000000000001 } with
       stream := { hamper := [(0, { ent .active with run := some (cryptCmd 8 5, .crypt 0 0 0 0) })] } }
     s.windowUsed 0 = true) := by decide +kernel

theorem witness_BusyTileIsNotCleared : (0x80000000 : W32) &&& 0x1FFFFF00#32 = 0 ∧ ((one calmT).tile ((0x80000000 : W32).toNat % 256)).seq.st ≠ .halted ∧
    tileIdle ((one { restT with tasks := [⟨1, 0, 0, 0, 0, .dzRec⟩] }).tile 0) = false := by decide

theorem witness_SecurityAndMailboxWritesAct :
    ((∀ n, Agent.tile 0 ≠ .sc n) ∧ Agent.tile 0 ≠ .bar0 ∧ Agent.tile 0 ≠ .bar2 ∧ Agent.tile 0 ≠ .lookout) ∧ (4 : W32).toNat % 8 < 5 ∧ 5 ≤ (7 : W32).toNat % 8 ∧
    (State.reset.tile 0).seq.st = .halted ∧ tileIdle (State.reset.tile 0) = true ∧ State.reset.lko.up = false ∧
    ({ State.reset with lko := { up := true } } : State).lko.up = true ∧ (0x8000000000000000 : W64)[63] = true ∧ (0 : W64)[63] = false :=
  ⟨⟨by simp, by simp, by simp, by simp⟩, by decide, by decide, rfl, by decide, rfl, rfl, by decide, by decide⟩

/-- The device with the Lookout up. -/
def lkoS (b : LkoBlk) (dev : PowerSt) : State := { devS [] with lko := { b with up := true }, pwr := { dev := dev } }

/-- What depends on a free value (whether a token is signed, whether a certificate chains to an anchor) is shown to be met for the value that makes it so. -/
theorem witness_LookoutOperationsActOnTheirPath :
    State.reset.lko.up = false ∧ (lkoS { tls := 1 } .noon).lko.up = true ∧ 0 < (lkoS { tls := 1 } .noon).lko.tls ∧
    ((lkoS {} .night).pwr.dev = .night ∧ (lkoS {} .night).pin.waitPgood = false) ∧ (lkoS {} .noon).pwr.dev ≠ .night ∧
    ({ lkoS {} .night with sec := { entBad := true } } : State).sec.entBad = true ∧ (lkoS {} .noon).sec.entBad = false ∧
    (lkoS {} .noon).lko.anchors.length = 0 ∧ (lkoS { anchors := [(0, [1])] } .noon).lko.anchors.length ≠ 0 ∧ (⟨0, false⟩ : ImageSlot).kind.val = 0 ∧
    (⟨1, false⟩ : ImageSlot).kind.val ≠ 0 ∧ (lkoS {} .noon).devWake.layoutRefused 1 = true ∧
    ({ lkoS {} .noon with sec := {} } : State).devWake.layoutRefused 2 = false ∧
    (∀ token, Config.tokenSigned token (lkoS {} .noon).devWake.erev (lkoS {} .noon).devWake.lrev = true →
      (BitVec.ofNat 128 (leNat (fuseBytes 1 16))).toNat = leNat (fuseBytes 1 16) → (0 : W64) = (lkoS {} .noon).sec.dbgNonce) ∧
    (∀ cert, Config.chainsTo cert [1] = true →
      ({ lkoS { anchors := [(0, [1])], tls := 3 } .noon with pin := { strap := 4 } } : State).pin.strap[2] = true ∧
      (3 < 4 ∧ [(0, [1])].any (fun (x : Nat × List Byte) => Config.chainsTo cert x.2) = true)) :=
  ⟨rfl, rfl, by decide, by decide, by decide, rfl, rfl, rfl, by decide, rfl, by decide, by decide, by decide, fun _ _ _ => rfl,
   fun cert h => ⟨by decide, by decide, by simpa using h⟩⟩

/-! ### Interrupts, clocks, power, resets, accesses -/

theorem witness_SetAndClearAliasesChangeBitsWrittenOne : (∃ m, Agent.sc 7 = .sc m) ∧ (1023 : Fin 1024).val ≠ 0 ∧ (0x3FF : W32) &&& 0xFFFFFC00#32 = 0 :=
  ⟨⟨7, rfl⟩, by decide, by decide⟩

theorem witness_InterruptsAreClaimedAndCompleted :
    ({ State.reset with icu := { active := [(297, true)] } } : State).icu.active = [(297, true)] ∧ ((∃ m, Agent.sc 0 = .sc m) ∨ Agent.sc 0 = .lookout) ∧
    (1 : Fin 1024).val ≠ 0 ∧ (0 : Fin 1024).val = 0 ∧ ((8 : Fin 10).val = 8 ∧ State.reset.sec.conf = false) ∧
    (¬ ((∃ m, Agent.tile 0 = .sc m) ∨ Agent.tile 0 = .lookout) ∧ Agent.tile 0 ≠ .bar0 ∧ Agent.tile 0 ≠ .bar2) :=
  ⟨rfl, .inl ⟨0, rfl⟩, by decide, rfl, by decide, by simp⟩

theorem witness_ClocksAndPowerFollowTheirEvents :
    Manages (.sc 0) ∧ (¬ Manages (.tile 0) ∧ Agent.tile 0 ≠ .bar0 ∧ Agent.tile 0 ≠ .bar2) ∧ State.reset.pwr.opBusy = false ∧
    (let p : PwrBlk := { opBusy := true, opCur := 3, opTarget := 2 }
     p.opBusy = true ∧ p.opTarget < p.opCur) ∧
    (let p : PwrBlk := { opBusy := true, opCur := 2, opTarget := 3 }
     p.opBusy = true ∧ ¬ p.opTarget < p.opCur) ∧ (15 : Fin 28).val < 16 ∧ 16 ≤ (16 : Fin 28).val :=
  ⟨.inl ⟨0, rfl⟩, ⟨by simp [Manages], by simp, by simp⟩, rfl, by decide, by decide, by decide, by decide⟩

/-- The device with every tile in Dusk or Night, service cores 1 to 7 in Dusk, SC0 running. -/
def idleS : State := { State.reset with hub := { sc := (List.range 8).map (fun n => (n, if n = 0 then ScSt.run else .dusk)) } }

theorem witness_TilesAndDeviceChangePowerState :
    Manages (.sc 0) ∧ (0x02000000 : W32).toNat % 256 = (0 : TileIx).val ∧ (0 : W32).toNat / 2 ^ 24 % 4 = 0 ∧ (0x01000000 : W32).toNat / 2 ^ 24 % 4 = 1 ∧
    (0x02000000 : W32).toNat / 2 ^ 24 % 4 = 2 ∧ (0x03000000 : W32).toNat / 2 ^ 24 % 4 = 3 ∧ ((one restT).tile 1).power ≠ .noon ∧
    (let s : State := { one restT with pwr := { nightok := 1 } }
     (s.tile 0).power = .noon ∧ (s.tile 0).seq.st = .halted ∧ tileIdle (s.tile 0) = true ∧ s.pwr.nightok.getLsbD 0 = true ∧ s.pwr.idle ≠ 0) ∧
    (one restT).pwr.nightok.getLsbD 0 = false ∧ ¬ (((one calmT).tile 0).seq.st = .halted ∧ tileIdle ((one calmT).tile 0) = true) ∧
    (let s := onState { restT with power := .dawn }
     (s.tile 0).power = .dawn ∧ s.groupRuns (groupOf 0) = true ∧ (s.tile 0).fromNight = false) ∧
    ((onState { restT with power := .dawn, fromNight := true }).tile 0).fromNight = true ∧ (one { restT with power := .dawn }).groupRuns (groupOf 0) = false ∧
    Agent.sc 1 ≠ .sc 0 ∧ State.reset.pwr.dev = .noon ∧ State.reset.duskOk = false ∧ idleS.duskOk = true ∧
    (¬ Manages (.tile 0) ∧ Agent.tile 0 ≠ .bar0 ∧ Agent.tile 0 ≠ .bar2) ∧
    (let s : State := { State.reset with pwr := { dev := .dawn } }
     s.pwr.dev = .dawn ∧ s.pin.waitPgood = false) ∧ State.reset.pwr.dev ≠ .dawn :=
  ⟨.inl ⟨0, rfl⟩, by decide, by decide, by decide, by decide, by decide, by decide, by decide, by decide, by decide, by decide, by decide, by decide, by decide,
   rfl, by decide, by decide, ⟨by simp [Manages], by simp, by simp⟩, by decide, by decide⟩

/-- A device whose Lookout holds no image: the attempts at both slots fail. Whether an image passes its checks rests on free values (log entry 11), so the other
clause is shown for the outcome that makes it so. -/
theorem witness_ResetPinsResetAndStartTheDevice :
    State.reset.pin.porst = false ∧ ({ State.reset with pin := { porst := true } } : State).pin.porst = true ∧
    (let s : State := { State.reset with pin := { porst := true }, lko := { images := [(2, [0]), (3, [0])] } }
     ¬ (s.pin.porst = true ∧ s.pin.aoLost = false ∧ (s.tryImage 1).2.1 = 0)) ∧
    (let s : State := { State.reset with pin := { porst := true } }
     (s.tryImage 1).2.1 = 0 → (s.pin.porst = true ∧ s.pin.aoLost = false ∧ (s.tryImage 1).2.1 = 0) ∧ s.lko.up = false) ∧
    ({ State.reset with pin := { waitPgood := true } } : State).pin.waitPgood = true ∧ State.reset.pin.waitPgood = false ∧
    ({ State.reset with pin := { aoLost := true } } : State).pin.aoLost = true ∧ State.reset.pin.aoLost = false ∧ State.reset.lko.up = false ∧
    (lkoS {} .noon).lko.up = true := ⟨rfl, rfl, by decide, fun h => ⟨⟨rfl, rfl, h⟩, rfl⟩, rfl, rfl, rfl, rfl, rfl, rfl⟩

theorem witness_ServiceCoresAreHeldAndReleased :
    (let s : State := { State.reset with hub := { sc := [(1, .run)], scwd := [(1, 0x400F4240)] } }
     s.core 1 = .run ∧ (tget 0xF4240#32 s.hub.scwd 1)[30] = true) ∧ State.reset.core 1 ≠ .run ∧ MayWrite State.reset (.sc 0) ∧ (0 : W32)[28] = false ∧
    (0x10000000 : W32)[28] = true ∧
    (let s : State := { State.reset with hub := { sc := [(1, .held)] } }
     (1 : Fin 8).val ≠ 0 ∧ (∃ m : Fin 8, Agent.sc 0 = .sc m ∧ m ≠ 1) ∧ s.core 1 = .held) ∧
    ¬ ((1 : Fin 8).val ≠ 0 ∧ (∃ m : Fin 8, Agent.sc 0 = .sc m ∧ m ≠ 1) ∧ State.reset.core 1 = .held) ∧ State.reset.core 0 ≠ .held ∧
    (let s : State := { State.reset with hub := { sc := [(0, .held)] }, lko := { up := true } }
     s.core 0 = .held ∧ s.lko.up = true) :=
  ⟨by decide, by decide, may_write, by decide, by decide, ⟨by decide, ⟨0, rfl, by decide⟩, by decide⟩, by decide, by decide, by decide⟩

theorem witness_AccessesReachWhatTheyName :
    addrWf (2 ^ 48) = false ∧ addrWf (2 ^ 48 - 1) = true ∧ Agent.sc 0 ≠ .bar0 ∧ Agent.sc 0 ≠ .bar2 ∧ (winBase ≤ winBase ∧ winBase < winBase + 2 ^ 32) ∧
    ¬ (winBase ≤ 0 ∧ 0 < winBase + 2 ^ 32) ∧ ¬ (hubBase ≤ 0 ∧ 0 < hubBase + 2 ^ 28) ∧ (hubBase ≤ hubBase ∧ hubBase < hubBase + 2 ^ 28) ∧
    (devS []).hubPlace (.sc 0) 0 3 = none ∧
    (∃ b l, (devS []).hubPlace (.sc 0) 0x4000048 4 = some (b, l) ∧ l.all (fun p => mayReach (.sc 0) b p.1) = true ∧
      l.any (fun p => (devS []).gated b p.1) = false ∧ l.all (fun p => mayReach (.tile 0) b p.1) = false) ∧
    (∃ b l, State.reset.hubPlace (.sc 0) 0x3800008 4 = some (b, l) ∧ l.all (fun p => mayReach (.sc 0) b p.1) = true ∧
      l.any (fun p => State.reset.gated b p.1) = true) ∧
    (let r : Req := ⟨.sc 0, 0, 0, hubBase, .read 4⟩
     r.wf = true ∧ memEnd ≤ r.addr ∧ isHost r.addr = false ∧ State.reset.mayArrive r = true) ∧
    (let r : Req := ⟨.tile 0, 0, 0, hubBase, .read 4⟩
     State.reset.mayArrive r = false) ∧ isHost hostBase = true ∧
    (let m : EvtMsg := ⟨.tile 0, 1, 3, 1⟩
     let s := onState { restT with evOut := [(m, false)] }
     (s.tile 0).evOut.find? (fun z => z.1.tgt = m.tgt) = some (m, false) ∧ s.routeRuns m.src 1 = true ∧
     (s.tagOf m.src).part = partOfTile s.partMode 1) ∧ (one restT).routeRuns (.tile 0) 1 = false ∧ (State.reset.tile 0).evOut.find? (fun z => z.1.tgt = 1) = none ∧
    (let s : State := { State.reset with partMode := 2 }
     ¬ ((s.tagOf (.tile 0)).fw = true ∨ (s.tagOf (.tile 0)).part = partOfTile s.partMode 255)) :=
  ⟨by decide, by decide, by decide, by decide, by decide, by decide, by decide, by decide, by decide, ⟨_, _, rfl, by decide⟩, ⟨_, _, rfl, by decide⟩, by decide,
   by decide, by decide, by decide, by decide, by decide, by decide⟩

theorem witness_WinnerHasHighestPriorityAndLowestNumber :
    (let s : State := { State.reset with icu := { prio := [(297, 12), (553, 12)], swp := [(297, true), (553, true)], tmask := [(297, 4), (553, 4)] } }
     Orderly s ∧ s.winner 2 = 297 ∧ s.winner 2 ≠ 0) ∧
    (let s : State := { State.reset with icu := { thr := [(2, 15)] } }
     Orderly s ∧ tget 0 s.icu.thr 2 = 15) :=
  ⟨⟨⟨rfl, by decide, by decide, by decide, by decide, rfl⟩, by decide, by decide⟩, ⟨rfl, by decide, by decide, by decide, by decide, rfl⟩, by decide⟩

/-! ### Worked examples and table values of the spec -/

/-- What a command leaves of the state; the state itself where it stops. -/
def after1 (c : Instr) (s : State) : State := match exec c s with | .next t => t | _ => s

/-- TSEQ_ID of tile (13, 10) under four-way partitioning (03, Tile register window, worked example). -/
theorem test_tile_id : tileIdReg 2 173 = 0x0002FBAD#32 := by decide

/-- The row id of 0x00A5_1234_5678 (11, worked example). -/
theorem test_row_id : rowIdOf (0x00A512345678 % 2 ^ 37) = 0x02DA1448 := by decide

/-- Bundle 0x0040_1FC2_0411 adds 64 to s4 (10, worked example). -/
theorem test_bundle_adds_to_s4 :
    (((after1 (.bundleIssue 0 []) (one { bundleT 0x00401FC20411 false with seq := { (bundleT 0x00401FC20411 false).seq with
      scalar := [(4, 7)] } })).tile 0).seq.scalar) = [(4, 71)] := by decide +kernel

/-- add is modulo 2^64 (R303). -/
theorem test_add_wraps : (((after1 (.seqAdd 0 (sq 2 1 0x7F 0 1)) (one { calmT with seq := { calmT.seq with
    scalar := [(1, 0xFFFFFFFFFFFFFFFF)] } })).tile 0).seq.scalar) = [(1, 0xFFFFFFFFFFFFFFFF)] := by decide +kernel

/-- movh: imm × 2^24 + (a mod 2^24) (R303). -/
theorem test_movh : (((after1 (.movh 0 (sq 2 1 0 0 5)) (one { calmT with seq := { calmT.seq with
    scalar := [(1, 0xFF123456)] } })).tile 0).seq.scalar) = [(1, 0xFF123456), (2, 0x05123456)] := by decide +kernel

/-- The winners of the example of 17: source 297 of priority 12 and 553 of priority 5, with the threshold 6 of SC3; SC2 claims 297. -/
def icuS : State :=
  { State.reset with icu := { prio := [(297, 12), (553, 5)], swp := [(297, true), (553, true)], tmask := [(297, 0xC), (553, 0xC)], thr := [(3, 6)] } }

theorem test_winners : icuS.winner 2 = 297 ∧ icuS.winner 3 = 297 := by decide +kernel
theorem test_claim_by_sc2 : (after1 (.icuClaim (.sc 2) 2) icuS).outbox = [.regValue 0 297] ∧ (after1 (.icuClaim (.sc 2) 2) icuS).winner 3 = 0 := by decide +kernel

/-- The record of tile 82 (19, worked example), the eighth since the claim. -/
theorem test_phase_record :
    (after1 (.phaseExportRecord ⟨false, 82, 2, 0x31, 0x20B0⟩) { State.reset with
      tiles := [(82, { restT with outs := [.phase 2 0x31 0x20B0] })], pwr := { pgRun := 0xFFFF }, trc := { clmTrc := 1, held := 7, next := 7, seq := 7 } }).trc.buf =
      [(7, 0x000000075202003100000000000020B0#128)] := by decide +kernel

/-- Bursts of the linear copy of 1,000 bytes (13, worked example): five, of which burst 0 moves 208 bytes and burst 1 256. -/
theorem test_linear_bursts : (let c : DmaCh := { src := 0x10000A001010, dst := 0x400F30, cnt := 0x3E8 }
    (c.burst 0).rlen = 208 ∧ (c.burst 0).raddr = 0x10000A001010 ∧ (c.burst 1).rlen = 256 ∧ (c.burst 1).raddr = 0x10000A0010E0) := by decide

/-- The doorbell of the example of 15: tail 0x22 with head 0x21 makes stream 37 ACTIVE. -/
theorem test_doorbell : ((after1 (.bar0Access ⟨0x3810094, .write [(0x22, false), (0, false), (0, false), (0, false)]⟩) { linkS {} with
    stream := { hamper := [(37, { st := .idle, lsize := 8, head := 0x21, tail := 0x21 })] } }).entry 37).st = .active := by decide +kernel

/-- Two claims of one free slot leave the first claimer as owner (R258). -/
theorem test_second_claim : (after1 (.stashClaim (.sc 0) 3 7) (after1 (.stashClaim (.sc 1) 3 5) State.reset)).slotOf 3 = { st := 1, tag := 5 } := by decide +kernel

/-- A write to a retired page is refused and a read answers POISON with zero (R338). -/
theorem test_retired_page : ((devS []).setStack 0 { ready := true, ret := [0] }).hubRead ⟨true, 0, 0⟩ 0 2 = (5, [(0, true), (0, true)]) := by decide +kernel

/-- The queue: the first command runs and leaves the queue (log entry 1). -/
theorem test_queue : step { State.reset with pending := [.entropyHealthFail, .pcieLinkDown] } =
    .next { State.reset with pending := [.pcieLinkDown], sec := { entFail := true, entBad := true } } := rfl

end Sys2Proof.Tests
end

/-! # Every step keeps the state orderly

Laws/Kept.lean says of each shared operation of the block that it keeps (`Kept`): queue and ordering code stay, and an orderly
state becomes an orderly one. Here the same is said of the commands, chapter by chapter, and of a step. -/

namespace Sys2Proof.Machine

variable {s t u : State}

/-! ### Outcomes -/

/-- An outcome keeps when the next state, if there is one, is kept; a stop keeps. -/
def KeptBy (s : State) (o : Host.Outcome State Fault Refusal) : Prop := ∀ t, o = .next t → Kept s t

theorem keptBy_next (h : Kept s t) : KeptBy s (.next t) := by
  rintro _ ⟨⟩
  exact h

theorem keptBy_fault (f : Fault) : KeptBy s (.fault f) := by
  rintro _ ⟨⟩

theorem keptBy_ite {c : Prop} [Decidable c] {a b : Host.Outcome State Fault Refusal} (ha : KeptBy s a) (hb : KeptBy s b) :
    KeptBy s (if c then a else b) := by
  split
  · exact ha
  · exact hb

/-- The parts of the state that `Kept` speaks of. -/
def State.keptParts (s : State) : List Instr × Bool × Tab Byte × Nat × List (Nat × StreamEnt) × Nat × Nat × Tab (BitVec 4) :=
  (s.pending, s.fx, s.mem, s.partMode, s.stream.hamper, s.trc.held, s.lko.tls, s.icu.prio)

/-- A write of fields that `Kept` does not speak of keeps. -/
theorem kept_update (h : Kept s t) (same : u.keptParts = t.keptParts) : Kept s u := by
  simp only [State.keptParts, Prod.mk.injEq] at same
  obtain ⟨hp, hf, hm, hl, hh, ht, hs, hq⟩ := same
  exact kept_same h hp hf hm hl hh ht hs hq

/-- A request that finds its queue full leaves the state as it is. -/
theorem kept_getD {o : Option State} (h : ∀ v, o = some v → Kept s v) : Kept s (o.getD s) := by
  cases o with
  | none => exact .refl s
  | some v => exact h v rfl

/-! ### Registers, windows and BARs -/

theorem tell_kept {r : Ans} (a : Agent) (op : ReqOp) (h : Kept s r.s) : Kept s (r.tell a op) := by
  unfold Ans.tell
  cases a with
  | bar0 | bar2 =>
    cases op with
    | read _ => exact emit_kept _ h
    | write _ => exact h
  | _ => exact emit_kept _ h

theorem execRegisterWrite_kept (a : Agent) (addr : Nat) (w8 : Bool) (v : W64) : KeptBy s (execRegisterWrite a addr w8 v s) :=
  keptBy_ite (keptBy_next (putReg_kept _ _ _ _ (.refl s))) (keptBy_fault _)

theorem execRcRegisterRead_kept (a : Agent) (addr : Nat) (w8 : Bool) : KeptBy s (execRcRegisterRead a addr w8 s) :=
  keptBy_ite (keptBy_next (getReg_kept _ _ _ (.refl s))) (keptBy_fault _)

theorem execWindowRequest_kept (r : Req) : KeptBy s (execWindowRequest r s) :=
  keptBy_ite (keptBy_fault _) <|
    keptBy_ite (keptBy_next (windowServe_kept _ (arrived_kept _ (.refl s)))) (keptBy_next (.refl s))

theorem execEvtMessage_kept (m : EvtMsg) : KeptBy s (execEvtMessage m s) :=
  keptBy_ite (keptBy_next (deliverEvt_kept _ (evtLeft_kept _ (.refl s)))) (keptBy_next (.refl s))

theorem execBar0Access_kept (b : BarAcc) : KeptBy s (execBar0Access b s) :=
  keptBy_ite (keptBy_fault _) <|
    keptBy_ite (keptBy_next (.refl s)) <|
      keptBy_next (tell_kept _ _ (regAccess_kept _ _ _ (devWake_kept (.refl s))))

theorem execBar2Access_kept (b : BarAcc) : KeptBy s (execBar2Access b s) :=
  keptBy_ite (keptBy_fault _) <|
    keptBy_ite (keptBy_next (.refl s)) <| keptBy_next (bar2Go_kept _ (devWake_kept (.refl s)))

theorem execMsixVectorWrite_kept (vec : Fin 2048) (word : Fin 4) (v : W32) : KeptBy s (execMsixVectorWrite vec word v s) :=
  keptBy_next (kept_ite (put32_kept _ _ _ (devWake_kept (.refl s))) (.refl s))

/-! ### Trace, DMA, stash and translator -/

theorem execEvtIoFallingEdge_kept : KeptBy s (execEvtIoFallingEdge s) :=
  keptBy_next (evtHold_kept (kept_ite (kept_update (.refl s) rfl) (kept_update (.refl s) rfl)))

theorem execDmaStart_kept (b : DmaStartBy) (a : Agent) : KeptBy s (execDmaStart b a s) := by
  cases b with
  | slot t n sr => exact keptBy_next (dmaSlotOp_kept _ _ _ _ (.refl s))
  | reg c => exact keptBy_next (dmaCtl_kept _ _ _ (.refl s))

theorem execStashFieldWrite_kept (a : Agent) (x : Fin 64) (f : StashField) (v : W64) : KeptBy s (execStashFieldWrite a x f v s) := by
  cases f with
  | base | size => exact keptBy_next (put64_kept _ _ _ (.refl s))
  | nrec => exact keptBy_next (put32_kept _ _ _ (.refl s))

theorem execColl_kept (t : TileIx) (r : CollReq) (off : Nat) (ev : Fin 16) : KeptBy s (execColl t r off ev s) :=
  keptBy_ite (keptBy_next (kept_getD fun _ e => queueColl_kept _ _ _ _ (.refl s) e)) (keptBy_next (.refl s))

theorem execUpd_kept (t : TileIx) (group : BitVec 32) (step : W64) (off : Nat) (ev : Fin 16) :
    KeptBy s (execUpd t group step off ev s) :=
  keptBy_next (kept_getD fun _ e => queueUpdate_kept _ _ _ _ _ (.refl s) e)

/-! ### Stacks -/

theorem execStackRequest_kept (r : Req) : KeptBy s (execStackRequest r s) :=
  keptBy_ite (keptBy_fault _) <|
    keptBy_ite (keptBy_next (stackArrive_kept _ (arrived_kept _ (.refl s)))) (keptBy_next (.refl s))

theorem execStackRequestIssue_kept (k : StackIx) (cls : Fin 5) (nth : Nat) (ecc : List (Nat × Nat)) :
    KeptBy s (execStackRequestIssue k cls nth ecc s) :=
  keptBy_ite (keptBy_next (stackIssue_kept _ _ _ _ (.refl s))) (keptBy_fault _)

theorem execRefresh_kept (k : StackIx) (bank : Nat) (postpone : Bool) : KeptBy s (execRefresh k bank postpone s) :=
  keptBy_ite (keptBy_next (modStack_kept _ _ (.refl s))) (keptBy_fault _)

theorem execScrubStep_kept (k : StackIx) (symbols : Nat) : KeptBy s (execScrubStep k symbols s) :=
  keptBy_ite (keptBy_next (scrubOne_kept _ _ (.refl s))) (keptBy_fault _)

theorem execStackThermalSample_kept (k : StackIx) (temp : Int) : KeptBy s (execStackThermalSample k temp s) := by
  have sampled : Kept s (s.stackSample k.val temp) := stackSample_kept _ _ (.refl s)
  have tripped := kept_ite (c := (s.stackSample k.val temp).pin.thermtrip && !s.pin.thermtrip) (trip_kept sampled) sampled
  exact keptBy_next (kept_ite (devWake_kept tripped) tripped)

/-! ### Ports and collectives -/

theorem execTrainingComplete_kept (n : PortIx) (peerId : BitVec 16) (peerPort : BitVec 4) :
    KeptBy s (execTrainingComplete n peerId peerPort s) :=
  keptBy_ite (keptBy_next (latch_kept _ (setPort_kept _ _ (.refl s)))) (keptBy_next (.refl s))

theorem execTrainingTimeout_kept (n : PortIx) : KeptBy s (execTrainingTimeout n s) :=
  keptBy_ite (keptBy_next (latch_kept _ (setPort_kept _ _ (.refl s)))) (keptBy_next (.refl s))

theorem execKeepaliveSend_kept (n : PortIx) : KeptBy s (execKeepaliveSend n s) :=
  keptBy_next (kept_ite (emit_kept _ (.refl s)) (.refl s))

theorem execKeepaliveWindow_kept (n : PortIx) : KeptBy s (execKeepaliveWindow n s) :=
  have missed := setPort_kept _ _ (.refl s)
  keptBy_ite (keptBy_next (.refl s)) <|
    keptBy_ite (keptBy_next (setPort_kept _ _ (.refl s))) <| keptBy_next (kept_ite (portLost_kept _ missed) missed)

theorem execNak_kept (n : PortIx) (ack : BitVec 12) : KeptBy s (execNak n ack s) :=
  keptBy_ite (keptBy_next (.refl s)) <|
    keptBy_next (pumpPort_kept _ _ (kept_foldl (fun _ _ h => emit_kept _ h) _ (setPort_kept _ _ (.refl s))))

theorem execKeepalive_kept (n : PortIx) (c : Cell) : KeptBy s (execKeepalive n c s) :=
  keptBy_ite (keptBy_next (.refl s)) <|
    keptBy_ite (keptBy_next (crcFail_kept _ (.refl s))) <| keptBy_next (ackPort_kept _ _ (setPort_kept _ _ (.refl s)))

theorem execReady_kept (n : PortIx) (m : ConvoyMsg) (r : ReadyInfo) : KeptBy s (execReady n m r s) := by
  refine keptBy_next ?_
  split
  · next e => exact readyMsg_kept _ _ _ (takeCtrl_kept _ _ (.refl s) e)
  · exact .refl s

theorem execChunk_kept (n : PortIx) (m : ConvoyMsg) (c : ChunkInfo) : KeptBy s (execChunk n m c s) := by
  refine keptBy_next ?_
  split
  · next e => exact chunkMsg_kept _ _ _ (takeParts_kept _ _ _ (.refl s) e)
  · exact .refl s

theorem execRefuse_kept (n : PortIx) (m : ConvoyMsg) (epoch : Byte) : KeptBy s (execRefuse n m epoch s) := by
  refine keptBy_next ?_
  split
  · next e => exact refuseMsg_kept _ _ (takeCtrl_kept _ _ (.refl s) e)
  · exact .refl s

theorem execAbort_kept (n : PortIx) (m : ConvoyMsg) (c : CtrlInfo) : KeptBy s (execAbort n m c s) := by
  refine keptBy_next ?_
  split
  · next e => exact abortMsg_kept _ _ _ (takeCtrl_kept _ _ (.refl s) e)
  · exact .refl s

theorem execMemberFail_kept (n : PortIx) (m : ConvoyMsg) (c : CtrlInfo) : KeptBy s (execMemberFail n m c s) := by
  refine keptBy_next ?_
  split
  · next e => exact memberFailMsg_kept _ _ _ (takeCtrl_kept _ _ (.refl s) e)
  · exact .refl s

theorem execSlow_kept (n : PortIx) (m : ConvoyMsg) (c : CtrlInfo) : KeptBy s (execSlow n m c s) := by
  refine keptBy_next ?_
  split
  · next e => exact slowMsg_kept _ _ _ (takeCtrl_kept _ _ (.refl s) e)
  · exact .refl s

theorem execConvoyTimeout_kept (fgid : W32) (rank : BitVec 16) : KeptBy s (execConvoyTimeout fgid rank s) := by
  refine keptBy_next ?_
  split
  · exact abortColl_kept _ _ _ _ (.refl s)
  · exact .refl s

theorem execCollectiveComplete_kept (fgid : W32) : KeptBy s (execCollectiveComplete fgid s) := by
  refine keptBy_next ?_
  split
  · exact kept_ite (endColl_kept _ _ _ _ (.refl s)) (.refl s)
  · exact .refl s

/-! ### Streams -/

theorem execUnseal_kept (i : StreamIx) (c : StreamCmd) (host : List (List PByte × List PByte)) : KeptBy s (execUnseal i c host s) := by
  unfold execUnseal
  split
  · exact keptBy_next (kept_ite (unsealGo_kept _ _ _ _ _ _ _ (.refl s)) (.refl s))
  · exact keptBy_next (streamCmd_kept _ _ _ _ _ (.refl s))

/-! ### SPDM and vendor-defined requests -/

theorem execChallenge_kept (req : List Byte) : KeptBy s (execChallenge req s) :=
  keptBy_next (spdmReq_kept _ (fun _ k => spdm_kept _ _ (kept_update k rfl)) (.refl s))

theorem execGetMeasurements_kept (index : Byte) (nonce : BitVec 256) : KeptBy s (execGetMeasurements index nonce s) :=
  keptBy_next (spdmReq_kept _ (fun _ k =>
    kept_ite (spdm_kept _ _ k)
      (kept_ite (kept_ite (spdmErr_kept _ k) (spdm_kept _ _ (report_kept _ k)))
        (kept_ite (spdm_kept _ _ k) (spdmErr_kept _ k)))) (.refl s))

theorem execKeyExchange_kept (req : List Byte) : KeptBy s (execKeyExchange req s) :=
  keptBy_next (spdmReq_kept _ (fun _ k =>
    kept_ite (spdmErr_kept _ k) (kept_ite (spdmErr_kept _ k) (spdm_kept _ _ (kept_update k rfl)))) (.refl s))

theorem execFinish_kept (req : List Byte) : KeptBy s (execFinish req s) :=
  keptBy_next (spdmReq_kept _ (fun _ k => kept_ite (spdmErr_kept _ k) (spdm_kept _ _ (kept_update k rfl))) (.refl s))

theorem execEndSession_kept : KeptBy s (execEndSession s) :=
  keptBy_next (spdmIn_kept _ (fun _ k => endSession_kept (spdm_kept _ _ k)) (.refl s))

theorem execTileClearComplete_kept : KeptBy s (execTileClearComplete s) :=
  have done (v : State) (h : Kept s v) : Kept s { v with sec := { v.sec with clrBusy := false } } := kept_update h rfl
  keptBy_next (done _ (kept_foldl (fun _ _ k => kept_ite (modTile_kept _ _ k) k) _ (.refl s)))

/-! ### The Lookout -/

theorem execPowerOn_kept (p : MgmtPath) : KeptBy s (execPowerOn p s) :=
  keptBy_next (lookoutOp_kept _ _ _ (fun _ k => mgmt_kept _ _ _ (lookoutOn_kept k)) (.refl s))

theorem execPowerOff_kept (p : MgmtPath) : KeptBy s (execPowerOff p s) :=
  keptBy_next (lookoutOp_kept _ _ _ (fun _ k => mgmt_kept _ _ _ (kept_ite k (enterNight_kept k))) (.refl s))

theorem execStage_kept (p : MgmtPath) (slot : ImageSlot) (image : List Byte) : KeptBy s (execStage p slot image s) :=
  keptBy_next (lookoutOp_kept _ _ _ (fun _ k => kept_ite (mgmt_kept _ _ _ k) (mgmt_kept _ _ _ (kept_update k rfl))) (.refl s))

theorem execSvnCommit_kept (p : MgmtPath) : KeptBy s (execSvnCommit p s) :=
  keptBy_next (lookoutOp_kept _ _ _ (fun _ k => mgmt_kept _ _ _ (kept_update k rfl)) (.refl s))

theorem execRevoke_kept (p : MgmtPath) (erev lrev : BitVec 4) : KeptBy s (execRevoke p erev lrev s) :=
  keptBy_next (lookoutOp_kept _ _ _ (fun _ k => mgmt_kept _ _ _ (kept_update k rfl)) (.refl s))

theorem execDebugToken_kept (p : MgmtPath) (uid : BitVec 128) (nonce : W64) (token : List Byte) :
    KeptBy s (execDebugToken p uid nonce token s) :=
  keptBy_next (lookoutOp_kept _ _ _ (fun _ k => kept_ite (mgmt_kept _ _ _ (kept_update k rfl)) (mgmt_kept _ _ _ k)) (.refl s))

/-- LAYOUT names one of the three layouts of R83. -/
theorem execLayout_kept (p : MgmtPath) (mode : Fin 3) : KeptBy s (execLayout p mode s) :=
  have three : mode.val ≤ 2 := Nat.le_of_lt_succ mode.isLt
  keptBy_next (lookoutOp_kept _ _ _
    (fun _ k => kept_ite (mgmt_kept _ _ _ k) (mgmt_kept _ _ _ (setLayout_kept _ three k))) (.refl s))

theorem execDevid_kept (p : MgmtPath) (v : BitVec 16) : KeptBy s (execDevid p v s) :=
  keptBy_next (lookoutOp_kept _ _ _
    (fun _ k => mgmt_kept _ _ _ (kept_ite (kept_update k rfl) (kept_update k rfl))) (.refl s))

theorem execTelemetry_kept (p : MgmtPath) : KeptBy s (execTelemetry p s) :=
  keptBy_next (lookoutOp_kept _ _ _ (fun _ k => mgmt_kept _ _ _ (drawn_kept _ k)) (.refl s))

theorem execFaultlog_kept (p : MgmtPath) : KeptBy s (execFaultlog p s) :=
  keptBy_next (lookoutOp_kept _ _ _ (fun _ k => mgmt_kept _ _ _ k) (.refl s))

theorem execAttest_kept (p : MgmtPath) (nonce : BitVec 256) : KeptBy s (execAttest p nonce s) :=
  keptBy_next (lookoutOp_kept _ _ _ (fun _ k => kept_ite (mgmt_kept _ _ _ k) (mgmt_kept _ _ _ (report_kept _ k))) (.refl s))

theorem execAnchorSet_kept (p : MgmtPath) (slot : Fin 4) (anchor : List Byte) : KeptBy s (execAnchorSet p slot anchor s) :=
  keptBy_next (lookoutOp_kept _ _ _ (fun _ k => kept_ite (mgmt_kept _ _ _ (kept_update k rfl)) (mgmt_kept _ _ _ k)) (.refl s))

theorem execLookoutHeartbeat_kept : KeptBy s (execLookoutHeartbeat s) :=
  keptBy_next (kept_ite (kept_foldl (fun _ _ k => emit_kept _ k) _ (.refl s)) (.refl s))

theorem execLookoutMailboxReply_kept (v : W64) : KeptBy s (execLookoutMailboxReply v s) :=
  keptBy_next (kept_ite (latch_kept _ (kept_update (.refl s) rfl)) (.refl s))

/-- A session opens only while fewer than four stand (R467). -/
theorem execTlsSessionOpen_kept (cert : List Byte) : KeptBy s (execTlsSessionOpen cert s) := by
  refine keptBy_next ?_
  split
  · next opens =>
    simp only [Bool.and_eq_true, decide_eq_true_eq] at opens
    obtain ⟨⟨-, fewer⟩, -⟩ := opens
    exact ⟨rfl, rfl, fun o => ⟨o.memory, o.layout, o.hamper, o.trace, fewer, o.priorities⟩⟩
  · exact .refl s

/-! ### Clocks and power -/

theorem execTileIdleDusk_kept (t : TileIx) : KeptBy s (execTileIdleDusk t s) :=
  keptBy_next (kept_ite (setTile_kept _ _ (.refl s)) (.refl s))

theorem execTileWakeComplete_kept (t : TileIx) : KeptBy s (execTileWakeComplete t s) :=
  keptBy_next (startLaunches_kept (wakeTile_kept _ (.refl s)))

theorem execScDusk_kept (n : Fin 8) : KeptBy s (execScDusk n s) :=
  keptBy_next (kept_ite (setCore_kept _ _ (.refl s)) (.refl s))

theorem execScWake_kept (n : Fin 8) : KeptBy s (execScWake n s) :=
  keptBy_next (kept_ite (.refl s) (kept_ite (setCore_kept _ _ (.refl s)) (devWake_kept (.refl s))))

/-! ### Resets, pins and machine checks -/

theorem execPorstNDeassert_kept (straps : BitVec 4) (fuseOk : Bool) (stackOk : BitVec 12) :
    KeptBy s (execPorstNDeassert straps fuseOk stackOk s) :=
  keptBy_ite (keptBy_next (.refl s)) (keptBy_next (powerUp_kept (kept_update (.refl s) rfl)))

/-- A reset of the Lookout ends its sessions (R523). -/
theorem execLkoRstNAssert_kept : KeptBy s (execLkoRstNAssert s) :=
  keptBy_next ⟨rfl, rfl, fun o => ⟨o.memory, o.layout, o.hamper, o.trace, Nat.zero_le _, o.priorities⟩⟩

theorem execLkoRstNDeassert_kept : KeptBy s (execLkoRstNDeassert s) :=
  keptBy_next (kept_ite (kept_foldl (fun _ _ k => mailbox_kept _ k) _ (kept_update (.refl s) rfl)) (kept_update (.refl s) rfl))

theorem execPgoodTimeout_kept : KeptBy s (execPgoodTimeout s) :=
  keptBy_next (kept_ite (note_kept _ _ (kept_update (.refl s) rfl)) (.refl s))

theorem execPgoodRise_kept : KeptBy s (execPgoodRise s) :=
  keptBy_next (kept_ite (startUp_kept _ _ (kept_update (.refl s) rfl)) (.refl s))

theorem execAoClkRestore_kept : KeptBy s (execAoClkRestore s) :=
  keptBy_next (kept_ite (powerUp_kept (kept_update (.refl s) rfl)) (.refl s))

theorem execRefclkLoss_kept : KeptBy s (execRefclkLoss s) :=
  keptBy_next (kept_ite (note_kept _ _ (kept_ite (.refl s) (enterNight_kept (.refl s)))) (.refl s))

theorem execScWatchdogExpiry_kept (n : Fin 8) : KeptBy s (execScWatchdogExpiry n s) :=
  keptBy_next (kept_ite (holdCore_kept _ (machineCheck_kept _ _ _ _ (drawn_kept _ (.refl s)))) (.refl s))

theorem execScMachineCheck_kept (n : Fin 8) (residue : Bool) (addr : W64) : KeptBy s (execScMachineCheck n residue addr s) :=
  keptBy_next (kept_ite (holdCore_kept _ (machineCheck_kept _ _ _ _ (.refl s))) (.refl s))

theorem execSc0FailureRestart_kept : KeptBy s (execSc0FailureRestart s) :=
  keptBy_next (kept_ite (startUp_kept _ _ (kept_update (enterNight_kept (.refl s)) rfl)) (.refl s))

theorem execJunctionSample_kept (temp : Int) : KeptBy s (execJunctionSample temp s) :=
  have sampled : Kept s { s with pin := { s.pin with junction := temp } } := kept_update (.refl s) rfl
  keptBy_next (kept_ite (trip_kept sampled) sampled)

/-! ### Every command, and a step -/

/-- Every command keeps: most are one shared operation, the others have a lemma above. -/
theorem exec_kept (c : Instr) (s : State) : KeptBy s (exec c s) := by
  have k := Kept.refl s
  cases c
  -- Register accesses, windows, BARs
  case registerWrite a addr w8 v => exact execRegisterWrite_kept a addr w8 v
  case rcRegisterRead a addr w8 => exact execRcRegisterRead_kept a addr w8
  case windowRequest r => exact execWindowRequest_kept r
  case evtMessage m => exact execEvtMessage_kept m
  case bar0Access b => exact execBar0Access_kept b
  case bar2Access b => exact execBar2Access_kept b
  case msixVectorWrite vec word v => exact execMsixVectorWrite_kept vec word v
  case hostCompletion | hostCompletionTimeout => exact keptBy_next (hostAnswer_kept _ _ _ k)
  case pcieLinkUp => exact keptBy_next (linkUp_kept _ _ k)
  case pcieLinkDown => exact keptBy_next (linkDown_kept k)
  case hostLost => exact keptBy_next (hostLost_kept k)
  -- Operations of a tile's slots, and cycles of a tile
  case halt | trap | seqMov | seqAdd | seqSub | seqMul | seqAnd | seqOr | seqXor | seqShl | seqShr | seqSra | seqMin | seqMax
      | seqMinu | seqMaxu | movh | rdid | ld | st | br | bcc | bcnd | loop | seqWait | fence | cmpset | evset | evadd | sig | hsig
      | phase =>
    exact keptBy_next (seqOp_kept _ _ _ k)
  case mma | accld | accst => exact keptBy_next (mxOp_kept _ _ _ _ k)
  case vadd | vsub | vmul | vfma | vfms | vneg | vabs | vand | vor | vxor | vshl | vshr | vmac | vmax | vmin | vcmp | vsel | vmov
      | vbcast | vcvt | vperm | vsegred | vsum | vrng | vdrop | summaryBroadcastClear | ptld | ptmac | ptswap | rcmb | expand =>
    exact keptBy_next (veOp_kept _ _ _ _ k)
  case vld | vldS | vst | vstZ => exact keptBy_next (lsOp_kept _ _ _ k)
  case sfnFunc | softmax | rstat | sfld => exact keptBy_next (sfOp_kept _ _ _ _ k)
  case bundleIssue | waitResume | fenceResume | waitLimitTimeout | codeCopyComplete | pendingOperationStart | operationRetire =>
    exact keptBy_next (tileWork_kept _ _ k)
  case rngReseedComplete | vectorClearComplete => exact keptBy_next (modTile_kept _ _ k)
  -- Register writes by an agent
  case phaseTimerClear | tseqStart | tseqStop | setCheckedMode | arrayEnableWrite | drizzleOpen | drizzleClose | drizzleAbort
      | vectorClear | rngReseed =>
    exact keptBy_next (ctlWrite_kept _ _ _ _ k)
  case hubPhaseStart | hubPhaseStop | traceUnfreeze | stashClaim | stashSeal | stashRelease | npcLoad | npcUnload | pageRetire
      | faultRecordPop | thresholdWrite | stackResume | stratusReseed | portEnable | portDisable | portRetrain | streamOpen
      | streamClose | streamResume | streamDoorbell | measurementExtend | tileClear | icuComplete | pendset | pendclr | tmaskset
      | tmaskclr | opChange | tileStateRequest | deviceDuskRequest | hubClockEnable | watchdogKick | scRelease =>
    exact keptBy_next (put32_kept _ _ _ k)
  case npcRequestWrite | remapLoad | lookoutMailboxRequest => exact keptBy_next (put64_kept _ _ _ k)
  case icuClaim => exact keptBy_next (getReg_kept _ _ _ k)
  case claim | release => exact keptBy_next (claimWrite_kept _ _ _ k)
  -- Trace, DMA, stash and translator
  case phaseExportRecord => exact keptBy_next (phaseArrives_kept _ k)
  case evtIoFallingEdge => exact execEvtIoFallingEdge_kept
  case evtIoRisingEdge => exact keptBy_next (kept_update k rfl)
  case dmaStart b a => exact execDmaStart_kept b a
  case dmaAbort | dmaDisable => exact keptBy_next (dmaStop_kept _ _ _ _ k)
  case dmaBurstIssue => exact keptBy_next (chanIssue_kept _ k)
  case dmaResponse => exact keptBy_next (chanResponse_kept _ _ k)
  case dmaRetryReissue => exact keptBy_next (chanRetry_kept _ _ k)
  case stashFieldWrite a x f v => exact execStashFieldWrite_kept a x f v
  case npcRequestComplete => exact keptBy_next (npcComplete_kept _ k)
  case coll t r off ev => exact execColl_kept t r off ev
  case upd t group step off ev => exact execUpd_kept t group step off ev
  -- Stacks and stratus units
  case stackRequest r => exact execStackRequest_kept r
  case stackRequestIssue x cls nth ecc => exact execStackRequestIssue_kept x cls nth ecc
  case regulatorRefill | scrubPeriodEnd => exact keptBy_next (modStack_kept _ _ k)
  case refresh x bank postpone => exact execRefresh_kept x bank postpone
  case scrubStep x symbols => exact execScrubStep_kept x symbols
  case stackThermalSample x temp => exact execStackThermalSample_kept x temp
  case stratusPassStart => exact keptBy_next (stratStart_kept _ _ k)
  case stratusPassComplete => exact keptBy_next (stratFinish_kept _ k)
  case add | finalAdd | finalSet => exact keptBy_next (offerChunk_kept _ _ _ k)
  case stratusReseedComplete => exact keptBy_next (setUnit_kept _ _ k)
  -- Ports and collectives
  case trainingComplete n peerId peerPort => exact execTrainingComplete_kept n peerId peerPort
  case trainingTimeout n => exact execTrainingTimeout_kept n
  case keepaliveSend n => exact execKeepaliveSend_kept n
  case keepaliveWindow n => exact execKeepaliveWindow_kept n
  case data | ctrl => exact keptBy_next (recvCell_kept _ _ k)
  case nak n ack => exact execNak_kept n ack
  case keepalive n c => exact execKeepalive_kept n c
  case collectiveStart => exact keptBy_next (kept_ite (startColl_kept k) k)
  case ready n m r => exact execReady_kept n m r
  case chunk n m c => exact execChunk_kept n m c
  case refuse n m epoch => exact execRefuse_kept n m epoch
  case abort n m c => exact execAbort_kept n m c
  case memberFail n m c => exact execMemberFail_kept n m c
  case slow n m c => exact execSlow_kept n m c
  case slowRepeat => exact keptBy_next (kept_ite (slowNotices_kept _ _ k) k)
  case convoyTimeout fgid rank => exact execConvoyTimeout_kept fgid rank
  case collectiveComplete fgid => exact execCollectiveComplete_kept fgid
  -- Streams
  case hamperFetch => exact keptBy_next (servePending_kept _ k)
  case commandDispatch => exact keptBy_next (firstStart_kept _ _ k)
  case nop | launch | patch | copy | signal | wait | barrier | convoy | reconcile | update =>
    exact keptBy_next (streamCmd_kept _ _ _ _ _ k)
  case launchComplete => exact keptBy_next (endLaunch_kept _ k)
  case waitSatisfied => exact keptBy_next (waitDone_kept _ k)
  case waitTimeout => exact keptBy_next (waitTimeout_kept _ k)
  -- SPDM, vendor-defined requests and the entropy source
  case getVersion | getCapabilities | negotiateAlgorithms | getDigests | getCertificate =>
    exact keptBy_next (spdmPlain_kept _ _ _ k)
  case challenge req => exact execChallenge_kept req
  case getMeasurements index nonce => exact execGetMeasurements_kept index nonce
  case keyExchange req => exact execKeyExchange_kept req
  case finish req => exact execFinish_kept req
  case heartbeat | keyUpdate => exact keptBy_next (spdmIn_kept _ (fun _ h => spdm_kept _ _ h) k)
  case endSession => exact execEndSession_kept
  case confEnter => exact keptBy_next (vendorOp_kept _ (fun _ h => confEnter_kept h) k)
  case windowSet => exact keptBy_next (vendorOp_kept _ (fun _ h => windowSet_kept _ _ _ _ _ _ h) k)
  case windowClear => exact keptBy_next (vendorOp_kept _ (fun _ h => windowClear_kept _ h) k)
  case keyInstall => exact keptBy_next (vendorOp_kept _ (fun _ h => keyInstall_kept _ h) k)
  case keyRetire => exact keptBy_next (vendorOp_kept _ (fun _ h => keyRetire_kept _ h) k)
  case regWrite off v => exact keptBy_next (vendorReq_kept _ (fun _ h => vendorAccess_kept off (some v) h) k)
  case regRead off => exact keptBy_next (vendorReq_kept _ (fun _ h => vendorAccess_kept off none h) k)
  case tileClearComplete => exact execTileClearComplete_kept
  case entropyHealthFail => exact keptBy_next (kept_update k rfl)
  -- The Lookout
  case powerOn p => exact execPowerOn_kept p
  case powerOff p => exact execPowerOff_kept p
  case stage p slot image => exact execStage_kept p slot image
  case svnCommit p => exact execSvnCommit_kept p
  case revoke p erev lrev => exact execRevoke_kept p erev lrev
  case debugToken p uid nonce token => exact execDebugToken_kept p uid nonce token
  case layout p mode => exact execLayout_kept p mode
  case devid p v => exact execDevid_kept p v
  case telemetry p => exact execTelemetry_kept p
  case faultlog p => exact execFaultlog_kept p
  case attest p nonce => exact execAttest_kept p nonce
  case anchorSet p slot anchor => exact execAnchorSet_kept p slot anchor
  case lookoutHeartbeat => exact execLookoutHeartbeat_kept
  case lookoutMailboxReply v => exact execLookoutMailboxReply_kept v
  case mctpHeartbeatRequest => exact keptBy_next (kept_ite (emit_kept _ k) k)
  case tlsSessionOpen cert => exact execTlsSessionOpen_kept cert
  -- Interrupts, clocks and power
  case interruptLevelChange => exact keptBy_next (seeLine8_kept k)
  case pllLock => exact keptBy_next (pllLock_kept _ k)
  case pllLockTimeout => exact keptBy_next (pllTimeout_kept _ k)
  case voltageSettle => exact keptBy_next (voltageSettle_kept k)
  case clockSwitchWatchdog => exact keptBy_next (clockWatchdog_kept _ k)
  case powerSample => exact keptBy_next (modPwr_kept _ k)
  case excursionBackstop => exact keptBy_next (backstop_kept k)
  case powerEvaluation => exact keptBy_next (evaluate_kept k)
  case tileIdleDusk t => exact execTileIdleDusk_kept t
  case tileWakeComplete t => exact execTileWakeComplete_kept t
  case deviceWake => exact keptBy_next (devWake_kept k)
  case deviceDawnComplete => exact keptBy_next (devDawn_kept k)
  case scDusk n => exact execScDusk_kept n
  case scWake n => exact execScWake_kept n
  -- Resets, pins and machine checks
  case porstNAssert | aoClkLoss => exact keptBy_next (kept_update (underPorst_kept k) rfl)
  case porstNDeassert straps fuseOk stackOk => exact execPorstNDeassert_kept straps fuseOk stackOk
  case perstNAssert => exact keptBy_next (perstAssert_kept k)
  case perstNDeassert => exact keptBy_next (kept_update k rfl)
  case lkoRstNAssert => exact execLkoRstNAssert_kept
  case lkoRstNDeassert => exact execLkoRstNDeassert_kept
  case pgoodTimeout => exact execPgoodTimeout_kept
  case pgoodRise => exact execPgoodRise_kept
  case aoClkRestore => exact execAoClkRestore_kept
  case refclkLoss => exact execRefclkLoss_kept
  case scWatchdogExpiry n => exact execScWatchdogExpiry_kept n
  case scMachineCheck n residue addr => exact execScMachineCheck_kept n residue addr
  case sc0FailureRestart => exact execSc0FailureRestart_kept
  case junctionSample temp => exact execJunctionSample_kept temp
  -- SEAL and UNSEAL remain: their names are keywords of Lean, which `case` does not take
  · next i c => exact keptBy_next (streamCmd_kept i.val 4 c [] [] k)
  · next i c host => exact execUnseal_kept i c host

/-- The queue is no part of what `Orderly` says. -/
theorem orderly_pending (q : List Instr) (o : Orderly s) : Orderly { s with pending := q } :=
  ⟨o.memory, o.layout, o.hamper, o.trace, o.sessions, o.priorities⟩

theorem step_orderly (o : Orderly s) (h : step s = .next t) : Orderly t := by
  unfold step at h
  split at h
  · next => cases h; exact o
  · next c rest _ => exact (exec_kept c _ t h).orderly (orderly_pending rest o)

/-- Settles O2: a step idles or runs the front command, and every command keeps an orderly state orderly. -/
theorem stepKeepsStateOrderly : Obligations.StepKeepsStateOrderly :=
  fun _ _ o h => step_orderly o h

end Sys2Proof.Machine

/-! # Tile clears (R454, R456)

What a service core's write of SEC_TILECLR with go set does: the write reaches the register, refused and the tile number are taken from
it, and the clear is started or refused. -/

namespace Sys2Proof.Machine

/-! ### The word written -/

theorem goWord_refused (v : W32) : ((v ||| 0x80000000#32).zeroExtend 64 : W64)[29] = v[29] := by
  simp

theorem goWord_go (v : W32) : ((v ||| 0x80000000#32).zeroExtend 64 : W64)[31] = true := by
  simp

theorem goWord_tile (v : W32) : ((v ||| 0x80000000#32).zeroExtend 64 : W64).truncate 8 = (v.truncate 8 : BitVec 8) := by
  simp [BitVec.setWidth_setWidth_of_le, BitVec.setWidth_or]

/-- Field tile of the word is the number of the tile to be cleared. -/
theorem goWord_tileNumber (v : W32) : ((v ||| 0x80000000#32).zeroExtend 64 : W64).toNat % 256 = v.toNat % 256 := by
  calc ((v ||| 0x80000000#32).zeroExtend 64 : W64).toNat % 256
      = (((v ||| 0x80000000#32).zeroExtend 64 : W64).truncate 8 : BitVec 8).toNat := (BitVec.toNat_setWidth 8 _).symm
    _ = (v.truncate 8 : BitVec 8).toNat := congrArg _ (goWord_tile v)
    _ = v.toNat % 256 := BitVec.toNat_setWidth 8 v

/-! ### The register -/

/-- The state after a write of the fields refused (W1C) and tile of SEC_TILECLR. -/
def State.tileClrFields (s : State) (v : W32) : State :=
  { s with sec := { s.sec with clrRefused := s.sec.clrRefused && !v[29], clrTile := v.truncate 8 } }

/-- A write with go starts the clear of the tile, or is refused, after the other fields are written. -/
theorem secWrite_tileClr_go (s : State) (v : W32) :
    secWrite s 0x48 .all ((v ||| 0x80000000#32).zeroExtend 64) = (s.tileClrFields v).tileClear (v.toNat % 256) := by
  have h (w : W64) : secWrite s 0x48 .all w =
      if w[31] then State.tileClear { s with sec := { s.sec with clrRefused := s.sec.clrRefused && !w[29], clrTile := w.truncate 8 } }
        (w.toNat % 256)
      else { s with sec := { s.sec with clrRefused := s.sec.clrRefused && !w[29], clrTile := w.truncate 8 } } := rfl
  rw [h, goWord_go, if_pos rfl, goWord_refused, goWord_tile, goWord_tileNumber]
  rfl

/-- A service core's TILE_CLEAR reaches SEC_TILECLR and answers OK. -/
theorem exec_tileClear_core (s : State) (core : Fin 8) (v : W32) :
    exec (.tileClear (.sc core) v) s = Slice0.hubWrote (.sc core) ((s.tileClrFields v).tileClear (v.toNat % 256)) := by
  change Host.Outcome.next (s.put32 (.sc core) 0x4000048 (v ||| 0x80000000#32)) = _
  rw [put32_eq (a := .sc core) (b := .sec) (o := 0x48) (by decide) (by decide) (by decide) rfl rfl rfl nofun nofun,
    blockWrite_sec, secWrite_tileClr_go]
  rfl

/-! ### The refusal -/

/-- R456: a tile that is not halted or not idle is not cleared. -/
theorem tileClear_busy {s : State} {t : Nat} (h : (s.tile t).seq.st ≠ .halted ∨ tileIdle (s.tile t) = false) :
    s.tileClear t = { s with sec := { s.sec with clrRefused := true } } := by
  unfold State.tileClear
  exact if_pos (by simpa using h)

/-- Settles O50: the write reaches SEC_TILECLR, and there the clear of a busy tile is refused, whatever it wrote to refused itself. -/
theorem busyTileIsNotCleared : Obligations.BusyTileIsNotCleared := by
  unfold Obligations.BusyTileIsNotCleared
  intro s core v x _ busy
  have refuses := tileClear_busy (s := s.tileClrFields v) (t := v.toNat % 256) busy
  rw [exec_tileClear_core, refuses]
  rfl

end Sys2Proof.Machine

/-! # The winner of an interrupt target (R475)

The priorities stand by rising source number. The search through them keeps the best candidate found so far, and of two that are equal
the earlier one. -/

namespace Sys2Proof.Machine

/-! ### Entries of a table -/

theorem mem_of_tget_ne {α : Type} {d : α} {m : Tab α} {k : Nat} (h : tget d m k ≠ d) : (k, tget d m k) ∈ m := by
  induction m with
  | nil => exact absurd rfl h
  | cons x m ih =>
    obtain ⟨j, v⟩ := x
    unfold tget at h ⊢
    split
    · next hk => simp [hk]
    · next hk =>
      rw [if_neg hk] at h
      split
      · next hlt => exact absurd (if_pos hlt) h
      · next hlt => exact List.mem_cons_of_mem _ (ih (by rwa [if_neg hlt] at h))

/-- The keys of a canonical table from `lo` on. -/
theorem Tab.wfFrom_le_key {α : Type} [DecidableEq α] {d : α} {m : Tab α} {lo : Nat} {e : Nat × α} (w : Tab.wfFrom d lo m = true) (h : e ∈ m) :
    lo ≤ e.1 := by
  induction m generalizing lo with
  | nil => cases h
  | cons x m ih =>
    simp only [Tab.wfFrom, Bool.and_eq_true, decide_eq_true_eq] at w
    obtain ⟨⟨low, -⟩, rest⟩ := w
    rcases List.mem_cons.1 h with rfl | h
    · exact low
    · exact Nat.le_trans low (Nat.le_of_succ_le (ih rest h))

theorem tget_of_mem {α : Type} [DecidableEq α] {d : α} {m : Tab α} {lo : Nat} {e : Nat × α} (w : Tab.wfFrom d lo m = true) (h : e ∈ m) :
    tget d m e.1 = e.2 := by
  induction m generalizing lo with
  | nil => cases h
  | cons x m ih =>
    simp only [Tab.wfFrom, Bool.and_eq_true, decide_eq_true_eq] at w
    obtain ⟨-, rest⟩ := w
    rcases List.mem_cons.1 h with rfl | h
    · simp [tget]
    · have above := Tab.wfFrom_le_key rest h
      have ne : e.1 ≠ x.1 := by omega
      have nlt : ¬ e.1 < x.1 := by omega
      simp [tget, ne, nlt, ih rest h]

/-! ### Candidates (R475) -/

theorem candidateOf_iff (s : State) (target n : Nat) (p : BitVec 4) :
    s.candidateOf target n p = true ↔
      s.isPending n = true ∧ tget false s.icu.active n = false ∧ s.maskBit n target = true ∧ tget 0 s.icu.thr target < p := by
  simp [State.candidateOf, and_assoc]

/-- A candidate's priority exceeds a threshold, and so is not 0. -/
theorem candidateOf_ne_zero {s : State} {target n : Nat} {p : BitVec 4} (h : s.candidateOf target n p = true) : p ≠ 0 := by
  rintro rfl
  obtain ⟨-, -, -, exceeds⟩ := (candidateOf_iff s target n 0).1 h
  exact BitVec.not_lt_zero exceeds

theorem candidateOf_threshold_ne {s : State} {target n : Nat} {p : BitVec 4} (h : s.candidateOf target n p = true) :
    tget 0 s.icu.thr target ≠ 15 := by
  intro full
  obtain ⟨-, -, -, exceeds⟩ := (candidateOf_iff s target n p).1 h
  rw [full] at exceeds
  bv_omega

/-! ### The search for the winner (R475) -/

/-- One step of the search: source `e` of the table replaces the best one found so far. -/
def State.betterOf (s : State) (target : Nat) (b e : Nat × BitVec 4) : Nat × BitVec 4 :=
  if b.2 < e.2 && s.candidateOf target e.1 e.2 then e else b

/-- What the search over all priorities ends with: the winner and its priority, 0 and 0 for none. -/
def State.winnerEntry (s : State) (target : Nat) : Nat × BitVec 4 := s.icu.prio.foldl (s.betterOf target) (0, 0)

theorem winner_eq (s : State) (target : Nat) : s.winner target = (s.winnerEntry target).1 := rfl

/-- Source `x` is served before `y`, or is `y`: a higher priority, or the same and a number no higher. -/
def Precedes (x y : Nat × BitVec 4) : Prop := y.2 < x.2 ∨ (y.2 = x.2 ∧ x.1 ≤ y.1)

theorem Precedes.refl (x : Nat × BitVec 4) : Precedes x x := .inr ⟨rfl, Nat.le_refl _⟩

theorem Precedes.trans {x y z : Nat × BitVec 4} (h : Precedes x y) (k : Precedes y z) : Precedes x z := by
  unfold Precedes at *
  bv_omega

/-- A step of the search keeps the best source found so far, or takes a candidate. -/
theorem betterOf_cases (s : State) (target : Nat) (b e : Nat × BitVec 4) :
    (s.betterOf target b e = e ∧ b.2 < e.2 ∧ s.candidateOf target e.1 e.2 = true) ∨
    (s.betterOf target b e = b ∧ (s.candidateOf target e.1 e.2 = true → e.2 ≤ b.2)) := by
  unfold State.betterOf
  split
  · next h =>
    simp only [Bool.and_eq_true, decide_eq_true_eq] at h
    exact .inl ⟨rfl, h⟩
  · next h =>
    simp only [Bool.and_eq_true, decide_eq_true_eq, not_and] at h
    exact .inr ⟨rfl, fun c => BitVec.not_lt.1 fun lt => h lt c⟩

section
variable {s : State} {target : Nat}

theorem betterOf_precedes_old (b e : Nat × BitVec 4) : Precedes (s.betterOf target b e) b := by
  rcases betterOf_cases s target b e with ⟨eq, higher, -⟩ | ⟨eq, -⟩
  · rw [eq]; exact .inl higher
  · rw [eq]; exact .refl b

/-- A candidate that does not replace a source of lower number has no higher priority. -/
theorem betterOf_precedes_new {b e : Nat × BitVec 4} (below : b.1 ≤ e.1) (c : s.candidateOf target e.1 e.2 = true) :
    Precedes (s.betterOf target b e) e := by
  rcases betterOf_cases s target b e with ⟨eq, -, -⟩ | ⟨eq, le⟩
  · rw [eq]; exact .refl e
  · rw [eq]
    have := le c
    unfold Precedes
    bv_omega

theorem betterOf_le {b e : Nat × BitVec 4} (below : b.1 ≤ e.1) : (s.betterOf target b e).1 ≤ e.1 := by
  rcases betterOf_cases s target b e with ⟨eq, -, -⟩ | ⟨eq, -⟩ <;> rw [eq]
  exact below

theorem foldl_betterOf_precedes (m : Tab (BitVec 4)) (b : Nat × BitVec 4) : Precedes (m.foldl (s.betterOf target) b) b := by
  induction m generalizing b with
  | nil => exact .refl b
  | cons x m ih => exact (ih _).trans (betterOf_precedes_old b x)

/-- The search by rising number ends with a source that precedes every candidate of the table. -/
theorem foldl_betterOf_precedes_candidate {m : Tab (BitVec 4)} {lo : Nat} {b e : Nat × BitVec 4} (w : Tab.wfFrom 0 lo m = true)
    (below : b.1 ≤ lo) (h : e ∈ m) (c : s.candidateOf target e.1 e.2 = true) : Precedes (m.foldl (s.betterOf target) b) e := by
  induction m generalizing lo b with
  | nil => cases h
  | cons x m ih =>
    simp only [Tab.wfFrom, Bool.and_eq_true, decide_eq_true_eq] at w
    obtain ⟨⟨low, -⟩, rest⟩ := w
    have under : b.1 ≤ x.1 := Nat.le_trans below low
    rcases List.mem_cons.1 h with rfl | h
    · exact (foldl_betterOf_precedes m _).trans (betterOf_precedes_new under c)
    · exact ih rest (Nat.le_succ_of_le (betterOf_le under)) h

/-- The search ends with the source it began with, or with a candidate of the table. -/
theorem foldl_betterOf_cases {m : Tab (BitVec 4)} {b r : Nat × BitVec 4} (h : m.foldl (s.betterOf target) b = r) :
    r = b ∨ (r ∈ m ∧ s.candidateOf target r.1 r.2 = true) := by
  induction m generalizing b with
  | nil => exact .inl h.symm
  | cons x m ih =>
    rcases ih h with rfl | ⟨found, c⟩
    · rcases betterOf_cases s target b x with ⟨eq, -, c⟩ | ⟨eq, -⟩
      · rw [eq]; exact .inr ⟨List.mem_cons_self, c⟩
      · exact .inl eq
    · exact .inr ⟨List.mem_cons_of_mem _ found, c⟩

/-! ### The winner (R475) -/

/-- The search ends with no source, or with a candidate and its priority. -/
theorem winnerEntry_cases (o : Orderly s) :
    s.winnerEntry target = (0, 0) ∨
    ((s.winnerEntry target).2 = tget 0 s.icu.prio (s.winner target) ∧
      s.candidateOf target (s.winner target) (tget 0 s.icu.prio (s.winner target)) = true) := by
  refine (foldl_betterOf_cases (m := s.icu.prio) rfl).imp_right fun ⟨found, c⟩ => ?_
  have listed : tget 0 s.icu.prio (s.winner target) = (s.winnerEntry target).2 := tget_of_mem o.priorities found
  exact ⟨listed.symm, by rw [listed]; exact c⟩

theorem winner_candidate (o : Orderly s) (h : s.winner target ≠ 0) :
    s.candidateOf target (s.winner target) (tget 0 s.icu.prio (s.winner target)) = true := by
  rcases winnerEntry_cases (target := target) o with nothing | ⟨-, c⟩
  · exact absurd (congrArg Prod.fst nothing) h
  · exact c

/-- Where a source is a candidate, the winner is one too and precedes it. -/
theorem winner_precedes_candidate (o : Orderly s) {n : Nat} (c : s.candidateOf target n (tget 0 s.icu.prio n) = true) :
    s.candidateOf target (s.winner target) (tget 0 s.icu.prio (s.winner target)) = true ∧
    Precedes (s.winner target, tget 0 s.icu.prio (s.winner target)) (n, tget 0 s.icu.prio n) := by
  have listed := mem_of_tget_ne (candidateOf_ne_zero c)
  have first : Precedes (s.winnerEntry target) (n, tget 0 s.icu.prio n) :=
    foldl_betterOf_precedes_candidate o.priorities (Nat.le_refl 0) listed c
  rcases winnerEntry_cases (target := target) o with nothing | ⟨entry, found⟩
  · rw [nothing] at first
    rcases first with higher | ⟨same, -⟩
    · exact absurd higher BitVec.not_lt_zero
    · exact absurd same (candidateOf_ne_zero c)
  · rw [← entry]
    exact ⟨entry ▸ found, first⟩

theorem winner_of_threshold_full (o : Orderly s) (h : tget 0 s.icu.thr target = 15) : s.winner target = 0 :=
  by_contra fun won => candidateOf_threshold_ne (winner_candidate o won) h

end

/-- Settles O60: the search by rising source number keeps the first candidate of the highest priority. -/
theorem winnerHasHighestPriorityAndLowestNumber : Obligations.WinnerHasHighestPriorityAndLowestNumber := by
  unfold Obligations.WinnerHasHighestPriorityAndLowestNumber
  intro s target o prio candidate
  have is_candidate (n : Nat) : s.candidateOf target n (prio n) = true ↔ candidate n := candidateOf_iff s target n (prio n)
  refine ⟨is_candidate, fun n zero c => ?_, fun n c _ => ?_, fun won => ?_, winner_of_threshold_full o⟩
  · exact candidateOf_ne_zero ((is_candidate n).2 c) zero
  · obtain ⟨wins, first⟩ := winner_precedes_candidate o ((is_candidate n).2 c)
    exact ⟨(is_candidate _).1 wins, first⟩
  · exact (is_candidate _).1 (winner_candidate o won)

end Sys2Proof.Machine

/-! # Set and clear writes of the interrupt controller (R479, R480)

What a manager's write of a SET or CLR register leaves: the bits written 1 change, and the line of target 8 follows, whose vector may
leave. -/

namespace Sys2Proof.Machine

open Slice0 (hubWrote Manages)

/-! ### The line of target 8 (R479) -/

/-- A message of a vector is sent or kept pending. -/
theorem sendMsix_frame (s : State) (v : Nat) :
    ∃ pend out, s.sendMsix v = { s with pci := { s.pci with msixPend := pend }, outbox := out } := by
  unfold State.sendMsix
  dsimp only
  split
  · exact ⟨_, _, rfl⟩
  · exact ⟨s.pci.msixPend, _, rfl⟩

theorem forwardVec_frame (s : State) :
    ∃ pend out, s.forwardVec = { s with pci := { s.pci with msixPend := pend }, outbox := out } := by
  unfold State.forwardVec
  split
  · exact sendMsix_frame s _
  · exact ⟨s.pci.msixPend, s.outbox, rfl⟩

/-- As the line is seen, nothing changes but the line and the forwarded vector. -/
theorem seeLine8_frame (s : State) : ∃ line pend out,
    s.seeLine8 = { s with icu := { s.icu with line8 := line }, pci := { s.pci with msixPend := pend }, outbox := out } := by
  unfold State.seeLine8
  dsimp only
  split
  · obtain ⟨pend, out, sent⟩ := forwardVec_frame { s with icu := { s.icu with line8 := s.notify 8 } }
    exact ⟨_, pend, out, sent⟩
  · exact ⟨_, s.pci.msixPend, s.outbox, rfl⟩

/-! ### The registers (R483) -/

/-- Word w of a row of source bits is a 32-bit register. -/
theorem icuRead_sourceWord (s : State) {k w : Nat} (hk : k < 6) (hw : w < 32) :
    ∃ v, icuRead s (0x4000 + 0x80 * k + 4 * w) = some (false, v) := by
  unfold icuRead
  dsimp only
  rw [if_neg (by omega), if_neg (by omega), if_neg (by omega), if_neg (by omega), if_neg (by omega), if_neg (by omega), if_pos (by omega)]
  exact ⟨_, rfl⟩

/-- Row k of the mask registers holds one of 32 bits for each source but source 0. -/
theorem icuRead_mask (s : State) {k src : Nat} (hk : 1 ≤ k ∧ k ≤ 3) (h0 : src ≠ 0) (hs : src < 1024) :
    ∃ v, icuRead s (0x1000 * k + 4 * src) = some (false, v) := by
  unfold icuRead
  dsimp only
  rw [if_neg (by omega), if_neg (by omega), if_neg (by omega), if_neg (by omega), if_neg (by omega), if_pos (by omega), if_neg (by omega)]
  exact ⟨_, rfl⟩

theorem icuWrite_sourceWord (s : State) {k w : Nat} (v : W64) (hk : k < 6) (hw : w < 32) :
    icuWrite s (0x4000 + 0x80 * k + 4 * w) v = State.seeLine8 { s with icu := { s.icu with swp := pendWord k s.icu.swp w v } } := by
  have row : (0x4000 + 0x80 * k + 4 * w) / 0x80 % 8 = k := by omega
  have word : (0x4000 + 0x80 * k + 4 * w) % 0x80 / 4 = w := by omega
  unfold icuWrite
  dsimp only
  rw [if_neg (by omega), if_neg (by omega), if_neg (by omega), if_neg (by omega), if_pos (by omega), row, word]

theorem icuWrite_mask (s : State) {k src : Nat} (v : W64) (hk : 1 ≤ k ∧ k ≤ 3) (hs : src < 1024) :
    icuWrite s (0x1000 * k + 4 * src) v = State.seeLine8 { s with icu := { s.icu with
      tmask := tset 0 s.icu.tmask src (maskWord k (tget 0 s.icu.tmask src) (v.truncate 10)) } } := by
  have row : (0x1000 * k + 4 * src) / 0x1000 = k := by omega
  have source : (0x1000 * k + 4 * src) % 0x1000 / 4 = src := by omega
  unfold icuWrite
  dsimp only
  rw [if_neg (by omega), if_neg (by omega), if_neg (by omega), if_pos (by omega), row, source]

/-! ### A manager's write (R482) -/

section
variable {s : State} {a : Agent}

theorem manages_mayReach_icu (m : Manages a) (o : Nat) : mayReach a .icu o = true := by
  rcases m with ⟨n, rfl⟩ | rfl <;> rfl

/-- A manager hears the status of its write. -/
theorem tell_write_manages (m : Manages a) (t : State) (status : Nat) :
    (.next ((⟨t, status, []⟩ : Ans).tell a (.write [])) : Host.Outcome State Fault Refusal) = hubWrote a t status := by
  rcases m with ⟨n, rfl⟩ | rfl <;> rfl

theorem hubBlock_icu {o : Nat} (h : o < 0x800000) : hubBlock (0x5000000 + o) = some (.icu, o) := by
  unfold hubBlock
  simp (disch := omega) only [if_neg, if_pos, Nat.add_sub_cancel_left]

/-- A manager's write of a 32-bit register of the controller reaches it and answers OK. -/
theorem put32_icu (m : Manages a) {o : Nat} {v : W32} (ho : o < 0x800000) (h4 : o % 4 = 0) (hr : ∃ x, icuRead s o = some (false, x)) :
    (.next (s.put32 a (0x5000000 + o) v) : Host.Outcome State Fault Refusal) = hubWrote a (icuWrite s o (v.zeroExtend 64)) := by
  obtain ⟨x, hr⟩ := hr
  obtain ⟨not2, not0⟩ : a ≠ .bar2 ∧ a ≠ .bar0 := by rcases m with ⟨n, rfl⟩ | rfl <;> exact ⟨nofun, nofun⟩
  have register : (blockRead s a .icu o).map (·.1) = some false := congrArg (Option.map (·.1)) hr
  rw [put32_eq (by omega) (hubBlock_icu ho) (by omega) register (manages_mayReach_icu m o) rfl not2 (absurd · not0),
    blockWrite_icu, tell_write_manages m]

/-! ### The SET and CLR registers (R480) -/

/-- The 32 bits written, as the register sees them. -/
theorem getLsbD_zeroExtend64 (v : W32) (i : Nat) : (v.zeroExtend 64 : W64).getLsbD i = v.getLsbD i := by
  simp only [BitVec.getLsbD_setWidth, Bool.and_eq_right_iff_imp, decide_eq_true_eq]
  exact fun set => Nat.lt_trans (BitVec.lt_of_getLsbD set) (by decide)

/-- The state after the software pending bits become `m`. -/
def State.pended (s : State) (m : Tab Bool) : State := State.seeLine8 { s with icu := { s.icu with swp := m } }

/-- The state after the mask of source `src` becomes `b`. -/
def State.masked (s : State) (src : Nat) (b : BitVec 10) : State :=
  State.seeLine8 { s with icu := { s.icu with tmask := tset 0 s.icu.tmask src b } }

theorem pended_frame (s : State) (m : Tab Bool) : ∃ line pend out, s.pended m =
    { s with icu := { s.icu with swp := m, line8 := line }, pci := { s.pci with msixPend := pend }, outbox := out } :=
  seeLine8_frame _

theorem masked_frame (s : State) (src : Nat) (b : BitVec 10) : ∃ line pend out, s.masked src b =
    { s with icu := { s.icu with tmask := tset 0 s.icu.tmask src b, line8 := line }, pci := { s.pci with msixPend := pend }, outbox := out } :=
  seeLine8_frame _

/-- A manager's write of word w of row k of the source bits. -/
theorem put32_sourceWord (m : Manages a) (k : Nat) (w : Fin 32) (v : W32) {off : Nat} (at_row : off = 0x5004000 + 0x80 * k + 4 * w.val)
    (hk : k < 6) :
    (.next (s.put32 a off v) : Host.Outcome State Fault Refusal) =
      hubWrote a (s.pended (pendWord k s.icu.swp w.val (v.zeroExtend 64))) := by
  have place : off = 0x5000000 + (0x4000 + 0x80 * k + 4 * w.val) := by omega
  rw [place, put32_icu m (by omega) (by omega) (icuRead_sourceWord s hk w.isLt), icuWrite_sourceWord s _ hk w.isLt]
  rfl

/-- A manager's write of row k of the mask of a source other than 0. -/
theorem put32_mask (m : Manages a) (k : Nat) {src : Fin 1024} (v : W32) {off : Nat} (at_row : off = 0x5000000 + 0x1000 * k + 4 * src.val)
    (hk : 1 ≤ k ∧ k ≤ 3) (h0 : src.val ≠ 0) :
    (.next (s.put32 a off v) : Host.Outcome State Fault Refusal) =
      hubWrote a (s.masked src.val (maskWord k (tget 0 s.icu.tmask src.val) (v.truncate 10))) := by
  have place : off = 0x5000000 + (0x1000 * k + 4 * src.val) := by omega
  rw [place, put32_icu m (by omega) (by omega) (icuRead_mask s hk h0 src.isLt), icuWrite_mask s _ hk src.isLt,
    BitVec.truncate_eq_setWidth, BitVec.zeroExtend_eq_setWidth, BitVec.setWidth_setWidth_of_le v (by decide)]
  rfl

theorem exec_pendset (m : Manages a) (w : Fin 32) (v : W32) :
    exec (.pendset a w v) s = hubWrote a (s.pended (setWordBits s.icu.swp w.val (fun i o => o || v.getLsbD i))) := by
  refine (put32_sourceWord m 3 w v rfl (by decide)).trans ?_
  simp only [pendWord, getLsbD_zeroExtend64]

theorem exec_pendclr (m : Manages a) (w : Fin 32) (v : W32) :
    exec (.pendclr a w v) s = hubWrote a (s.pended (setWordBits s.icu.swp w.val (fun i o => o && !v.getLsbD i))) := by
  refine (put32_sourceWord m 4 w v rfl (by decide)).trans ?_
  simp only [pendWord, getLsbD_zeroExtend64]

theorem exec_tmaskset (m : Manages a) {src : Fin 1024} (h0 : src.val ≠ 0) (v : W32) :
    exec (.tmaskset a src v) s = hubWrote a (s.masked src.val (tget 0 s.icu.tmask src.val ||| v.truncate 10)) :=
  put32_mask m 2 v rfl (by decide) h0

theorem exec_tmaskclr (m : Manages a) {src : Fin 1024} (h0 : src.val ≠ 0) (v : W32) :
    exec (.tmaskclr a src v) s = hubWrote a (s.masked src.val (tget 0 s.icu.tmask src.val &&& ~~~(v.truncate 10))) :=
  put32_mask m 3 v rfl (by decide) h0

end

/-- Settles O53: each SET or CLR register writes its word or mask alone, and then the line of target 8 is seen. -/
theorem setAndClearAliasesChangeBitsWrittenOne : Obligations.SetAndClearAliasesChangeBitsWrittenOne := by
  unfold Obligations.SetAndClearAliasesChangeBitsWrittenOne
  intro s a w src v old wrote m
  have word_written {c : Instr} {q : Tab Bool} (e : exec c s = hubWrote a (s.pended q)) : wrote c { s.icu with swp := q } := by
    obtain ⟨line, pend, out, frame⟩ := pended_frame s q
    exact ⟨line, pend, out, by rw [e, frame]⟩
  have mask_written {c : Instr} {b : BitVec 10} (e : exec c s = hubWrote a (s.masked src.val b)) :
      wrote c { s.icu with tmask := tset 0 s.icu.tmask src.val b } := by
    obtain ⟨line, pend, out, frame⟩ := masked_frame s src.val b
    exact ⟨line, pend, out, by rw [e, frame]⟩
  refine ⟨word_written (exec_pendset m w v), word_written (exec_pendclr m w v), fun h0 _ => ⟨?_, ?_⟩⟩
  · exact mask_written (exec_tmaskset m h0 v)
  · exact mask_written (exec_tmaskclr m h0 v)

end Sys2Proof.Machine

/-! # Steps, the queue and the state after reset -/

namespace Sys2Proof.Machine

/-- Settles O1: the two answers of a step are the two branches of its definition. -/
theorem stepRunsFrontCommand : Obligations.StepRunsFrontCommand := by
  unfold Obligations.StepRunsFrontCommand
  refine ⟨fun s c rest front => ?_, fun s empty => ?_⟩
  · unfold step
    rw [front]
  · unfold step
    rw [empty]

/-- The reset state has nothing in its tables, and its counts are 0. -/
theorem reset_orderly : Orderly State.reset where
  memory := rfl
  layout := by decide
  hamper := by decide
  trace := by decide
  sessions := by decide
  priorities := rfl

/-- Settles O3: in the reset state every table is empty, so that each unit has its own reset values. -/
theorem resetStateIsOrderly : Obligations.ResetStateIsOrderly := by
  unfold Obligations.ResetStateIsOrderly
  refine ⟨reset_orderly, fun t => ⟨rfl, rfl, rfl⟩, fun n => ⟨rfl, rfl⟩, fun k => ⟨rfl, rfl, rfl, rfl, rfl⟩, ?_⟩
  exact ⟨rfl, rfl, rfl, rfl, rfl, rfl, rfl, rfl, rfl, rfl⟩

/-- Settles O4: every command keeps, and what keeps leaves queue and part alone. -/
theorem execKeepsQueueAndPart : Obligations.ExecKeepsQueueAndPart := by
  unfold Obligations.ExecKeepsQueueAndPart
  intro c s t e
  have kept := exec_kept c s t e
  exact ⟨kept.pending, kept.fx⟩

end Sys2Proof.Machine

/-! # The sequencer slot at issue (R302 to R305)

A command of the sequencer slot on a calm tile is the issue of one bundle. The rules of this part say what the cycle around the slot
does, so that each operation below needs only what `Cyc.seqSlot` answers for it. -/

namespace Sys2Proof.Machine

open Sys2Proof.Slice0

/-! ### The cycle around the slot -/

theorem Quiet.nothing_due {x : Tile} (q : Quiet x) : nothingDue x := q.due

theorem issued_work (x : Tile) : SameWork (issued x) x := ⟨rfl, rfl, rfl, rfl, rfl⟩

theorem SameWork.trans {x y z : Tile} (h : SameWork x y) (k : SameWork y z) : SameWork x z := by
  obtain ⟨h1, h2, h3, h4, h5⟩ := h
  obtain ⟨k1, k2, k3, k4, k5⟩ := k
  exact ⟨h1.trans k1, h2.trans k2, h3.trans k3, h4.trans k4, h5.trans k5⟩

/-- Whether a tile is quiet depends on its work in flight alone. -/
theorem SameWork.quiet {x y : Tile} (h : SameWork x y) (q : Quiet y) : Quiet x := by
  obtain ⟨tasks, rets, cyc, -, outs⟩ := h
  exact ⟨by rw [tasks, rets, cyc]; exact q.due, by rw [outs]; exact q.outs⟩

theorem apply_issued_work (o : SeqOut) (x : Tile) : SameWork (o.apply (issued x)) x :=
  (seqOut_apply_work o _).trans (issued_work x)

@[simp] theorem clockTile_cyc (x : Tile) : (clockTile x).cyc = x.cyc + 1 := by
  unfold clockTile
  dsimp only
  split <;> rfl

@[simp] theorem clockTile_outs (x : Tile) : (clockTile x).outs = x.outs := by
  unfold clockTile
  dsimp only
  split <;> rfl

/-- A tile whose clock has moved is not at its reset values. -/
theorem clockTile_ne_reset (x : Tile) : clockTile x ≠ Tile.reset := by
  intro e
  have cyc : (clockTile x).cyc = Tile.reset.cyc := congrArg Tile.cyc e
  rw [clockTile_cyc] at cyc
  exact Nat.succ_ne_zero _ cyc

/-- The work of a quiet tile, when the clock moves in it and it sends no hsig. -/
theorem tileWork_clock {s : State} {t : Nat} {f : TileEnv → Tile → Tile} {y : Tile} (work : f (s.env t) (s.tile t) = clockTile y)
    (outs : y.outs.all TileOut.isPhase = true) : s.tileWork t f = s.setTile t (clockTile y) := by
  rw [tileWork_eq (by rw [work]; exact clockTile_ne_reset y) (by rw [work, clockTile_outs]; exact outs), work]

/-- The bundle of a sequencer operation: the other slots hold NOP. -/
theorem issue_seq (c : Cyc) (op : Nat) (f : SeqF) : c.issue { seq := (op, f) } [] =
    { (c.seqSlot c.t.seqNo c.t.seq.pc.toNat op f).1 with
      t := (c.seqSlot c.t.seqNo c.t.seq.pc.toNat op f).2.apply (issued (c.seqSlot c.t.seqNo c.t.seq.pc.toNat op f).1.t) } := by
  unfold Cyc.issue
  dsimp only
  generalize c.seqSlot c.t.seqNo c.t.seq.pc.toNat op f = r
  obtain ⟨d, o⟩ := r
  cases o <;> rfl

/-- A cycle with nothing in it but the tile ends by the tile's clock, when nothing is due. -/
theorem finish_quiet {e : TileEnv} {y : Tile} (d : nothingDue y) : ((e.cyc y).runTasks).finish = clockTile y := by
  rw [runTasks_none (c := e.cyc y) d.1]
  exact finish_none (c := e.cyc y) d.2 rfl rfl rfl

section
variable {e : TileEnv} {x y : Tile} {op : Nat} {f : SeqF} {out : SeqOut}

theorem issueOps_of_calm (calm : Calm x) (o : BundleOps) (ck : List CheckFail) :
    issueOps e o ck x = (((e.cyc x).issue o ck).runTasks).finish :=
  issueOps_calm calm.noon calm.running calm.may calm.due

/-- An operation that leaves tile `y` with nothing due in this cycle. -/
theorem issueOps_seq (calm : Calm x) (slot : (e.cyc x).seqSlot x.seqNo x.seq.pc.toNat op f = (e.cyc y, out)) (d : nothingDue y) :
    issueOps e { seq := (op, f) } [] x = clockTile (out.apply (issued y)) := by
  have work := apply_issued_work out y
  obtain ⟨tasks, rets, cyc, -, -⟩ := work
  rw [issueOps_of_calm calm, issue_seq]
  have slot' : (e.cyc x).seqSlot (e.cyc x).t.seqNo (e.cyc x).t.seq.pc.toNat op f = (e.cyc y, out) := slot
  rw [slot']
  exact finish_quiet (e := e) (y := out.apply (issued y)) (by unfold nothingDue; rw [tasks, rets, cyc]; exact d)

/-- An operation that retires one result in its issue cycle. -/
theorem issueOps_seq_ret (calm : Calm x) {k : Task} {a : RAct}
    (slot : (e.cyc x).seqSlot x.seqNo x.seq.pc.toNat op f = ((e.cyc x).ret k x.cyc a, .go)) :
    issueOps e { seq := (op, f) } [] x = clockTile (applyRet (goOn (issued x)) a) := by
  have slot' : (e.cyc x).seqSlot (e.cyc x).t.seqNo (e.cyc x).t.seq.pc.toNat op f = ((e.cyc x).ret k x.cyc a, .go) := slot
  rw [issueOps_of_calm calm, issue_seq, slot']
  rw [runTasks_none (by exact calm.due.1), finish_one (l := x.rets) (r := ⟨x.cyc, k.slot, k.seq, k.pc, a⟩) rfl (by exact calm.due.2)
    (Nat.le_refl _) rfl rfl rfl]
  rfl

end

section
variable {s : State} {t : TileIx} {op : Nat} {f : SeqF} {y : Tile} {out : SeqOut}

/-- A command of the sequencer slot on a calm tile whose operation leaves tile `y`. -/
theorem seqOp_slot (calm : Calm (s.tile t.val))
    (slot : ((s.env t.val).cyc (s.tile t.val)).seqSlot (s.tile t.val).seqNo (s.tile t.val).seq.pc.toNat op f = ((s.env t.val).cyc y, out))
    (quiet : Quiet y) : .next (s.seqOp t op f) = tileNext s t (clockTile (out.apply (issued y))) :=
  congrArg _ (tileWork_clock (issueOps_seq calm slot quiet.due) ((apply_issued_work out y).quiet quiet).outs)

/-- The same for an operation that leaves the tile as it is. -/
theorem seqOp_out (calm : Calm (s.tile t.val))
    (slot : ((s.env t.val).cyc (s.tile t.val)).seqSlot (s.tile t.val).seqNo (s.tile t.val).seq.pc.toNat op f =
      ((s.env t.val).cyc (s.tile t.val), out)) :
    .next (s.seqOp t op f) = tileNext s t (clockTile (out.apply (issued (s.tile t.val)))) :=
  seqOp_slot calm slot calm.toQuiet

/-- A command of the sequencer slot on a calm tile whose operation retires one result in its issue cycle. -/
theorem seqOp_ret (calm : Calm (s.tile t.val)) {k : Task} {a : RAct}
    (slot : ((s.env t.val).cyc (s.tile t.val)).seqSlot (s.tile t.val).seqNo (s.tile t.val).seq.pc.toNat op f =
      (((s.env t.val).cyc (s.tile t.val)).ret k (s.tile t.val).cyc a, .go))
    (outs : (applyRet (goOn (issued (s.tile t.val))) a).outs = (s.tile t.val).outs) :
    .next (s.seqOp t op f) = tileNext s t (clockTile (applyRet (goOn (issued (s.tile t.val))) a)) :=
  congrArg _ (tileWork_clock (issueOps_seq_ret calm slot) (by rw [outs]; exact calm.outs))

end

/-! ### Operands -/

section
variable {c : Cyc} {f : SeqF} {v : W64} {go : W64 → Cyc × SeqOut} {r : Cyc × SeqOut}

theorem withA_ok (h : readSrc c.t f.a.toNat f.imm = .ok v) : c.withA f go = go v := by
  unfold Cyc.withA
  rw [h]

theorem withB_ok (h : readSrc c.t f.b.toNat f.imm = .ok v) : c.withB f go = go v := by
  unfold Cyc.withB
  rw [h]

theorem withA_reserved (h : srcOperand c.t f.a.toNat f.imm = none) : c.withA f go = (c, .reserved) := by
  unfold Cyc.withA
  rw [readSrc_none h]

theorem withB_reserved (h : srcOperand c.t f.b.toNat f.imm = none) : c.withB f go = (c, .reserved) := by
  unfold Cyc.withB
  rw [readSrc_none h]

theorem withD_ok (h : dstKind f.d.toNat ≠ .trap) : c.withD f r = r := if_neg h

theorem withD_trap (h : dstKind f.d.toNat = .trap) : c.withD f r = (c, .reserved) := if_pos h

/-- When the operation itself ends reserved, operand d does not matter. -/
theorem withD_reserved : c.withD f (c, .reserved) = (c, .reserved) := ite_self _

end

/-! ### What the slot answers, operation by operation (R303) -/

section
variable {c : Cyc} {sq pc op : Nat} {f : SeqF} (h : c.t.seq.chk = false)
include h

theorem seqSlot_alu (lo : 0x10 ≤ op) (hi : op ≤ 0x1D) :
    c.seqSlot sq pc op f = c.seqAlu ⟨c.t.cyc, 0, 0, sq, pc, .dzRec⟩ op f := by
  unfold Cyc.seqSlot
  dsimp only
  rw [noteSeq_off h]
  exact if_pos ⟨lo, hi⟩

theorem seqSlot_halt : c.seqSlot sq pc 1 f = (c, .halt none false false) := by
  unfold Cyc.seqSlot
  dsimp only
  rw [noteSeq_off h]
  rfl

theorem seqSlot_trap : c.seqSlot sq pc 2 f = (c, .halt (some (f.imm.signExtend 32)) false true) := by
  unfold Cyc.seqSlot
  dsimp only
  rw [noteSeq_off h]
  rfl

theorem seqSlot_movh : c.seqSlot sq pc 0x1E f = c.withD f (c.withA f fun x =>
    (c.seqDst ⟨c.t.cyc, 0, 0, sq, pc, .dzRec⟩ f.d.toNat 1 ((f.imm.signExtend 64 <<< 24) + (x &&& 0xFFFFFF#64)), .go)) := by
  unfold Cyc.seqSlot
  dsimp only
  rw [noteSeq_off h]
  rfl

theorem seqSlot_rdid : c.seqSlot sq pc 0x1F f =
    c.withD f (c.seqDst ⟨c.t.cyc, 0, 0, sq, pc, .dzRec⟩ f.d.toNat 1 (c.idReg.zeroExtend 64), .go) := by
  unfold Cyc.seqSlot
  dsimp only
  rw [noteSeq_off h]
  rfl

theorem seqSlot_ld : c.seqSlot sq pc 0x20 f = c.seqLd ⟨c.t.cyc, 0, 0, sq, pc, .dzRec⟩ f := by
  unfold Cyc.seqSlot
  dsimp only
  rw [noteSeq_off h]
  rfl

theorem seqSlot_st : c.seqSlot sq pc 0x21 f = c.seqSt ⟨c.t.cyc, 0, 0, sq, pc, .dzRec⟩ f := by
  unfold Cyc.seqSlot
  dsimp only
  rw [noteSeq_off h]
  rfl

theorem seqSlot_br : c.seqSlot sq pc 0x30 f = (c, .jump (f.imm.toNat % 2048)) := by
  unfold Cyc.seqSlot
  dsimp only
  rw [noteSeq_off h]
  rfl

theorem seqSlot_bcc : c.seqSlot sq pc 0x31 f = c.seqBcc f := by
  unfold Cyc.seqSlot
  dsimp only
  rw [noteSeq_off h]
  rfl

theorem seqSlot_bcnd : c.seqSlot sq pc 0x32 f = (c, if cond c.t (f.sub.toNat % 4) then .jump (f.imm.toNat % 2048) else .go) := by
  unfold Cyc.seqSlot
  dsimp only
  rw [noteSeq_off h]
  rfl

theorem seqSlot_loop : c.seqSlot sq pc 0x38 f = c.seqLoop pc f := by
  unfold Cyc.seqSlot
  dsimp only
  rw [noteSeq_off h]
  rfl

theorem seqSlot_wait : c.seqSlot sq pc 0x40 f = c.seqWaitFor (.comparator (cmpOf f)) := by
  unfold Cyc.seqSlot
  dsimp only
  rw [noteSeq_off h]
  rfl

theorem seqSlot_cmpset : c.seqSlot sq pc 0x41 f = c.seqCmpset ⟨c.t.cyc, 0, 0, sq, pc, .dzRec⟩ f := by
  unfold Cyc.seqSlot
  dsimp only
  rw [noteSeq_off h]
  rfl

theorem seqSlot_evset : c.seqSlot sq pc 0x42 f =
    c.withD f (c.withB f fun y => (c.seqDst ⟨c.t.cyc, 0, 0, sq, pc, .dzRec⟩ f.d.toNat 1 y, .go)) := by
  unfold Cyc.seqSlot
  dsimp only
  rw [noteSeq_off h]
  rfl

theorem seqSlot_evadd : c.seqSlot sq pc 0x43 f = c.seqEvadd ⟨c.t.cyc, 0, 0, sq, pc, .dzRec⟩ f := by
  unfold Cyc.seqSlot
  dsimp only
  rw [noteSeq_off h]
  rfl

theorem seqSlot_sig : c.seqSlot sq pc 0x48 f = c.seqSig f := by
  unfold Cyc.seqSlot
  dsimp only
  rw [noteSeq_off h]
  rfl

theorem seqSlot_hsig : c.seqSlot sq pc 0x49 f =
    c.withA f fun x => ({ c with t := { c.t with outs := c.t.outs ++ [.hsig (f.imm.truncate 16) x] } }, .go) := by
  unfold Cyc.seqSlot
  dsimp only
  rw [noteSeq_off h]
  rfl

theorem seqSlot_fence : c.seqSlot sq pc 0x4A f = c.seqWaitFor .fence := by
  unfold Cyc.seqSlot
  dsimp only
  rw [noteSeq_off h]
  rfl

theorem seqSlot_phase : c.seqSlot sq pc 0x50 f =
    ({ c with t := phaseOp c.t ⟨f.imm.toNat / 2 ^ 16 % 8, Nat.mod_lt _ (by decide)⟩ f.imm[19] (f.imm.truncate 16) }, .go) := by
  unfold Cyc.seqSlot
  dsimp only
  rw [noteSeq_off h]
  rfl

end

end Sys2Proof.Machine

/-! # The commands of the sequencer slot (R302 to R305, R311, R312) -/

namespace Sys2Proof.Machine

open Sys2Proof.Slice0

/-! ### Results on their way to a destination -/

/-- A result retires in the issue cycle, or the write of a loop counter is ignored: either way the tile holds it after the bundle. -/
theorem applyRet_sreg {x : Tile} {d : Nat} (v : W64) (reg : dstKind d = .reg) :
    applyRet (goOn (issued x)) (.sreg d v) = goOn (issued (withDst x d v)) := by
  by_cases scalar : d < 0x10
  · simp only [applyRet, withDst, reg, if_pos scalar]
    rfl
  · have counter : 0x60 ≤ d ∧ d < 0x70 := by
      unfold dstKind at reg
      simp only [if_neg scalar] at reg
      split at reg
      · cases reg
      · split at reg
        · next c => exact c
        · cases reg
    simp only [applyRet, withDst, reg, if_neg scalar, if_pos counter]
    rfl

theorem withDst_loopCounter {x : Tile} {d : Nat} {v : W64} (h : dstKind d = .loopCounter) : withDst x d v = lwrSet x := by
  unfold withDst
  rw [h]

theorem dstKind_cases {d : Nat} (h : dstKind d ≠ .trap) : dstKind d = .reg ∨ dstKind d = .loopCounter := by
  cases e : dstKind d with
  | reg => exact .inl rfl
  | loopCounter => exact .inr rfl
  | trap => exact absurd e h

section
variable {s : State} {t : TileIx} {f : SeqF} {a b v : W64} {op : Nat}

/-- An operation whose result goes to destination d in the issue cycle. -/
theorem seqOp_dst (calm : Calm (s.tile t.val)) (valid : dstKind f.d.toNat ≠ .trap) {k : Task}
    (slot : ((s.env t.val).cyc (s.tile t.val)).seqSlot (s.tile t.val).seqNo (s.tile t.val).seq.pc.toNat op f =
      (((s.env t.val).cyc (s.tile t.val)).seqDst k f.d.toNat 1 v, .go)) :
    .next (s.seqOp t op f) = tileNext s t (after (withDst (s.tile t.val) f.d.toNat v)) := by
  rcases dstKind_cases valid with reg | loopCounter
  · rw [seqDst_reg (by exact calm.unchecked) reg] at slot
    rw [seqOp_ret calm slot (by rw [applyRet_sreg v reg]; unfold withDst; rw [reg]; dsimp only; split <;> rfl), applyRet_sreg v reg]
    rfl
  · rw [seqDst_loop (by exact calm.unchecked) loopCounter] at slot
    rw [seqOp_slot (y := lwrSet (s.tile t.val)) calm slot ⟨calm.due, calm.outs⟩, withDst_loopCounter loopCounter]
    rfl

/-- A halt of the bundle with a trap code. -/
theorem apply_trap (x : Tile) (v : W32) : clockTile ((SeqOut.halt (some v) false true).apply (issued x)) = trapped x v := by
  simp only [SeqOut.apply, haltAt, haltWith, haltSeq, Bool.or_false, Bool.or_true, Option.getD_some, Option.isSome_some]
  rfl

/-- A reserved operation, operand or destination. -/
theorem seqOp_reserved (calm : Calm (s.tile t.val))
    (slot : ((s.env t.val).cyc (s.tile t.val)).seqSlot (s.tile t.val).seqNo (s.tile t.val).seq.pc.toNat op f =
      ((s.env t.val).cyc (s.tile t.val), .reserved)) :
    .next (s.seqOp t op f) = tileNext s t (trapped (s.tile t.val) 0xFFFF0002#32) := by
  rw [seqOp_out calm slot, SeqOut.reserved, apply_trap]

end

/-! ### The scalar operations -/

/-- Each two-operand command issues the operation code of its value in the table of R303. -/
theorem exec_scalarOp {p : (TileIx → SeqF → Instr) × (W64 → W64 → W64)} (h : p ∈ scalarOps) :
    ∃ n, 0x11 ≤ n ∧ n ≤ 0x1D ∧ n ≠ 0x13 ∧ sop (n - 0x10) = p.2 ∧ ∀ t f s, exec (p.1 t f) s = .next (s.seqOp t n f) := by
  simp only [scalarOps, List.mem_cons, List.not_mem_nil, or_false] at h
  rcases h with rfl | rfl | rfl | rfl | rfl | rfl | rfl | rfl | rfl | rfl | rfl | rfl
  · exact ⟨0x11, by decide, by decide, by decide, rfl, fun _ _ _ => rfl⟩
  · exact ⟨0x12, by decide, by decide, by decide, rfl, fun _ _ _ => rfl⟩
  · exact ⟨0x14, by decide, by decide, by decide, rfl, fun _ _ _ => rfl⟩
  · exact ⟨0x15, by decide, by decide, by decide, rfl, fun _ _ _ => rfl⟩
  · exact ⟨0x16, by decide, by decide, by decide, rfl, fun _ _ _ => rfl⟩
  · exact ⟨0x17, by decide, by decide, by decide, rfl, fun _ _ _ => rfl⟩
  · exact ⟨0x18, by decide, by decide, by decide, rfl, fun _ _ _ => rfl⟩
  · exact ⟨0x19, by decide, by decide, by decide, rfl, fun _ _ _ => rfl⟩
  · exact ⟨0x1A, by decide, by decide, by decide, rfl, fun _ _ _ => rfl⟩
  · exact ⟨0x1B, by decide, by decide, by decide, rfl, fun _ _ _ => rfl⟩
  · exact ⟨0x1C, by decide, by decide, by decide, rfl, fun _ _ _ => rfl⟩
  · exact ⟨0x1D, by decide, by decide, by decide, rfl, fun _ _ _ => rfl⟩

section
variable {c : Cyc} {k : Task} {f : SeqF} {a b : W64} {op : Nat}

theorem seqAlu_two (lo : op ≠ 0x10) (valid : dstKind f.d.toNat ≠ .trap) (ha : readSrc c.t f.a.toNat f.imm = .ok a)
    (hb : readSrc c.t f.b.toNat f.imm = .ok b) :
    c.seqAlu k op f = (c.seqDst k f.d.toNat (if op = 0x13 then 3 else 1) (sop (op - 0x10) a b), .go) := by
  unfold Cyc.seqAlu
  dsimp only
  rw [withD_ok valid, if_neg lo, withA_ok ha, withB_ok hb]

theorem seqAlu_mov (valid : dstKind f.d.toNat ≠ .trap) (hb : readSrc c.t f.b.toNat f.imm = .ok b) :
    c.seqAlu k 0x10 f = (c.seqDst k f.d.toNat 1 b, .go) := by
  unfold Cyc.seqAlu
  dsimp only
  rw [withD_ok valid, if_pos rfl, withB_ok hb]
  rfl

/-- What evadd gives when d is a scalar register or a loop counter. -/
theorem seqEvadd_register (valid : dstKind f.d.toNat ≠ .trap) (hb : readSrc c.t f.b.toNat f.imm = .ok b) (low : f.d.toNat < 0x60) :
    c.seqEvadd k f = (c.seqDst k f.d.toNat 1 ((srcOperand c.t f.d.toNat f.imm).getD 0 + b), .go) := by
  unfold Cyc.seqEvadd
  dsimp only
  rw [withD_ok valid, withB_ok hb, if_neg (by omega)]

theorem seqEvadd_counter (valid : dstKind f.d.toNat ≠ .trap) (hb : readSrc c.t f.b.toNat f.imm = .ok b) (high : 0x60 ≤ f.d.toNat) :
    c.seqEvadd k f = (c.ret k c.t.cyc (.evAdd (f.d.toNat - 0x60) (b.truncate 32)), .go) := by
  unfold Cyc.seqEvadd
  dsimp only
  rw [withD_ok valid, withB_ok hb, if_pos high]

end

/-- EVADD adds to an event counter, or to a scalar register; of a loop counter neither the sum nor what it is made of matters. -/
theorem exec_evadd {s : State} {t : TileIx} {f : SeqF} {b : W64} (calm : Calm (s.tile t.val)) (valid : dstKind f.d.toNat ≠ .trap)
    (hb : readSrc (s.tile t.val) f.b.toNat f.imm = .ok b) :
    exec (.evadd t f) s = tileNext s t (after (if 0x60 ≤ f.d.toNat then evInc (s.tile t.val) (f.d.toNat - 0x60) (b.truncate 32)
      else withDst (s.tile t.val) f.d.toNat (scalarOf (s.tile t.val) f.d.toNat + b))) := by
  have slot := seqSlot_evadd (c := (s.env t.val).cyc (s.tile t.val)) (sq := (s.tile t.val).seqNo)
    (pc := (s.tile t.val).seq.pc.toNat) (f := f) calm.unchecked
  by_cases high : 0x60 ≤ f.d.toNat
  · rw [if_pos high]
    exact seqOp_ret calm (slot.trans (seqEvadd_counter valid hb high)) rfl
  · rw [if_neg high]
    have sum := seqOp_dst calm valid (slot.trans (seqEvadd_register valid hb (by omega)))
    refine sum.trans ?_
    rcases dstKind_cases valid with reg | loopCounter
    · have scalar : f.d.toNat < 0x10 := by
        by_contra no
        unfold dstKind at reg
        simp only [if_neg no, if_neg (show ¬ (0x60 ≤ f.d.toNat ∧ f.d.toNat < 0x70) by omega)] at reg
        split at reg <;> cases reg
      have operand : srcOperand (s.tile t.val) f.d.toNat f.imm = some (scalarOf (s.tile t.val) f.d.toNat) := if_pos scalar
      have operand' : srcOperand ((s.env t.val).cyc (s.tile t.val)).t f.d.toNat f.imm = some (scalarOf (s.tile t.val) f.d.toNat) := operand
      rw [operand']
      rfl
    · rw [withDst_loopCounter loopCounter, withDst_loopCounter loopCounter]

/-- Settles O5: each operation's result is on its way to d, and retires in the issue cycle. -/
theorem scalarOperationsGiveTheirValue : Obligations.ScalarOperationsGiveTheirValue := by
  unfold Obligations.ScalarOperationsGiveTheirValue
  refine ⟨fun s t f a b p hp calm ha hb valid => ?_, fun s t f a b => ?_⟩
  · obtain ⟨n, lo, hi, notMul, value, code⟩ := exec_scalarOp hp
    rw [code, ← value]
    have slot := (seqSlot_alu (c := (s.env t.val).cyc (s.tile t.val)) (sq := (s.tile t.val).seqNo) (pc := (s.tile t.val).seq.pc.toNat)
      (f := f) calm.unchecked (by omega) hi).trans (seqAlu_two (by omega) valid ha hb)
    rw [if_neg notMul] at slot
    exact seqOp_dst calm valid slot
  · intro x d calm valid
    refine ⟨fun hb => ?_, fun hb => ?_, fun ha => ?_, ?_, exec_evadd calm valid⟩
    · exact seqOp_dst calm valid ((seqSlot_alu calm.unchecked (by decide) (by decide)).trans (seqAlu_mov valid hb))
    · exact seqOp_dst calm valid ((seqSlot_evset calm.unchecked).trans ((withD_ok valid).trans (withB_ok hb)))
    · exact seqOp_dst calm valid ((seqSlot_movh calm.unchecked).trans ((withD_ok valid).trans (withA_ok ha)))
    · exact seqOp_dst calm valid ((seqSlot_rdid calm.unchecked).trans (withD_ok valid))

/-! ### Reserved codes (R302, R550) -/

/-- Operation `n` of the sequencer slot answers reserved on tile `x` with the fields `f`. -/
def ReservedOn (x : Tile) (f : SeqF) (n : Nat) : Prop := ∀ (c : Cyc) (sq pc : Nat), c.t = x → c.seqSlot sq pc n f = (c, .reserved)

/-- Commands whose operation code answers reserved trap. -/
theorem trap_of_reservedOn {s : State} {t : TileIx} {f : SeqF} {p : TileIx → SeqF → Instr} (calm : Calm (s.tile t.val))
    (h : ∃ n, ReservedOn (s.tile t.val) f n ∧ exec (p t f) s = .next (s.seqOp t n f)) :
    exec (p t f) s = tileNext s t (trapped (s.tile t.val) 0xFFFF0002#32) := by
  obtain ⟨n, reserved, code⟩ := h
  rw [code]
  exact seqOp_reserved calm (reserved _ _ _ rfl)

section
variable {x : Tile} {f : SeqF} {n : Nat} (h : x.seq.chk = false)
include h

theorem reserved_alu (lo : 0x10 ≤ n) (hi : n ≤ 0x1D)
    (bad : dstKind f.d.toNat = .trap ∨ (n ≠ 0x10 ∧ srcOperand x f.a.toNat f.imm = none) ∨
      ((∃ a, readSrc x f.a.toNat f.imm = .ok a) ∨ n = 0x10) ∧ srcOperand x f.b.toNat f.imm = none) : ReservedOn x f n := by
  rintro c sq pc rfl
  rw [seqSlot_alu h lo hi]
  unfold Cyc.seqAlu
  dsimp only
  rcases bad with d | ⟨two, a⟩ | ⟨⟨a, ha⟩ | rfl, b⟩
  · exact withD_trap d
  · rw [if_neg two, withA_reserved a, withD_reserved]
  · by_cases one : n = 0x10
    · rw [if_pos one, withB_reserved b, withD_reserved]
    · rw [if_neg one, withA_ok ha, withB_reserved b, withD_reserved]
  · rw [if_pos rfl, withB_reserved b, withD_reserved]

theorem reserved_movh (bad : dstKind f.d.toNat = .trap ∨ srcOperand x f.a.toNat f.imm = none) : ReservedOn x f 0x1E := by
  rintro c sq pc rfl
  rw [seqSlot_movh h]
  rcases bad with d | a
  · exact withD_trap d
  · rw [withA_reserved a, withD_reserved]

theorem reserved_rdid (d : dstKind f.d.toNat = .trap) : ReservedOn x f 0x1F := by
  rintro c sq pc rfl
  rw [seqSlot_rdid h, withD_trap d]

theorem reserved_evset (bad : dstKind f.d.toNat = .trap ∨ srcOperand x f.b.toNat f.imm = none) : ReservedOn x f 0x42 := by
  rintro c sq pc rfl
  rw [seqSlot_evset h]
  rcases bad with d | b
  · exact withD_trap d
  · rw [withB_reserved b, withD_reserved]

theorem reserved_evadd (bad : dstKind f.d.toNat = .trap ∨ srcOperand x f.b.toNat f.imm = none) : ReservedOn x f 0x43 := by
  rintro c sq pc rfl
  rw [seqSlot_evadd h]
  unfold Cyc.seqEvadd
  dsimp only
  rcases bad with d | b
  · exact withD_trap d
  · rw [withB_reserved b, withD_reserved]

theorem reserved_ld (bad : dstKind f.d.toNat = .trap ∨ srcOperand x f.a.toNat f.imm = none) : ReservedOn x f 0x20 := by
  rintro c sq pc rfl
  rw [seqSlot_ld h]
  unfold Cyc.seqLd
  dsimp only
  rcases bad with d | a
  · exact withD_trap d
  · rw [withA_reserved a, withD_reserved]

theorem reserved_st (bad : srcOperand x f.a.toNat f.imm = none ∨
    (∃ a, readSrc x f.a.toNat f.imm = .ok a) ∧ srcOperand x f.b.toNat f.imm = none) : ReservedOn x f 0x21 := by
  rintro c sq pc rfl
  rw [seqSlot_st h]
  unfold Cyc.seqSt
  rcases bad with a | ⟨⟨a, ha⟩, b⟩
  · exact withA_reserved a
  · rw [withA_ok ha, withB_reserved b]

theorem reserved_hsig (a : srcOperand x f.a.toNat f.imm = none) : ReservedOn x f 0x49 := by
  rintro c sq pc rfl
  rw [seqSlot_hsig h, withA_reserved a]

end

/-- The two-operand commands have the operation codes of R303. -/
theorem exec_scalarOp_code {q : TileIx → SeqF → Instr} (h : q ∈ scalarOps.map (·.1)) :
    ∃ n, 0x10 ≤ n ∧ n ≤ 0x1D ∧ n ≠ 0x10 ∧ ∀ t f s, exec (q t f) s = .next (s.seqOp t n f) := by
  obtain ⟨p, hp, rfl⟩ := List.mem_map.1 h
  obtain ⟨n, lo, hi, -, -, code⟩ := exec_scalarOp hp
  exact ⟨n, by omega, hi, by omega, code⟩

/-- Settles O6: each operation looks at d, then at a, then at b, and stops at the first reserved code. -/
theorem reservedOperandsTrap : Obligations.ReservedOperandsTrap := by
  unfold Obligations.ReservedOperandsTrap
  intro s t f x calm
  have un := calm.unchecked
  refine ⟨fun d p hp => trap_of_reservedOn calm ?_, fun a p hp => trap_of_reservedOn calm ?_, fun ha b p hp => trap_of_reservedOn calm ?_⟩
  · rcases List.mem_append.1 hp with scalar | other
    · obtain ⟨n, lo, hi, -, code⟩ := exec_scalarOp_code scalar
      exact ⟨n, reserved_alu un lo hi (.inl d), code t f s⟩
    · simp only [List.mem_cons, List.not_mem_nil, or_false] at other
      rcases other with rfl | rfl | rfl | rfl | rfl | rfl | rfl
      · exact ⟨0x13, reserved_alu un (by decide) (by decide) (.inl d), rfl⟩
      · exact ⟨0x10, reserved_alu un (by decide) (by decide) (.inl d), rfl⟩
      · exact ⟨0x1E, reserved_movh un (.inl d), rfl⟩
      · exact ⟨0x1F, reserved_rdid un d, rfl⟩
      · exact ⟨0x42, reserved_evset un (.inl d), rfl⟩
      · exact ⟨0x43, reserved_evadd un (.inl d), rfl⟩
      · exact ⟨0x20, reserved_ld un (.inl d), rfl⟩
  · rcases List.mem_append.1 hp with scalar | other
    · obtain ⟨n, lo, hi, two, code⟩ := exec_scalarOp_code scalar
      exact ⟨n, reserved_alu un lo hi (.inr (.inl ⟨two, a⟩)), code t f s⟩
    · simp only [List.mem_cons, List.not_mem_nil, or_false] at other
      rcases other with rfl | rfl | rfl | rfl | rfl
      · exact ⟨0x13, reserved_alu un (by decide) (by decide) (.inr (.inl ⟨by decide, a⟩)), rfl⟩
      · exact ⟨0x1E, reserved_movh un (.inr a), rfl⟩
      · exact ⟨0x20, reserved_ld un (.inr a), rfl⟩
      · exact ⟨0x21, reserved_st un (.inl a), rfl⟩
      · exact ⟨0x49, reserved_hsig un a, rfl⟩
  · rcases List.mem_append.1 hp with scalar | other
    · obtain ⟨n, lo, hi, -, code⟩ := exec_scalarOp_code scalar
      exact ⟨n, reserved_alu un lo hi (.inr (.inr ⟨.inl ha, b⟩)), code t f s⟩
    · simp only [List.mem_cons, List.not_mem_nil, or_false] at other
      rcases other with rfl | rfl | rfl | rfl | rfl
      · exact ⟨0x13, reserved_alu un (by decide) (by decide) (.inr (.inr ⟨.inl ha, b⟩)), rfl⟩
      · exact ⟨0x10, reserved_alu un (by decide) (by decide) (.inr (.inr ⟨.inr rfl, b⟩)), rfl⟩
      · exact ⟨0x42, reserved_evset un (.inr b), rfl⟩
      · exact ⟨0x43, reserved_evadd un (.inr b), rfl⟩
      · exact ⟨0x21, reserved_st un (.inr ⟨ha, b⟩), rfl⟩

end Sys2Proof.Machine

/-! # Products, halts, branches, loops, loads and stores -/

namespace Sys2Proof.Machine

open Sys2Proof.Slice0

/-- Work added for later cycles leaves a tile quiet. -/
theorem inFlight_quiet {x : Tile} {k : List Task} {r : List Ret} (q : Quiet x) (hk : ∀ z ∈ k, x.cyc < z.at_) (hr : ∀ z ∈ r, x.cyc < z.at_) :
    Quiet (inFlight x k r) where
  due := by
    obtain ⟨tasks, rets⟩ := q.due
    refine ⟨fun z hz => ?_, fun z hz => ?_⟩
    · rcases List.mem_append.1 hz with h | h
      · exact tasks z h
      · exact hk z h
    · rcases List.mem_append.1 hz with h | h
      · exact rets z h
      · exact hr z h
  outs := q.outs

/-- Settles O7: the product is on its way for two cycles more. -/
theorem productRetiresInThirdCycle : Obligations.ProductRetiresInThirdCycle := by
  unfold Obligations.ProductRetiresInThirdCycle
  intro s t f a b x calm ha hb
  have valid (h : dstKind f.d.toNat = .reg ∨ dstKind f.d.toNat = .loopCounter) : dstKind f.d.toNat ≠ .trap := by
    rcases h with h | h <;> rw [h] <;> decide
  have slot := fun v => (seqSlot_alu (c := (s.env t.val).cyc x) (sq := x.seqNo) (pc := x.seq.pc.toNat) (f := f) (op := 0x13)
    calm.unchecked (by decide) (by decide)).trans (seqAlu_two (by decide) (valid v) ha hb)
  refine ⟨fun reg => ?_, fun loopCounter => ?_⟩
  · have slot := slot (.inl reg)
    rw [if_pos rfl, seqDst_reg calm.unchecked reg] at slot
    exact seqOp_slot calm (y := inFlight x [] [⟨x.cyc + 2, 0, x.seqNo, x.seq.pc.toNat, .sreg f.d.toNat (a * b)⟩])
      (slot.trans (by simp only [TileEnv.cyc, inFlight, List.append_nil]; rfl))
      (inFlight_quiet calm.toQuiet (by simp) (by simp))
  · have slot := slot (.inr loopCounter)
    rw [if_pos rfl, seqDst_loop calm.unchecked loopCounter] at slot
    exact seqOp_slot calm (y := lwrSet x) slot ⟨calm.due, calm.outs⟩

/-- Settles O8: HALT and TRAP stop the sequencer as they issue. -/
theorem haltAndTrapStopIssue : Obligations.HaltAndTrapStopIssue := by
  unfold Obligations.HaltAndTrapStopIssue
  intro s t f calm
  refine ⟨?_, ?_⟩
  · refine (seqOp_out calm (seqSlot_halt calm.unchecked)).trans (congrArg (tileNext s t) (congrArg clockTile ?_))
    simp only [SeqOut.apply, haltAt, haltWith, haltSeq, Bool.or_false, Option.getD_none, Option.isSome_none]
    rfl
  · exact (seqOp_out calm (seqSlot_trap calm.unchecked)).trans (congrArg (tileNext s t) (apply_trap _ _))

/-! ### Branches -/

section
variable {s : State} {t : TileIx} {f : SeqF} {op : Nat}

theorem clock_jump (x : Tile) (n : Nat) : clockTile ((SeqOut.jump n).apply (issued x)) = jumped x n := rfl

theorem clock_go (x : Tile) : clockTile (SeqOut.go.apply (issued x)) = after x := rfl

/-- A branch jumps or goes on. -/
theorem seqOp_branch (calm : Calm (s.tile t.val)) {n : Nat} {b : Bool}
    (slot : ((s.env t.val).cyc (s.tile t.val)).seqSlot (s.tile t.val).seqNo (s.tile t.val).seq.pc.toNat op f =
      ((s.env t.val).cyc (s.tile t.val), if b then .jump n else .go)) :
    .next (s.seqOp t op f) = tileNext s t (if b then jumped (s.tile t.val) n else after (s.tile t.val)) := by
  rw [seqOp_out calm slot]
  cases b
  · exact congrArg _ (clock_go _)
  · exact congrArg _ (clock_jump _ _)

end

theorem seqBcc_reserved {c : Cyc} {f : SeqF} (bad : 5 < f.sub.toNat ∨ 2 < f.d.toNat) : c.seqBcc f = (c, .reserved) := if_pos bad

theorem seqBcc_compares {c : Cyc} {f : SeqF} {a b : W64} (relation : f.sub.toNat ≤ 5) (kind : f.d.toNat ≤ 2)
    (ha : readSrc c.t f.a.toNat f.imm = .ok a) (hb : readSrc c.t f.b.toNat f.imm = .ok b) :
    c.seqBcc f = (c, if bccHolds f.d.toNat f.sub.toNat a b then .jump (f.imm.toNat % 2048) else .go) := by
  unfold Cyc.seqBcc
  rw [if_neg (by omega), withA_ok ha, withB_ok hb]

/-- Settles O9: each branch answers a jump or goes on. -/
theorem branchesJumpOnTheirCondition : Obligations.BranchesJumpOnTheirCondition := by
  unfold Obligations.BranchesJumpOnTheirCondition
  intro s t f a b x dest calm
  refine ⟨?_, ?_, fun bad => ?_, fun relation kind ha hb => ?_⟩
  · exact (seqOp_out calm (seqSlot_br calm.unchecked)).trans (congrArg _ (clock_jump _ _))
  · exact seqOp_branch calm (seqSlot_bcnd calm.unchecked)
  · exact seqOp_reserved calm ((seqSlot_bcc calm.unchecked).trans (seqBcc_reserved bad))
  · exact seqOp_branch calm ((seqSlot_bcc calm.unchecked).trans (seqBcc_compares relation kind ha hb))

/-! ### Loops (R311, R312) -/

section
variable {c : Cyc} {pc : Nat} {f : SeqF} (counter : 0x58 ≤ f.d.toNat) (counter' : f.d.toNat < 0x5C) (after_ : pc < f.imm.toNat % 2048)
  (operand : f.a.toNat < 0x50 ∨ f.a.toNat = 0x7F)
include counter counter' after_ operand

theorem loop_wellFormed : (!(0x58 ≤ f.d.toNat && f.d.toNat < 0x5C) || f.imm.toNat % 2048 ≤ pc || !(f.a.toNat < 0x50 || f.a.toNat = 0x7F)) = false := by
  rcases operand with low | imm
  · simp [counter, counter', after_, low]
  · simp [counter, counter', after_, imm]

/-- A LOOP on a live counter sets lwr. -/
theorem seqLoop_live (un : c.t.seq.chk = false) (live : c.t.seq.loops.any (·.k = f.d.toNat - 0x58) = true) :
    c.seqLoop pc f = ({ c with t := hazSet c.t 4#32 }, .go) := by
  unfold Cyc.seqLoop
  dsimp only
  rw [loop_wellFormed counter counter' after_ operand, if_neg (by decide), if_pos live, event_off (by exact un)]

/-- A LOOP of a free counter takes its count and opens, or skips the body. -/
theorem seqLoop_free (free : c.t.seq.loops.any (·.k = f.d.toNat - 0x58) = false) :
    c.seqLoop pc f =
      (if loopCount c.t f = 0 then
        ({ c with t := { c.t with seq := { c.t.seq with loop := tset 0 c.t.seq.loop (f.d.toNat - 0x58) (loopCount c.t f) } } },
          .skip ((f.imm.toNat % 2048 + 1) % 2048))
      else ({ c with t := { c.t with seq := { c.t.seq with
          loop := tset 0 c.t.seq.loop (f.d.toNat - 0x58) (loopCount c.t f)
          loops := ⟨f.d.toNat - 0x58, pc, f.imm.toNat % 2048⟩ :: c.t.seq.loops } } }, .go)) := by
  unfold Cyc.seqLoop
  dsimp only
  rw [loop_wellFormed counter counter' after_ operand, if_neg (by decide), if_neg (by rw [free]; decide)]
  rfl

end

/-- Where the pc goes on, by what the live loops answer. -/
theorem goOn_of_loopBack {y : Tile} {m : Tab W32} {l : List LoopRec} {n : Nat}
    (back : loopBack y.seq.pc.toNat y.seq.loops y.seq.loop = (m, l, n)) :
    goOn y = { y with seq := { y.seq with pc := BitVec.ofNat 11 n, loop := m, loops := l } } := by
  unfold goOn
  rw [back]

section
variable {x : Tile} {r : LoopRec} (one : x.seq.loops = [r]) (ends : r.e = x.seq.pc.toNat) (body : r.a < r.e)
include one ends

include body in
/-- The bundle at the end of the one live loop goes back while its counter is above 1. -/
theorem goOn_loops (more : 1 < (tget 0 x.seq.loop r.k).toNat) : goOn (issued x) =
    { issued x with seq := { (issued x).seq with
      pc := BitVec.ofNat 11 (r.a + 1), loop := tset 0 x.seq.loop r.k (tget 0 x.seq.loop r.k - 1), loops := [r] } } := by
  refine goOn_of_loopBack ?_
  change loopBack x.seq.pc.toNat x.seq.loops x.seq.loop = _
  have stays : loopsAt [r] (r.a + 1) = [r] := List.filter_eq_self.2 (by simpa using body)
  rw [one, loopBack, if_pos ends]
  dsimp only
  rw [if_pos more, stays]

/-- With a counter of 1 or 0 the loop ends there, its counter 0. -/
theorem goOn_loopEnds (last : (tget 0 x.seq.loop r.k).toNat ≤ 1) : goOn (issued x) =
    { issued x with seq := { (issued x).seq with
      pc := BitVec.ofNat 11 ((r.e + 1) % 2048), loop := tset 0 x.seq.loop r.k 0, loops := [] } } := by
  refine goOn_of_loopBack ?_
  change loopBack x.seq.pc.toNat x.seq.loops x.seq.loop = _
  rw [one, loopBack, if_pos ends]
  dsimp only
  rw [if_neg (Nat.not_lt.2 last), loopBack, ends]

end

/-- Settles O10: LOOP by the state of its counter, and the end of a loop by what its counter holds. -/
theorem loopOpensSkipsAndGoesBack : Obligations.LoopOpensSkipsAndGoesBack := by
  unfold Obligations.LoopOpensSkipsAndGoesBack
  refine ⟨fun s t f => ?_, fun s t f r => ?_⟩
  · intro x n e y calm counter counter' later operand
    have slot := seqSlot_loop (c := (s.env t.val).cyc x) (sq := x.seqNo) (pc := x.seq.pc.toNat) (f := f) calm.unchecked
    have free : x.seq.loops.any (·.k = n) = false → _ := fun h => slot.trans (seqLoop_free counter counter' later operand h)
    refine ⟨fun live => ?_, fun dead opens => ?_, fun dead skips => ?_⟩
    · exact seqOp_slot calm (y := lwrSet x) (slot.trans (seqLoop_live counter counter' later operand calm.unchecked live))
        ⟨calm.due, calm.outs⟩
    · exact seqOp_slot calm (y := { y with seq := { y.seq with loops := ⟨n, x.seq.pc.toNat, e⟩ :: x.seq.loops } })
        ((free dead).trans (if_neg opens)) ⟨calm.due, calm.outs⟩
    · exact seqOp_slot calm (y := y) ((free dead).trans (if_pos skips)) ⟨calm.due, calm.outs⟩
  · intro x n y calm one ends body
    have goes : cond x (f.sub.toNat % 4) = false → exec (.bcnd t f) s = tileNext s t (after x) := fun no =>
      (seqOp_branch calm (seqSlot_bcnd calm.unchecked)).trans (congrArg _ (if_neg (by rw [← Bool.not_eq_true] at no; exact no)))
    refine ⟨fun more no => (goes no).trans ?_, fun last no => (goes no).trans ?_⟩
    · exact congrArg (tileNext s t) (congrArg clockTile (goOn_loops one ends body more))
    · exact congrArg (tileNext s t) (congrArg clockTile (goOn_loopEnds one ends last))

/-! ### Loads and stores -/

section
variable {c : Cyc} {k : Task} {f : SeqF} {a b : W64} (un : c.t.seq.chk = false) (ha : readSrc c.t f.a.toNat f.imm = .ok a)

theorem seqMem_inside {go : Nat → Nat → Cyc} (inside : (accessOf f a).1 + (accessOf f a).2 ≤ spSize) :
    c.seqMem f a go = (go (accessOf f a).1 (accessOf f a).2, .go) := if_neg (Nat.not_lt.2 inside)

theorem seqMem_outside {go : Nat → Nat → Cyc} (outside : spSize < (accessOf f a).1 + (accessOf f a).2) :
    c.seqMem f a go = (c, .halt (some 0xFFFF0006#32) false true) := if_pos outside

include ha

theorem seqLd_access (valid : dstKind f.d.toNat ≠ .trap) : c.seqLd k f = c.seqMem f a (fun off len =>
    (if f.d.toNat < 0x10 then c.expect k (.sreg f.d.toNat) (c.t.cyc + 3) (c.t.cyc + 3) else c).task k (c.t.cyc + 1) 0
      (.ld f.d.toNat off len f.sub[2])) := by
  unfold Cyc.seqLd
  dsimp only
  rw [withD_ok valid, withA_ok ha]

theorem seqSt_access (hb : readSrc c.t f.b.toNat f.imm = .ok b) : c.seqSt k f = c.seqMem f a (fun off len =>
    (c.expect k (.mem off (off + len - 1)) (c.t.cyc + 1) (c.t.cyc + 1)).task k (c.t.cyc + 1) 0 (.st off (leBytes len b.toNat))) := by
  unfold Cyc.seqSt
  rw [withA_ok ha, withB_ok hb]

include un

theorem seqLd_inside (valid : dstKind f.d.toNat ≠ .trap) (inside : (accessOf f a).1 + (accessOf f a).2 ≤ spSize) :
    c.seqLd k f = (c.task k (c.t.cyc + 1) 0 (.ld f.d.toNat (accessOf f a).1 (accessOf f a).2 f.sub[2]), .go) := by
  rw [seqLd_access ha valid, seqMem_inside inside, expect_off un, ite_self]

theorem seqSt_inside (hb : readSrc c.t f.b.toNat f.imm = .ok b) (inside : (accessOf f a).1 + (accessOf f a).2 ≤ spSize) :
    c.seqSt k f = (c.task k (c.t.cyc + 1) 0 (.st (accessOf f a).1 (leBytes (accessOf f a).2 b.toNat)), .go) := by
  rw [seqSt_access ha hb, seqMem_inside inside, expect_off un]

end

/-- An operation that puts one access in the next cycle. -/
theorem seqOp_task {s : State} {t : TileIx} {op : Nat} {f : SeqF} {k : Task} {a : Act} (calm : Calm (s.tile t.val))
    (slot : ((s.env t.val).cyc (s.tile t.val)).seqSlot (s.tile t.val).seqNo (s.tile t.val).seq.pc.toNat op f =
      (((s.env t.val).cyc (s.tile t.val)).task k ((s.tile t.val).cyc + 1) 0 a, .go)) :
    .next (s.seqOp t op f) = tileNext s t (after (inFlight (s.tile t.val) [⟨(s.tile t.val).cyc + 1, k.slot, 0, k.seq, k.pc, a⟩] [])) :=
  seqOp_slot calm (out := .go) (y := inFlight (s.tile t.val) [⟨(s.tile t.val).cyc + 1, k.slot, 0, k.seq, k.pc, a⟩] [])
    (slot.trans (by simp only [TileEnv.cyc, inFlight, List.append_nil]; rfl)) (inFlight_quiet calm.toQuiet (by simp) (by simp))

/-- Settles O11: the access is put in the next cycle, or the range is past the scratchpad's end. -/
theorem loadAndStoreAccessNextCycle : Obligations.LoadAndStoreAccessNextCycle := by
  unfold Obligations.LoadAndStoreAccessNextCycle
  intro s t f a b x m calm ha hb valid
  have un : ((s.env t.val).cyc x).t.seq.chk = false := calm.unchecked
  have ld := seqSlot_ld (sq := x.seqNo) (pc := x.seq.pc.toNat) (f := f) un
  have st := seqSlot_st (sq := x.seqNo) (pc := x.seq.pc.toNat) (f := f) un
  refine ⟨fun inside => ⟨?_, ?_⟩, fun outside => ⟨?_, ?_⟩⟩
  · have loads := seqOp_task calm (ld.trans (seqLd_inside un ha valid inside))
    exact loads
  · have stores := seqOp_task calm (st.trans (seqSt_inside un ha hb inside))
    exact stores
  · exact (seqOp_out calm (ld.trans ((seqLd_access ha valid).trans (seqMem_outside outside)))).trans (congrArg _ (apply_trap _ _))
  · exact (seqOp_out calm (st.trans ((seqSt_access ha hb).trans (seqMem_outside outside)))).trans (congrArg _ (apply_trap _ _))

end Sys2Proof.Machine

/-! # Comparators, messages, waits, phases and bundles -/

namespace Sys2Proof.Machine

open Sys2Proof.Slice0

/-! ### CMPSET, SIG and HSIG (R92, R303, R435) -/

/-- The word of a comparator: enable, the kind of its source and the source's number stand in bits of their own. -/
theorem comparatorWord (enable scalar : Prop) [Decidable enable] [Decidable scalar] (n : Nat) :
    ((if enable then 0 else 0x100#32) ||| (if scalar then 0x10#32 else 0) ||| BitVec.ofNat 32 (n % 16) : W32) =
      BitVec.ofNat 32 ((if enable then 0 else 0x100) + (if scalar then 0x10 else 0) + n % 16) := by
  have sums : ∀ m : Fin 16,
      (0x100#32 ||| 0x10#32 ||| BitVec.ofNat 32 m.val = BitVec.ofNat 32 (0x100 + 0x10 + m.val)) ∧
      (0x100#32 ||| 0 ||| BitVec.ofNat 32 m.val = BitVec.ofNat 32 (0x100 + 0 + m.val)) ∧
      ((0 : W32) ||| 0x10#32 ||| BitVec.ofNat 32 m.val = BitVec.ofNat 32 (0 + 0x10 + m.val)) ∧
      ((0 : W32) ||| 0 ||| BitVec.ofNat 32 m.val = BitVec.ofNat 32 (0 + 0 + m.val)) := by decide
  obtain ⟨both, disabled, enabled, none_⟩ := sums ⟨n % 16, Nat.mod_lt _ (by decide)⟩
  by_cases e : enable <;> by_cases c : scalar
  · simpa only [if_pos e, if_pos c] using enabled
  · simpa only [if_pos e, if_neg c] using none_
  · simpa only [if_neg e, if_pos c] using both
  · simpa only [if_neg e, if_neg c] using disabled

section
variable {c : Cyc} {k : Task} {f : SeqF} {a b : W64}

theorem seqCmpset_reserved (bad : ¬ (f.a.toNat < 0x10 ∨ (0x60 ≤ f.a.toNat ∧ f.a.toNat < 0x70))) : c.seqCmpset k f = (c, .reserved) := by
  unfold Cyc.seqCmpset
  exact if_pos (by simp; omega)

theorem seqCmpset_sets (hb : readSrc c.t f.b.toNat f.imm = .ok b)
    (source : f.a.toNat < 0x10 ∨ (0x60 ≤ f.a.toNat ∧ f.a.toNat < 0x70)) :
    c.seqCmpset k f = (c.ret k c.t.cyc (.cmp (f.sub.toNat % 4)
      (BitVec.ofNat 32 ((if f.sub[2] then 0 else 0x100) + (if f.a.toNat < 0x10 then 0x10 else 0) + f.a.toNat % 16)) (b.truncate 32)), .go) := by
  unfold Cyc.seqCmpset
  dsimp only
  rw [if_neg (by simp; omega), withB_ok hb, comparatorWord]

theorem seqSig_reserved (bad : ¬ (0x60 ≤ f.d.toNat ∧ f.d.toNat < 0x70)) : c.seqSig f = (c, .reserved) := by
  unfold Cyc.seqSig
  exact if_pos (by simp; omega)

theorem seqSig_sends {t : TileIx} {e : Fin 16} (id : c.id = t.val) (counter : f.d.toNat = 0x60 + e.val)
    (ha : readSrc c.t f.a.toNat f.imm = .ok a) :
    c.seqSig f = ({ c with t := { c.t with evOut := c.t.evOut ++
      [(⟨.tile t, ⟨a.toNat % 256, Nat.mod_lt _ (by decide)⟩, e, f.imm.truncate 16⟩, f.imm[16])] } }, .go) := by
  have tile : (⟨c.id % 256, Nat.mod_lt _ (by decide)⟩ : TileIx) = t := Fin.ext (by have := t.isLt; simp only [id]; omega)
  have event : (⟨(f.d.toNat - 0x60) % 16, Nat.mod_lt _ (by decide)⟩ : Fin 16) = e := Fin.ext (by have := e.isLt; simp only [counter]; omega)
  have inside : (!(0x60 ≤ f.d.toNat && f.d.toNat < 0x70)) = false := by
    have := e.isLt
    simp; omega
  unfold Cyc.seqSig
  dsimp only
  rw [inside, if_neg (by decide), withA_ok ha, tile, event]

end

/-! A stream event counter that can be read can be written, and what a tile does does not reach it. -/

theorem evGet_setTile (s : State) (t : Nat) (x : Tile) (p c j : Nat) : (s.setTile t x).evGet p c j = s.evGet p c j := rfl

theorem evAddr_setTile (s : State) (t : Nat) (x : Tile) (p c j : Nat) : (s.setTile t x).evAddr p c j = s.evAddr p c j := rfl

theorem evPut_add {s : State} {p c j : Nat} {v a : W64} (h : s.evGet p c j = some v) :
    s.evPut p c j false a = s.memWrite (s.evAddr p c j) (clean (leBytes 8 (v + a).toNat)) := by
  have accepted : s.memCheck fwTag (s.evAddr p c j) 8 = 0 := by
    by_contra no
    unfold State.evGet State.hubRead at h
    dsimp only at h
    by_cases poison : s.memCheck fwTag (s.evAddr p c j) 8 = 5
    · rw [if_pos poison] at h
      cases h
    · rw [if_neg poison, if_pos no, if_neg no] at h
      cases h
  have length : (clean (leBytes 8 (v + a).toNat)).length = 8 := by simp [clean, leBytes_length]
  unfold State.evPut
  rw [h]
  dsimp only
  rw [if_neg (by decide)]
  unfold State.hubWrite
  rw [length, accepted]
  rfl

theorem memWrite_setTile (s : State) (t : Nat) (x : Tile) (a : Nat) (bs : List PByte) :
    (s.setTile t x).memWrite a bs = (s.memWrite a bs).setTile t x := by
  unfold State.memWrite
  split <;> rfl

theorem setTile_setTile (s : State) (t : Nat) {x y : Tile} (h : x ≠ Tile.reset) : (s.setTile t x).setTile t y = s.setTile t y := by
  unfold State.setTile
  dsimp only
  rw [tset_tset _ _ _ _ h]

/-- The clock does not look at what the tile sends. -/
theorem clockTile_outs_set (y : Tile) (l : List TileOut) : { clockTile y with outs := l } = clockTile { y with outs := l } := by
  unfold clockTile
  dsimp only
  by_cases idle : (tickTimers y).tasks = [] ∧ (tickTimers y).rets = []
  · rw [if_pos idle, if_pos (by exact idle)]
    rfl
  · rw [if_neg idle, if_neg (by exact idle)]
    rfl

/-- A tile's work that sends one hsig after its phase records. -/
theorem tileWork_hsig {s : State} {t : Nat} {f : TileEnv → Tile → Tile} {y : Tile} {l : List TileOut} {e : BitVec 16} {v a : W64}
    (work : f (s.env t) (s.tile t) = y) (moved : y ≠ Tile.reset) (outs : y.outs = l ++ [.hsig e a]) (phases : l.all TileOut.isPhase = true)
    (counter : s.evGet (partOfTile s.partMode t) (s.ctxOf t) e.toNat = some v) :
    s.tileWork t f = (s.setTile t { y with outs := l }).memWrite (s.evAddr (partOfTile s.partMode t) (s.ctxOf t) e.toNat)
      (clean (leBytes 8 (v + a).toNat)) := by
  have tile : (s.setTile t y).tile t = y := State.tile_setTile s moved
  have arrives : (s.setTile t y).hsigArrives t (.hsig e a) = (s.setTile t y).memWrite
      (s.evAddr (partOfTile s.partMode t) (s.ctxOf t) e.toNat) (clean (leBytes 8 (v + a).toNat)) :=
    evPut_add (s := s.setTile t y) (by rw [evGet_setTile]; exact counter)
  have filtered : y.outs.filter TileOut.isPhase = l := by
    rw [outs, List.filter_append, List.filter_eq_self.2 (by simpa using phases)]
    simp [TileOut.isPhase]
  have mixed : y.outs.all TileOut.isPhase = false := by
    rw [outs, List.all_append]
    simp [TileOut.isPhase]
  unfold State.tileWork State.runTile State.drainHsig State.modTile
  rw [work, tile]
  dsimp only
  rw [mixed, outs, List.foldl_append, hsig_none _ phases, List.foldl_cons, List.foldl_nil, arrives, if_neg (by decide), memWrite_setTile]
  have tile' : ((s.memWrite (s.evAddr (partOfTile s.partMode t) (s.ctxOf t) e.toNat) (clean (leBytes 8 (v + a).toNat))).setTile t y).tile t = y :=
    State.tile_setTile _ moved
  rw [tile', setTile_setTile _ _ moved, filtered, ← memWrite_setTile]

/-- Settles O13: CMPSET retires in its cycle, SIG and HSIG leave their message with the tile, and that of HSIG arrives. -/
theorem cmpsetSigAndHsigActAtIssue : Obligations.CmpsetSigAndHsigActAtIssue := by
  unfold Obligations.CmpsetSigAndHsigActAtIssue
  refine ⟨fun s t f a b => ?_, fun s t f a v => ?_⟩
  · intro x calm
    have un : ((s.env t.val).cyc x).t.seq.chk = false := calm.unchecked
    have cmpset := seqSlot_cmpset (sq := x.seqNo) (pc := x.seq.pc.toNat) (f := f) un
    have sig := seqSlot_sig (sq := x.seqNo) (pc := x.seq.pc.toNat) (f := f) un
    refine ⟨fun hb source => ?_, fun bad => ?_, fun ha e counter => ?_, fun bad => ?_⟩
    · have sets := seqOp_ret calm (cmpset.trans (seqCmpset_sets hb source)) rfl
      exact sets
    · exact seqOp_reserved calm (cmpset.trans (seqCmpset_reserved bad))
    · have sends := sig.trans (seqSig_sends (t := t) rfl counter ha)
      exact seqOp_slot (y := { x with evOut := _ }) calm sends ⟨calm.due, calm.outs⟩
    · exact seqOp_reserved calm (sig.trans (seqSig_reserved bad))
  · intro x p j at_ calm ha counter
    have slot := (seqSlot_hsig (c := (s.env t.val).cyc x) (sq := x.seqNo) (pc := x.seq.pc.toNat) (f := f) calm.unchecked).trans
      (withA_ok ha)
    have work := issueOps_seq (y := { x with outs := x.outs ++ [.hsig (f.imm.truncate 16) a] }) calm slot calm.due
    refine congrArg Host.Outcome.next ((tileWork_hsig (l := x.outs) work (clockTile_ne_reset _) (clockTile_outs _) calm.outs counter).trans ?_)
    rw [clockTile_outs_set]
    rfl

end Sys2Proof.Machine

/-! # Waits, phases, bundles and the work in flight -/

namespace Sys2Proof.Machine

open Sys2Proof.Slice0

/-! ### Waits and fences (R93, R94) -/

theorem waitTimeout_of_undo {y : Tile} {w : WaitFor} {pc : Nat} {loop : Tab W32} (running : y.seq.st ≠ .halted)
    (undo : y.seq.undo = some (pc, loop)) : waitTimeout y w = { y with seq := { y.seq with
      st := .halted, loops := [], wait := none, pc := BitVec.ofNat 11 pc, loop := loop, waitflt := waitFltOf w, faultHalt := true } } := by
  unfold waitTimeout lateHalt
  rw [if_neg running, undo]
  rfl

/-- What a wait or fence of this bundle does. -/
theorem seqOp_waitFor {s : State} {t : TileIx} {op : Nat} {f : SeqF} {w : WaitFor} (calm : Calm (s.tile t.val))
    (slot : ((s.env t.val).cyc (s.tile t.val)).seqSlot (s.tile t.val).seqNo (s.tile t.val).seq.pc.toNat op f =
      ((s.env t.val).cyc (s.tile t.val)).seqWaitFor w) :
    (waitHolds (s.tile t.val) w = true → .next (s.seqOp t op f) = tileNext s t (after (s.tile t.val))) ∧
    (waitHolds (s.tile t.val) w = false → (s.tile t.val).seq.waitlim ≠ 1 →
      .next (s.seqOp t op f) = tileNext s t (waits (s.tile t.val) w)) ∧
    (waitHolds (s.tile t.val) w = false → (s.tile t.val).seq.waitlim = 1 → .next (s.seqOp t op f) = tileNext s t
      (timedOut { issued (s.tile t.val) with seq := { (issued (s.tile t.val)).seq with waitAt := (s.tile t.val).cyc } }
        (((s.tile t.val).seq.pc.toNat + 1) % 2048) (s.tile t.val).seq.loop w)) := by
  have passes (b : Bool) (h : waitHolds (s.tile t.val) w = b) :
      ((s.env t.val).cyc (s.tile t.val)).seqWaitFor w = ((s.env t.val).cyc (s.tile t.val), if b then .go else .block w) := by
    rw [← h]
    rfl
  refine ⟨fun holds => ?_, fun blocks unlimited => ?_, fun blocks one => ?_⟩
  · exact seqOp_out calm (slot.trans (passes true holds))
  · refine (seqOp_out calm (slot.trans (passes false blocks))).trans (congrArg (tileNext s t) (congrArg clockTile ?_))
    exact if_neg unlimited
  · refine (seqOp_out calm (slot.trans (passes false blocks))).trans (congrArg (tileNext s t) (congrArg clockTile ?_))
    refine (if_pos one).trans ((waitTimeout_of_undo (pc := ((s.tile t.val).seq.pc.toNat + 1) % 2048) (loop := (s.tile t.val).seq.loop)
      (by exact nofun) rfl).trans rfl)

/-- A cycle without issue in which nothing is due. -/
theorem idleCycle_quiet {e : TileEnv} {x : Tile} (d : nothingDue (pollWait x)) : idleCycle e x = clockTile (pollWait x) := by
  unfold idleCycle
  rw [checkLd_none d.1, finish_quiet d]

@[simp] theorem clockTile_seq (x : Tile) : (clockTile x).seq = x.seq := by
  unfold clockTile
  dsimp only
  split <;> rfl

theorem runWait_of_running {e : TileEnv} {n : Nat} {x : Tile} (h : x.seq.st ≠ .waiting) : runWait e n x = x := by
  cases n with
  | zero => rfl
  | succ n => exact if_neg h

theorem runWait_succ {e : TileEnv} {n : Nat} {x : Tile} (h : x.seq.st = .waiting) : runWait e (n + 1) x = runWait e n (idleCycle e x) :=
  if_pos h

section
variable {x : Tile} {w : WaitFor} (st : x.seq.st = .waiting) (wait : x.seq.wait = some w)
include st wait

theorem pollWait_holds (inTime : x.seq.waitlim = 0 ∨ x.cyc ≤ x.seq.waitAt + x.seq.waitlim.toNat - 1) (holds : waitHolds x w = true) :
    pollWait x = { x with seq := { x.seq with st := .running, wait := none, nextAt := x.cyc + 3 } } := by
  unfold pollWait
  rw [st, wait]
  exact if_pos ⟨inTime, holds⟩

theorem pollWait_limit (limit : x.seq.waitlim ≠ 0) (last : x.seq.waitAt + x.seq.waitlim.toNat - 1 ≤ x.cyc) (blocks : waitHolds x w = false) :
    pollWait x = waitTimeout x w := by
  unfold pollWait
  rw [st, wait]
  dsimp only
  rw [if_neg (by rw [blocks]; exact fun h => Bool.noConfusion h.2), if_pos ⟨limit, last⟩]

end

/-- Settles O14: at issue by the condition and the limit, later by what one cycle of the waiting sequencer finds. -/
theorem waitsBlockEndAndTimeOut : Obligations.WaitsBlockEndAndTimeOut := by
  unfold Obligations.WaitsBlockEndAndTimeOut
  refine ⟨fun s t f => ?_, fun s t n w pc loop => ?_⟩
  · intro x calm p hp
    simp only [List.mem_cons, List.not_mem_nil, or_false] at hp
    rcases hp with rfl | rfl
    · exact seqOp_waitFor calm (seqSlot_wait calm.unchecked)
    · exact seqOp_waitFor calm (seqSlot_fence calm.unchecked)
  · intro x last quiet st wait undo
    refine ⟨fun inTime holds c hc => ?_, fun limit now since blocks => ?_⟩
    · let y : Tile := { x with seq := { x.seq with st := .running, wait := none, nextAt := x.cyc + 3 } }
      have polled : pollWait x = y := pollWait_holds st wait inTime holds
      have work : runWait (s.env t.val) (n + 1) x = clockTile y := by
        rw [runWait_succ st, idleCycle_quiet (by rw [polled]; exact quiet.due), polled, runWait_of_running (by simp [y])]
      have resumes := tileWork_clock (f := fun e x => runWait e (n + 1) x) work quiet.outs
      simp only [List.mem_cons, List.not_mem_nil, or_false] at hc
      rcases hc with rfl | rfl
      · exact congrArg Host.Outcome.next resumes
      · exact congrArg Host.Outcome.next resumes
    · have running : x.seq.st ≠ .halted := by rw [st]; decide
      have polled := (pollWait_limit st wait limit (Nat.le_of_eq now.symm) blocks).trans (waitTimeout_of_undo running undo)
      have positive : x.seq.waitlim.toNat ≠ 0 := fun zero => limit (BitVec.eq_of_toNat_eq zero)
      have one : x.seq.waitAt + x.seq.waitlim.toNat - x.cyc = 0 + 1 := by omega
      refine congrArg Host.Outcome.next (tileWork_clock ?_ quiet.outs)
      rw [if_pos ⟨st, limit⟩]
      change runWait (s.env t.val) (x.seq.waitAt + x.seq.waitlim.toNat - x.cyc) x = _
      rw [one, runWait_succ st, idleCycle_quiet (by rw [polled]; exact quiet.due), polled]
      rfl

/-! ### Phase timers of a tile (R515, R516) -/

/-- Settles O17: the operation is the timer's start or stop, and a record is no hsig. -/
theorem phaseStartsAndStopsTileTimer : Obligations.PhaseStartsAndStopsTileTimer := by
  unfold Obligations.PhaseStartsAndStopsTileTimer
  intro s t f n x p tag q calm number
  have timer : (⟨f.imm.toNat / 2 ^ 16 % 8, Nat.mod_lt _ (by decide)⟩ : Fin 8) = n := Fin.ext number
  have slot := seqSlot_phase (c := (s.env t.val).cyc x) (sq := x.seqNo) (pc := x.seq.pc.toNat) (f := f) calm.unchecked
  rw [timer] at slot
  refine seqOp_slot calm slot ⟨calm.due, ?_⟩
  change (if p.run && x.tphExport then x.outs ++ [.phase n p.tag p.cnt] else x.outs).all TileOut.isPhase = true
  split
  · rw [List.all_append, calm.outs]
    rfl
  · exact calm.outs

/-! ### Bundles of the bundle store (R300, R304) -/

/-- The bundle at the pc of a calm tile. -/
theorem issueBundle_calm {e : TileEnv} {ck : List CheckFail} {x : Tile} (calm : Calm x) : issueBundle e ck x =
    if tget false x.seq.storeBad x.seq.pc.toNat then idleCycle e (haltWith x none true false)
    else opCycle e (bundleOps (tget 0 x.seq.store x.seq.pc.toNat)) ck x := by
  have now : toIssue e x = x := by
    unfold toIssue
    rw [Nat.sub_eq_zero_of_le calm.may]
    rfl
  unfold issueBundle
  rw [if_pos ⟨calm.noon, calm.running⟩, now]
  simp only [calm.running, true_and]

/-- Settles O16: the halt comes before the issue, and the cycle then has nothing to do. -/
theorem badBundleHaltsWithoutIssue : Obligations.BadBundleHaltsWithoutIssue := by
  unfold Obligations.BadBundleHaltsWithoutIssue
  intro s t ck x calm bad
  have halted : haltWith x none true false = { x with seq := { x.seq with st := .halted, loops := [], wait := none, mcHalt := true } } := by
    simp only [haltWith, haltSeq, Option.getD_none, Option.isSome_none, Bool.or_false, Bool.or_true]
  refine congrArg Host.Outcome.next (tileWork_clock ?_ calm.outs)
  change issueBundle (s.env t.val) ck x = _
  rw [issueBundle_calm calm, if_pos bad, halted]
  exact idleCycle_quiet calm.due

/-- The fields of a sequencer slot. -/
def seqFields (b : BitVec 256) : SeqF :=
  ⟨b.extractLsb' 8 7, b.extractLsb' 15 7, b.extractLsb' 22 7, b.extractLsb' 29 3, b.extractLsb' 32 24⟩

/-- Fields of a bundle past bit 55 are 0 when those bits are. -/
theorem extract_above {b : BitVec 256} (h : b.extractLsb' 56 200 = 0) {i n : Nat} (lo : 56 ≤ i) (hi : i + n ≤ 256) :
    b.extractLsb' i n = 0 := by
  apply BitVec.eq_of_getLsbD_eq
  intro j hj
  have bit : (b.extractLsb' 56 200).getLsbD (i - 56 + j) = false := by rw [h]; simp
  rw [BitVec.getLsbD_extractLsb'] at bit ⊢
  have place : 56 + (i - 56 + j) = i + j := by omega
  rw [place] at bit
  simp only [hj, decide_true, Bool.true_and]
  simpa [show i - 56 + j < 200 by omega] using bit

/-- A bundle that holds a sequencer operation alone. -/
theorem bundleOps_seq {b : BitVec 256} (h : b.extractLsb' 56 200 = 0) :
    bundleOps b = { seq := ((b.extractLsb' 0 8).toNat, seqFields b) } := by
  unfold bundleOps
  rw [extract_above h (i := 56) (n := 2) (by decide) (by decide), extract_above h (i := 64) (n := 8) (by decide) (by decide),
    extract_above h (i := 140) (n := 52) (by decide) (by decide), extract_above h (i := 192) (n := 3) (by decide) (by decide),
    extract_above h (i := 240) (n := 3) (by decide) (by decide), extract_above h (i := 243) (n := 3) (by decide) (by decide),
    extract_above h (i := 246) (n := 4) (by decide) (by decide)]
  rfl

/-- HALT looks at none of its fields. -/
theorem seqOp_halt_fields {s : State} {t : TileIx} {f g : SeqF} (calm : Calm (s.tile t.val)) :
    (.next (s.seqOp t 1 f) : Host.Outcome State Fault Refusal) = .next (s.seqOp t 1 g) :=
  (seqOp_out calm (seqSlot_halt calm.unchecked)).trans (seqOp_out calm (seqSlot_halt calm.unchecked)).symm

/-- The commands have the operation codes of the table. -/
theorem exec_seqCode {s : State} {t : TileIx} {f : SeqF} (calm : Calm (s.tile t.val)) {p : Nat × (TileIx → SeqF → Instr)}
    (h : p ∈ seqCodes) : exec (p.2 t f) s = .next (s.seqOp t p.1 f) := by
  have others : ∀ q ∈ seqCodes.tail, exec (q.2 t f) s = .next (s.seqOp t q.1 f) := by
    simp only [seqCodes, List.tail_cons, List.forall_mem_cons]
    exact ⟨rfl, rfl, rfl, rfl, rfl, rfl, rfl, rfl, rfl, rfl, rfl, rfl, rfl, rfl, rfl, rfl, rfl, rfl, rfl, rfl, rfl, rfl, rfl, rfl, rfl,
      rfl, rfl, rfl, rfl, rfl, rfl, nofun⟩
  rcases List.mem_cons.1 h with rfl | tail
  · exact seqOp_halt_fields calm
  · exact others p tail

/-- Settles O15: both are the issue of the same slots in the same cycle. -/
theorem bundleRunsSequencerOperation : Obligations.BundleRunsSequencerOperation := by
  unfold Obligations.BundleRunsSequencerOperation
  intro s t b p hp x calm good stored code alone
  have ready_ : ready x = true := by simp [ready, calm.noon, calm.running, calm.may]
  have issues : issueBundle (s.env t.val) [] x = issueOps (s.env t.val) { seq := (p.1, seqFields b) } [] x := by
    rw [issueBundle_calm calm, good, if_neg (by decide), stored, bundleOps_seq alone, code, issueOps_of_calm calm]
    unfold opCycle
    rw [checkLd_none calm.due.1, if_pos ready_]
  refine Eq.trans ?_ (exec_seqCode calm hp).symm
  change Host.Outcome.next (s.tileWork t.val (fun e x => issueBundle e [] x)) =
    .next (s.tileWork t.val (fun e x => issueOps e { seq := (p.1, seqFields b) } [] x))
  unfold State.tileWork State.runTile State.modTile
  change Host.Outcome.next ((s.setTile t.val (issueBundle (s.env t.val) [] x)).drainHsig t.val) = _
  rw [issues]

end Sys2Proof.Machine

/-! # Work that falls due (R303, R307, R528) -/

namespace Sys2Proof.Machine

open Sys2Proof.Slice0

theorem pollWait_running {x : Tile} (h : x.seq.st = .running) : pollWait x = x := by
  unfold pollWait
  rw [h]

/-- The only work in flight is due now: one cycle passes. -/
theorem retireNext_now {e : TileEnv} {x : Tile} (work : ¬ (x.tasks = [] ∧ x.rets = [])) (due : nextDue x = x.cyc) :
    retireNext e x = idleCycle e x := by
  unfold retireNext
  rw [if_neg work, due, Nat.add_sub_cancel_left]
  rfl

theorem nextDue_task {x : Tile} {k : Task} (tasks : x.tasks = [k]) (rets : x.rets = []) : nextDue x = k.at_ := by
  unfold nextDue
  rw [tasks, rets]
  rfl

theorem nextDue_ret {x : Tile} {r : Ret} (tasks : x.tasks = []) (rets : x.rets = [r]) : nextDue x = r.at_ := by
  unfold nextDue
  rw [tasks, rets]
  rfl

/-- The one task of a cycle that is due acts. -/
theorem runTasks_one {c : Cyc} {k : Task} (tasks : c.t.tasks = [k]) (due : k.at_ ≤ c.t.cyc) :
    c.runTasks = ({ c with t := { c.t with tasks := [] } } : Cyc).act k := by
  unfold Cyc.runTasks
  rw [tasks]
  simp [due, insTask]

/-- A read looks at the scratchpad alone. -/
theorem spRead_congr {x y : Tile} (bytes : x.sp = y.sp) (pois : x.spPois = y.spPois) (a n : Nat) : spRead x a n = spRead y a n := by
  induction n generalizing a with
  | zero => rfl
  | succ n ih => simp only [spRead, spGet, bytes, pois, ih]

/-- A load without poison halts nothing. -/
theorem checkLd_clean {x : Tile} (h : poisonLd x = false) : checkLd x = x := by
  unfold checkLd
  rw [h]
  exact if_neg (by decide)

/-- The number that a load extends by its sign, as a difference and as a sum modulo 2^64. -/
theorem signExtended {len v : Nat} (h : len ∈ [1, 2, 4, 8]) :
    BitVec.ofNat 64 (v + (2 ^ 64 - 2 ^ (8 * len))) = BitVec.ofInt 64 ((v : Int) - 2 ^ (8 * len)) := by
  apply BitVec.eq_of_toNat_eq
  simp only [List.mem_cons, List.not_mem_nil, or_false] at h
  rcases h with rfl | rfl | rfl | rfl
  all_goals
    rw [BitVec.toNat_ofNat, BitVec.toNat_ofInt]
    omega

theorem loadValue_eq {len v : Nat} (h : len ∈ [1, 2, 4, 8]) (zx : Bool) :
    (if !zx && 2 ^ (8 * len - 1) ≤ v then BitVec.ofNat 64 (v + (2 ^ 64 - 2 ^ (8 * len))) else BitVec.ofNat 64 v) = loadValue len zx v := by
  unfold loadValue
  by_cases neg : zx = false ∧ 2 ^ (8 * len - 1) ≤ v
  · rw [if_pos neg, if_pos (by simpa using neg), signExtended h]
  · rw [if_neg neg, if_neg (by simpa using neg)]
    rfl

section
variable {c : Cyc} {k : Task} {d off len : Nat} {zx : Bool} {bs : List Byte} (un : c.t.seq.chk = false) (idle : c.busy = [])
include idle

theorem seqAct_st : ∃ bz, c.seqAct k (.st off bs) = { c with busy := bz, t := spWrite c.t off (clean bs) } := write_free idle

include un

/-- The value of a load goes on its way to the register. -/
theorem seqAct_ld (hlen : len ∈ [1, 2, 4, 8]) (reg : dstKind d = .reg) : ∃ bz, c.seqAct k (.ld d off len zx) =
    ({ c with busy := bz } : Cyc).ret k (c.t.cyc + 2) (.sreg d (loadValue len zx (leNatP (spRead c.t off len)))) := by
  have some_ : len ≠ 0 := by rintro rfl; simp at hlen
  obtain ⟨bz, bytes⟩ := read_free (k := k) (a := off) un idle some_
  refine ⟨bz, ?_⟩
  unfold Cyc.seqAct
  dsimp only
  rw [bytes]
  dsimp only
  rw [reg, loadValue_eq hlen]

end

section
variable {e : TileEnv} {x : Tile} {q pc d off len : Nat} {zx : Bool} {bs : List Byte}

/-- A cycle in which the one task of a running tile acts and nothing else is due. -/
theorem idleCycle_task {k : Task} {y : Tile} {bz : List (Nat × Nat)} (running : x.seq.st = .running) (clean_ : poisonLd x = false)
    (tasks : x.tasks = [k]) (due : k.at_ ≤ x.cyc) (acts : (e.cyc { x with tasks := [] }).act k = { e.cyc y with busy := bz })
    (later : ∀ r ∈ y.rets, y.cyc < r.at_) : idleCycle e x = clockTile y := by
  unfold idleCycle
  rw [pollWait_running running, checkLd_clean clean_, runTasks_one (c := e.cyc x) tasks due]
  refine (congrArg Cyc.finish acts).trans (finish_none (c := { e.cyc y with busy := bz }) later rfl rfl rfl)

theorem idleCycle_st (running : x.seq.st = .running) (tasks : x.tasks = [⟨x.cyc, 0, 0, q, pc, .st off bs⟩]) (rets : x.rets = []) :
    idleCycle e x = clockTile (spWrite { x with tasks := [] } off (clean bs)) := by
  obtain ⟨bz, writes⟩ := seqAct_st (c := e.cyc { x with tasks := [] }) (k := ⟨x.cyc, 0, 0, q, pc, .st off bs⟩) (off := off) (bs := bs) rfl
  have no_ld : poisonLd x = false := by
    unfold poisonLd
    rw [tasks]
    simp
  have no_rets : (spWrite { x with tasks := [] } off (clean bs)).rets = [] := by
    unfold spWrite
    split <;> exact rets
  exact idleCycle_task running no_ld tasks (Nat.le_refl _) writes (by simp [no_rets])

theorem poisonLd_ld (tasks : x.tasks = [⟨x.cyc, 0, 0, q, pc, .ld d off len zx⟩]) : poisonLd x = anyPois (spRead x off len) := by
  unfold poisonLd
  rw [tasks]
  simp

theorem idleCycle_ld (running : x.seq.st = .running) (un : x.seq.chk = false) (hlen : len ∈ [1, 2, 4, 8]) (reg : dstKind d = .reg)
    (tasks : x.tasks = [⟨x.cyc, 0, 0, q, pc, .ld d off len zx⟩]) (rets : x.rets = []) (good : anyPois (spRead x off len) = false) :
    idleCycle e x = clockTile { x with
      tasks := [], rets := [⟨x.cyc + 2, 0, q, pc, .sreg d (loadValue len zx (leNatP (spRead x off len)))⟩] } := by
  obtain ⟨bz, reads⟩ := seqAct_ld (c := e.cyc { x with tasks := [] }) (k := ⟨x.cyc, 0, 0, q, pc, .ld d off len zx⟩) (off := off)
    (zx := zx) un rfl hlen reg
  have same := spRead_congr (x := { x with tasks := [] }) (y := x) rfl rfl off len
  have same' : spRead (e.cyc { x with tasks := [] }).t off len = spRead x off len := same
  rw [same'] at reads
  refine idleCycle_task (bz := bz) running ((poisonLd_ld tasks).trans good) tasks (Nat.le_refl _) (reads.trans ?_) (by simp)
  simp only [Cyc.ret, TileEnv.cyc, rets, List.nil_append]

/-- A load that finds poison is dropped, and the sequencer halts before it. -/
theorem idleCycle_poison {p : Nat} {loop : Tab W32} (running : x.seq.st = .running)
    (tasks : x.tasks = [⟨x.cyc, 0, 0, q, pc, .ld d off len zx⟩]) (rets : x.rets = []) (undo : x.seq.undo = some (p, loop))
    (bad : anyPois (spRead x off len) = true) : idleCycle e x = clockTile { x with
      tasks := [], seq := { x.seq with
        st := .halted, loops := [], wait := none, pc := BitVec.ofNat 11 p, loop := loop, trap := 0xFFFF0005#32, mcHalt := true } } := by
  have halted : checkLd x = { x with
      tasks := [], seq := { x.seq with
        st := .halted, loops := [], wait := none, pc := BitVec.ofNat 11 p, loop := loop, trap := 0xFFFF0005#32, mcHalt := true } } := by
    have alive : x.seq.st ≠ .halted := by rw [running]; decide
    unfold checkLd
    rw [if_pos ((poisonLd_ld tasks).trans bad)]
    simp [tasks, alive, lateHalt, undo, haltSeq]
  unfold idleCycle
  rw [pollWait_running running, halted]
  refine finish_quiet ⟨by simp, ?_⟩
  change ∀ r ∈ x.rets, x.cyc < r.at_
  simp [rets]

theorem idleCycle_ret {r : RAct} (running : x.seq.st = .running) (tasks : x.tasks = []) (rets : x.rets = [⟨x.cyc, 0, q, pc, r⟩]) :
    idleCycle e x = clockTile (applyRet { x with rets := [] } r) := by
  have none_due : ∀ k ∈ x.tasks, x.cyc < k.at_ := by simp [tasks]
  unfold idleCycle
  rw [pollWait_running running, checkLd_none none_due, runTasks_none (c := e.cyc x) none_due]
  exact finish_one (c := e.cyc x) (l := []) rets (by simp) (Nat.le_refl _) rfl rfl rfl

end

theorem spWrite_outs (x : Tile) (a : Nat) (bs : List PByte) : (spWrite x a bs).outs = x.outs := by
  unfold spWrite
  split <;> rfl

/-- No retirement sends anything to the hub. -/
theorem applyRet_outs (x : Tile) (r : RAct) : (applyRet x r).outs = x.outs := by
  cases r with
  | sreg code v =>
    unfold applyRet
    dsimp only
    split
    · rfl
    · split <;> rfl
  | check u r =>
    unfold applyRet
    dsimp only
    split <;> rfl
  | _ => rfl

/-- Settles O12: with one piece of work due the command runs the one cycle in which it happens. -/
theorem retireStepPerformsDueWork : Obligations.RetireStepPerformsDueWork := by
  unfold Obligations.RetireStepPerformsDueWork
  intro s t q pc d off len p loop zx bs r x ld noon running outs un hlen undo reg
  have one_cycle {y : Tile} (work : ¬ (x.tasks = [] ∧ x.rets = [])) (due : nextDue x = x.cyc)
      (cycle : idleCycle (s.env t.val) x = clockTile y) (sends : y.outs = x.outs) :
      exec (.operationRetire t) s = tileNext s t (clockTile y) :=
    congrArg Host.Outcome.next (tileWork_clock (f := fun e x => retireNext e x) ((retireNext_now work due).trans cycle)
      (by rw [sends]; exact outs))
  refine ⟨fun tasks rets => ?_, fun tasks rets => ?_, fun tasks rets good => ?_, fun tasks rets bad => ?_, fun tasks rets => ?_⟩
  · have stays : retireNext (s.env t.val) x = x := if_pos ⟨tasks, rets⟩
    have up : x ≠ Tile.reset := fun e => by rw [e] at noon; cases noon
    have same := tileWork_eq (s := s) (t := t.val) (f := retireNext) (by rw [stays]; exact up) (by rw [stays]; exact outs)
    rw [stays] at same
    exact congrArg Host.Outcome.next same
  · exact one_cycle (by simp [tasks]) (nextDue_task tasks rets) (idleCycle_st running tasks rets) (spWrite_outs _ _ _)
  · exact one_cycle (by simp [tasks, ld]) (nextDue_task tasks rets) (idleCycle_ld running un hlen reg tasks rets good) rfl
  · exact one_cycle (by simp [tasks, ld]) (nextDue_task tasks rets) (idleCycle_poison running tasks rets undo bad) rfl
  · exact one_cycle (by simp [rets]) (nextDue_ret tasks rets) (idleCycle_ret running tasks rets) (applyRet_outs _ _)

end Sys2Proof.Machine

/-! # Writes of tile registers and hub registers

Two rules: a 4-byte write of a tile register by an agent whose request gets there, and a write of a hub register by an agent that may
write it. The commands that are such a write follow. -/

namespace Sys2Proof.Machine

open Sys2Proof.Slice0

/-! ### The two rules -/

/-- A write of the register at `off` of the tile's window. -/
theorem ctlWrite_wrote {s : State} {a : Agent} {t : TileIx} {off : Nat} {v : W32} {r : TReg} (h : Reaches s a t) (register : tileReg off = some r)
    (window : spSize ≤ off) (aligned : off % 4 = 0) (block : (off - spSize) / 0x10000 < 6)
    (awake : (s.tile t.val).power = .noon ∨ (off - spSize) / 0x10000 = 0) {w : TWrite}
    (writes : tregWrite (s.tile t.val) (s.tagOf a) r (partAt r.wide off) (v.zeroExtend 64) s.drawsEnt s.free = w) :
    .next (s.ctlWrite a t.val off v) = tileWrote s t w.t w.status w.ent := by
  rw [ctlWrite_eq h.bar.1 h.bar.2 h.way h.tag window aligned block awake register]
  subst writes
  rfl

/-- The answer to a hub write goes to its agent; a host write has none. -/
theorem tell_wrote (a : Agent) (s : State) (status : Nat) :
    (.next ((⟨s, status, []⟩ : Ans).tell a (.write [])) : Host.Outcome State Fault Refusal) = hubWrote a s status := by
  cases a <;> rfl

section
variable {s : State} {a : Agent} {off o : Nat} {b : HubBlock} (m : MayWrite s a) (low : off < 0x4000000)
  (block : hubBlock off = some (b, o)) (open_ : mayReach a b o = true) (runs : s.gated b o = false)
include m low block open_ runs

theorem put32_wrote (v : W32) (aligned : off % 4 = 0) (register : (blockRead s a b o).map (·.1) = some false) :
    .next (s.put32 a off v) = hubWrote a (blockWrite s a b o .all (v.zeroExtend 64)).1 (blockWrite s a b o .all (v.zeroExtend 64)).2 := by
  rw [put32_eq (by omega) block aligned register open_ runs m.1 (fun bar => ⟨low, m.2 bar⟩), tell_wrote]

theorem put64_wrote (v : W64) (aligned : off % 8 = 0) (register : (blockRead s a b o).map (·.1) = some true) :
    .next (s.put64 a off v) = hubWrote a (blockWrite s a b o .all v).1 (blockWrite s a b o .all v).2 := by
  rw [put64_eq (by omega) block aligned register open_ runs m.1 (fun bar => ⟨low, m.2 bar⟩), tell_wrote]

end

/-! ### TSEQ_CTRL (R304, R305, R314, R495) -/

section
variable {x : Tile} {v : W64}

theorem ctrlWrite_running (st : x.seq.st ≠ .halted) : ctrlWrite v x = if v[1] then haltSeq x else x := by
  unfold ctrlWrite
  rw [if_neg st]
  unfold seqStop
  rw [if_neg st]

theorem ctrlWrite_mode (st : x.seq.st = .halted) (no : v[0] = false) : ctrlWrite v x = { x with seq := { x.seq with chk := v[2] } } := by
  unfold ctrlWrite
  rw [if_pos st]
  simp [no]

/-- A start on a halted sequencer, after checked mode has been set. -/
theorem ctrlWrite_start (st : x.seq.st = .halted) (go : v[0] = true) :
    ctrlWrite v x = seqStart v[3] { x with seq := { x.seq with chk := v[2] } } := by
  unfold ctrlWrite
  rw [if_pos st]
  simp [go]

end

section
variable {x : Tile} {keep : Bool} {chk : Bool}

theorem seqStart_asleep (asleep : x.power ≠ .noon) : seqStart keep { x with seq := { x.seq with chk := chk } } = badStart x chk := by
  unfold seqStart
  dsimp only
  rw [if_pos asleep]
  rfl

variable (noon : x.power = .noon)
include noon

/-- A start in Noon: the kept store, the copy, or badstart. -/
theorem seqStart_noon : seqStart keep { x with seq := { x.seq with chk := chk } } =
    if keep = false ∨ x.seq.valid = false then
      if 0 < x.seq.codelen.toNat % 4096 ∧ x.seq.codelen.toNat % 4096 ≤ 2048 ∧
          x.seq.codebase.toNat + 32 * (x.seq.codelen.toNat % 4096) ≤ spSize then
        started x chk .loading false (x.cyc + 8 + (x.seq.codelen.toNat % 4096 + 31) / 32)
      else badStart x chk
    else started x chk .running x.seq.valid (x.cyc + 7) := by
  unfold seqStart
  dsimp only
  rw [if_neg (not_not_intro noon)]
  by_cases copies : keep = false ∨ x.seq.valid = false
  · have copies' : (!keep || !x.seq.valid) = true := by simpa using copies
    rw [copies', if_pos copies, Bool.true_and]
    by_cases fits : 0 < x.seq.codelen.toNat % 4096 ∧ x.seq.codelen.toNat % 4096 ≤ 2048 ∧
        x.seq.codebase.toNat + 32 * (x.seq.codelen.toNat % 4096) ≤ spSize
    · rw [if_pos fits, if_neg (by simp; omega), if_pos rfl]
      rfl
    · rw [if_neg fits, if_pos (by simp; omega)]
      rfl
  · have kept : (!keep || !x.seq.valid) = false := by simpa using copies
    rw [kept, if_neg copies, Bool.false_and, if_neg (by decide), if_neg (by decide)]
    rfl

end

/-! What the three commands write. -/

section
variable (v : W32)

theorem startWord_start : ((v ||| 1#32).zeroExtend 64 : W64)[0] = true := by simp
theorem startWord_stop : ((v ||| 1#32).zeroExtend 64 : W64)[1] = v[1] := by simp
theorem startWord_chk : ((v ||| 1#32).zeroExtend 64 : W64)[2] = v[2] := by simp
theorem startWord_keep : ((v ||| 1#32).zeroExtend 64 : W64)[3] = v[3] := by simp
theorem stopWord_start : ((v ||| 2#32).zeroExtend 64 : W64)[0] = v[0] := by simp
theorem stopWord_stop : ((v ||| 2#32).zeroExtend 64 : W64)[1] = true := by simp
theorem stopWord_chk : ((v ||| 2#32).zeroExtend 64 : W64)[2] = v[2] := by simp
theorem modeWord_start : ((v &&& ~~~3#32).zeroExtend 64 : W64)[0] = false := by simp
theorem modeWord_stop : ((v &&& ~~~3#32).zeroExtend 64 : W64)[1] = false := by simp
theorem modeWord_chk : ((v &&& ~~~3#32).zeroExtend 64 : W64)[2] = v[2] := by simp

/-- A word whose start bit is set does not change when it is set again. -/
theorem setStart_of_set (h : v[0] = true) : v ||| 2#32 ||| 1#32 = v ||| 2#32 := by
  apply BitVec.eq_of_getLsbD_eq
  intro i _
  by_cases zero : i = 0
  · subst zero
    simp [h]
  · have above : (1#32).getLsbD i = false := by simp [BitVec.getLsbD_one, zero]
    simp [above]

end

theorem ctrl_wrote {s : State} {a : Agent} {t : TileIx} {v : W32} {y : Tile} (h : Reaches s a t)
    (writes : ctrlWrite (v.zeroExtend 64) (s.tile t.val) = y) : .next (s.ctlWrite a t.val 0x800010 v) = tileWrote s t y := by
  refine ctlWrite_wrote (r := .ctrl) (w := { t := y }) h rfl (by decide) (by decide) (by decide) (.inr (by decide)) ?_
  rw [← writes]
  rfl

/-- The end of the code copy of a quiet tile. -/
theorem codeCopyComplete_tile {s : State} {t : TileIx} {y : Tile} (quiet : Quiet (s.tile t.val)) (live : y ≠ Tile.reset)
    (outs : y.outs = (s.tile t.val).outs)
    (work : (if (s.tile t.val).seq.st = .loading then codeCopied (toIssue (s.env t.val) (s.tile t.val)) else s.tile t.val) = y) :
    exec (.codeCopyComplete t) s = tileNext s t y := by
  have same := tileWork_eq (s := s) (t := t.val) (f := fun e x => if x.seq.st = .loading then codeCopied (toIssue e x) else x)
    (by rw [work]; exact live) (by rw [work, outs]; exact quiet.outs)
  rw [work] at same
  exact congrArg Host.Outcome.next same

/-- Settles O18: TSEQ_CTRL by the state of the sequencer, and the copy by whether it is in progress. -/
theorem startCopiesCodeAndStopHalts : Obligations.StartCopiesCodeAndStopHalts := by
  unfold Obligations.StartCopiesCodeAndStopHalts
  refine ⟨fun s a t v => ?_, fun s t => ?_⟩
  · intro x len copies fits reaches
    refine ⟨fun st => ?_, fun st => ?_⟩
    · have starts : ctrlWrite ((v ||| 1#32).zeroExtend 64) x = seqStart v[3] { x with seq := { x.seq with chk := v[2] } } := by
        rw [ctrlWrite_start st (startWord_start v), startWord_keep, startWord_chk]
      refine ⟨fun noon c f => ctrl_wrote reaches ?_, fun noon c => ctrl_wrote reaches ?_, fun bad => ctrl_wrote reaches ?_,
        fun no => ctrl_wrote reaches ?_, fun go => ?_, ctrl_wrote reaches ?_⟩
      · rw [starts, seqStart_noon noon, if_pos c, if_pos f]
      · rw [starts, seqStart_noon noon, if_neg c]
      · rw [starts]
        by_cases noon : x.power = .noon
        · obtain ⟨c, f⟩ := bad.resolve_left (not_not_intro noon)
          rw [seqStart_noon noon, if_pos c, if_neg f]
        · exact seqStart_asleep noon
      · rw [ctrlWrite_mode st ((stopWord_start v).trans no), stopWord_chk]
      · change Host.Outcome.next (s.ctlWrite a t.val 0x800010 (v ||| 2#32)) = .next (s.ctlWrite a t.val 0x800010 (v ||| 2#32 ||| 1#32))
        rw [setStart_of_set v go]
      · rw [ctrlWrite_mode st (modeWord_start v), modeWord_chk]
    · refine ⟨ctrl_wrote reaches ?_, ctrl_wrote reaches ?_, fun no => ctrl_wrote reaches ?_⟩
      · rw [ctrlWrite_running st, stopWord_stop, if_pos rfl]
        rfl
      · rw [ctrlWrite_running st, modeWord_stop, if_neg (by decide)]
      · rw [ctrlWrite_running st, startWord_stop, no, if_neg (by decide)]
  · intro x bundles live quiet
    refine ⟨fun st => codeCopyComplete_tile quiet live rfl (if_neg st), fun st due => ?_⟩
    have now : toIssue (s.env t.val) x = x := by
      unfold toIssue
      rw [Nat.sub_eq_zero_of_le due]
      rfl
    refine codeCopyComplete_tile quiet ?_ rfl ?_
    · intro e
      have valid := congrArg (fun y : Tile => y.seq.valid) e
      cases valid
    · rw [if_pos st]
      change codeCopied (toIssue (s.env t.val) x) = _
      rw [now]
      unfold codeCopied
      rw [if_neg (not_not_intro st)]

end Sys2Proof.Machine

/-! # Array enables, the drizzle compressor, vector clears, phase timers and the trace buffer -/

namespace Sys2Proof.Machine

open Sys2Proof.Slice0

/-! ### TMX_CLKEN (R139, R140) -/

/-- The enable of array m falls when TMX_CLKEN takes `w`. -/
def enableFalls (x : Tile) (w : BitVec 4) (m : Nat) : Bool := x.mx.clken.getLsbD m && !w.getLsbD m

/-- What a write of TMX_CLKEN does to array m. -/
def enableStep (w : BitVec 4) (x : Tile) (m : Nat) : Tile := if enableFalls x w m then abandonArray x m else x

theorem clkenWrite_eq (w : BitVec 4) (x : Tile) : clkenWrite w x =
    { [0, 1, 2, 3].foldl (enableStep w) x with mx := { ([0, 1, 2, 3].foldl (enableStep w) x).mx with clken := w } } := rfl

/-- Arrays whose enable does not fall stay as they are. -/
theorem enableSteps_stay {x : Tile} {w : BitVec 4} {l : List Nat} (stays : ∀ m ∈ l, enableFalls x w m = false) :
    l.foldl (enableStep w) x = x := by
  induction l with
  | nil => rfl
  | cons m l ih =>
    have step : enableStep w x m = x := if_neg (by rw [stays m List.mem_cons_self]; decide)
    rw [List.foldl_cons, step]
    exact ih (fun k hk => stays k (List.mem_cons_of_mem m hk))

theorem clkenWrite_stays {x : Tile} {w : BitVec 4} (stays : ∀ m < 4, enableFalls x w m = false) :
    clkenWrite w x = { x with mx := { x.mx with clken := w } } := by
  rw [clkenWrite_eq, enableSteps_stay (fun m hm => stays m (by simp at hm; omega))]

/-- When one enable falls, its array is abandoned, and the enables of the others are as they were. -/
theorem clkenWrite_falls {x : Tile} {w : BitVec 4} {n : Fin 4} (falls : enableFalls x w n.val = true)
    (others : ∀ m < 4, m ≠ n.val → enableFalls x w m = false) :
    clkenWrite w x = { abandonArray x n.val with mx := { (abandonArray x n.val).mx with clken := w } } := by
  have place : ∀ n : Fin 4, [0, 1, 2, 3] = List.range n.val ++ n.val :: (List.range 4).drop (n.val + 1) ∧
      (∀ m ∈ List.range n.val, m < 4 ∧ m ≠ n.val) ∧ ∀ m ∈ (List.range 4).drop (n.val + 1), m < 4 ∧ m ≠ n.val := by decide
  obtain ⟨split, before, behind⟩ := place n
  have step : enableStep w x n.val = abandonArray x n.val := if_pos falls
  rw [clkenWrite_eq, split, List.foldl_append, List.foldl_cons, enableSteps_stay (fun m hm => others m (before m hm).1 (before m hm).2),
    step, enableSteps_stay (x := abandonArray x n.val) (fun m hm => others m (behind m hm).1 (behind m hm).2)]

/-- Settles O19: the arrays are looked at one by one, and only one whose enable falls is abandoned. -/
theorem arrayEnableAbandonsItsArray : Obligations.ArrayEnableAbandonsItsArray := by
  unfold Obligations.ArrayEnableAbandonsItsArray
  intro s a t v n x w reaches noon
  have word : ((v.zeroExtend 64 : W64).truncate 4 : BitVec 4) = w := by
    simp [w, BitVec.setWidth_setWidth_of_le]
  have wrote {y : Tile} (writes : clkenWrite w x = y) : exec (.arrayEnableWrite a t v) s = tileWrote s t y := by
    refine ctlWrite_wrote (r := .mxClken) (w := { t := y }) reaches rfl (by decide) (by decide) (by decide) (.inl noon) ?_
    rw [← writes, ← word]
    rfl
  have stays (m : Nat) (h : x.mx.clken.getLsbD m = true → w.getLsbD m = true) : enableFalls x w m = false := by
    unfold enableFalls
    by_cases on : x.mx.clken.getLsbD m = true
    · simp [h on]
    · simp [on]
  refine ⟨fun kept => wrote (clkenWrite_stays (fun m hm => stays m (kept m hm))), fun on off others => ?_⟩
  refine ⟨_, _, wrote (clkenWrite_falls (n := n) ?_ (fun m hm ne => stays m (others m hm ne))), rfl, rfl, rfl, rfl, rfl, rfl⟩
  unfold enableFalls
  rw [on, off]
  rfl

/-! ### TVE_DZCFG (R158, R159, R162) -/

/-- The compressor with the format and row length of a word. -/
def dzConfigured (d : DzBlk) (v : W32) : DzBlk := { d with fmt := v.extractLsb' 24 4, rowlen := v.extractLsb' 0 24 }

section
variable {x : Tile} {v : W32} {w : W64} (fmt : w.extractLsb' 24 4 = v.extractLsb' 24 4) (rowlen : w.extractLsb' 0 24 = v.extractLsb' 0 24)
include fmt rowlen

theorem dzCfgWrite_abort (abort : w[29] = true) :
    dzCfgWrite w x = { x with dz := { dzConfigured x.dz v with active := false } } := by
  unfold dzCfgWrite
  rw [fmt, rowlen]
  exact if_pos abort

theorem dzCfgWrite_close (go_on : w[29] = false) (close : w[30] = true) :
    dzCfgWrite w x = if x.dz.active then { x with dz := dzConfigured x.dz v, tasks := x.tasks ++ [⟨x.cyc + 11, 4, 0, x.seqNo, 0, .dzRec⟩] }
      else { x with dz := dzConfigured x.dz v } := by
  unfold dzCfgWrite
  rw [fmt, rowlen]
  exact (if_neg (by rw [go_on]; decide)).trans (if_pos close)

theorem dzCfgWrite_open (go_on : w[29] = false) (no_close : w[30] = false) (open_ : w[31] = true) :
    dzCfgWrite w x = { x with dz := (dzConfigured x.dz v).openCmd } := by
  unfold dzCfgWrite
  rw [fmt, rowlen]
  exact (if_neg (by rw [go_on]; decide)).trans ((if_neg (by rw [no_close]; decide)).trans (if_pos open_))

end

/-- What an open needs of rows, row length, places and strides (R158). -/
def dzAligned (d : DzBlk) : Prop :=
  d.rowlen ≠ 0 ∧ d.rows ≠ 0 ∧ d.data.toNat % 64 = 0 ∧ d.dir.toNat % 64 = 0 ∧ d.dstr.toNat % 64 = 0 ∧
    4 * ((d.rowlen.toNat + 63) / 64) ≤ d.dstr.toNat

theorem openCmd_opens {d : DzBlk} {f : Fmt} (code : Fmt.ofCode d.fmt.toNat = some f) (ok : dzFmtOk f = true) (aligned : dzAligned d) :
    d.openCmd = { d with
      active := true, pos := 0, nnz := 0, elem := 0, occ := 0, pass := 0, row := 0, blk := 0, seg := [], fullSeen := false
      dropSeen := false } := by
  obtain ⟨row, rows, data, dir, dstr, fits⟩ := aligned
  unfold DzBlk.openCmd
  dsimp only
  rw [code]
  refine if_neg ?_
  unfold DzBlk.blocks
  simp [data, dir, dstr, ok, fits]
  exact ⟨row, rows⟩

theorem openCmd_refused {d : DzBlk}
    (bad : Fmt.ofCode d.fmt.toNat = none ∨ ¬ dzAligned d ∨ ∃ f, Fmt.ofCode d.fmt.toNat = some f ∧ dzFmtOk f = false) :
    d.openCmd = { d with stat := d.stat ||| 8#4, active := false } := by
  unfold DzBlk.openCmd
  dsimp only
  refine if_pos ?_
  rcases bad with none_ | crooked | ⟨f, code, unfit⟩
  · simp [none_]
  · by_contra good
    apply crooked
    unfold DzBlk.blocks at good
    simp only [Bool.or_eq_true, decide_eq_true_eq, Bool.not_eq_true', not_or, not_lt, ne_eq, not_not] at good
    obtain ⟨⟨⟨⟨⟨⟨row, rows⟩, -⟩, data⟩, dir⟩, dstr⟩, fits⟩ := good
    exact ⟨row, rows, data, dir, dstr, fits⟩
  · simp [code, unfit]

/-- A word with some of its command bits set or cleared holds the same format and row length. -/
theorem dzWord_fields (v set keep : W32) (s1 : set.extractLsb' 24 4 = 0) (s0 : set.extractLsb' 0 24 = 0)
    (k1 : keep.extractLsb' 24 4 = BitVec.allOnes _) (k0 : keep.extractLsb' 0 24 = BitVec.allOnes _) :
    (((v ||| set) &&& keep).zeroExtend 64 : W64).extractLsb' 24 4 = v.extractLsb' 24 4 ∧
    (((v ||| set) &&& keep).zeroExtend 64 : W64).extractLsb' 0 24 = v.extractLsb' 0 24 := by
  have field (i n : Nat) (h : i + n ≤ 32) (s : set.extractLsb' i n = 0) (k : keep.extractLsb' i n = BitVec.allOnes _) :
      (((v ||| set) &&& keep).zeroExtend 64 : W64).extractLsb' i n = v.extractLsb' i n := by
    apply BitVec.eq_of_getLsbD_eq
    intro j hj
    have sj : (set.extractLsb' i n).getLsbD j = false := by rw [s]; simp
    have kj : (keep.extractLsb' i n).getLsbD j = true := by rw [k]; simp [hj]
    simp only [BitVec.getLsbD_extractLsb', hj, decide_true, Bool.true_and] at sj kj ⊢
    simp [sj, kj, show i + j < 64 by omega]
  exact ⟨field 24 4 (by decide) s1 k1, field 0 24 (by decide) s0 k0⟩

/-- Settles O20: the word written has one of the command bits, and abort comes before close before open. -/
theorem drizzleOpensClosesAborts : Obligations.DrizzleOpensClosesAborts := by
  unfold Obligations.DrizzleOpensClosesAborts
  intro s a t v f x d aligned reaches noon
  have wrote {w : W32} {y : Tile} (writes : dzCfgWrite (w.zeroExtend 64) x = y) :
      .next (s.ctlWrite a t.val 0x820800 w) = tileWrote s t y := by
    refine ctlWrite_wrote (r := .dzCfg) (w := { t := y }) reaches rfl (by decide) (by decide) (by decide) (.inl noon) ?_
    rw [← writes]
    rfl
  have opened := dzWord_fields v 0x80000000#32 0x9FFFFFFF#32 (by decide) (by decide) (by decide) (by decide)
  have closed := dzWord_fields v 0x40000000#32 0xDFFFFFFF#32 (by decide) (by decide) (by decide) (by decide)
  have aborted := dzWord_fields v 0x20000000#32 0xFFFFFFFF#32 (by decide) (by decide) (by decide) (by decide)
  have abort_only : (v ||| 0x20000000#32) &&& 0xFFFFFFFF#32 = v ||| 0x20000000#32 := BitVec.and_allOnes
  rw [abort_only] at aborted
  have opens {y : DzBlk} (cmd : d.openCmd = y) : exec (.drizzleOpen a t v) s = tileWrote s t { x with dz := y } := by
    rw [← cmd]
    exact wrote (dzCfgWrite_open opened.1 opened.2 (by simp) (by simp) (by simp))
  have closes (h : v[29] = false) := dzCfgWrite_close (x := x) closed.1 closed.2 (by simp [h]) (by simp)
  refine ⟨fun code ok al => opens (openCmd_opens code ok al), fun bad => opens (openCmd_refused ?_), fun h on => wrote ?_,
    fun h off => wrote ?_, ?_⟩
  · rcases bad with none_ | crooked | unfit
    · exact .inl none_
    · exact .inr (.inl crooked)
    · exact .inr (.inr ⟨f, unfit⟩)
  · rw [closes h, if_pos on]
    rfl
  · rw [closes h, if_neg (by rw [off]; decide)]
    rfl
  · exact wrote (dzCfgWrite_abort aborted.1 aborted.2 (by simp))

end Sys2Proof.Machine

/-! # Vector clears, phase timers and the trace buffer -/

namespace Sys2Proof.Machine

open Sys2Proof.Slice0

/-! ### TVE_CTRL and TVE_RNGCTL (R190, R191, R201) -/

theorem veCtrl_clear {x : Tile} {g : Tag} {p : Part} {v : W64} {d : Nat} {free : W64} (go : v[0] = true) :
    tregWrite x g .veCtrl p v d free = if x.seq.st = .halted then { t := veClear x } else { t := x, status := 4 } := if_pos go

theorem rngctl_reseed {x : Tile} {g : Tag} {p : Part} {v : W64} {d : Nat} {free : W64} (go : v[0] = true) :
    tregWrite x g .rngctl p v d free =
      if x.seq.st = .halted then { t := rngReseedOp v[1] d x, ent := if v[1] then 0 else 512 } else { t := x, status := 4 } := if_pos go

/-- Settles O21: both registers act on a halted sequencer and answer STATE on another. -/
theorem vectorClearAndReseedSetBusy : Obligations.VectorClearAndReseedSetBusy := by
  unfold Obligations.VectorClearAndReseedSetBusy
  intro s a t v x reaches noon
  have clear {w : TWrite} (writes : (if x.seq.st = .halted then { t := veClear x } else { t := x, status := 4 }) = w) :
      exec (.vectorClear a t v) s = tileWrote s t w.t w.status w.ent :=
    ctlWrite_wrote (r := .veCtrl) reaches rfl (by decide) (by decide) (by decide) (.inl noon) ((veCtrl_clear (startWord_start v)).trans writes)
  have reseed {w : TWrite} (writes : (if x.seq.st = .halted then
        { t := rngReseedOp v[1] s.drawsEnt x, ent := if v[1] then 0 else 512 } else { t := x, status := 4 }) = w) :
      exec (.rngReseed a t v) s = tileWrote s t w.t w.status w.ent := by
    refine ctlWrite_wrote (r := .rngctl) reaches rfl (by decide) (by decide) (by decide) (.inl noon) ?_
    rw [rngctl_reseed (startWord_start v), startWord_stop]
    exact writes
  refine ⟨fun st => ⟨clear (if_pos st), fun fixed => ?_, fun drawn => ?_⟩, fun st => ⟨clear (if_neg st), reseed (if_neg st)⟩, rfl, rfl⟩
  · refine reseed (w := { t := rngReseedOp true s.drawsEnt x }) ?_
    rw [if_pos st, fixed]
    rfl
  · refine reseed (w := { t := rngReseedOp false s.drawsEnt x, ent := 512 }) ?_
    rw [if_pos st, drawn]
    rfl

/-! ### Phase timers (R514, R515, R518) -/

theorem hubPhase_stop (s : State) (n : Fin 8) : s.hubPhase n 0x10000000#32 = hubStopped s n := by
  unfold State.hubPhase hubStopped State.tphHub
  by_cases run : (tget PhTimer.zero s.trc.tph n.val).run = true
  · simp [run, PhTimer.stop]
    rfl
  · simp [run]

theorem traceRecord_tph (s : State) (own : Bool) (m : PhaseMsg) : (s.traceRecord own m).trc.tph = s.trc.tph := by
  unfold State.traceRecord
  dsimp only
  split
  · rfl
  · split
    · rfl
    · split <;> rfl

/-- A timer that counted its intervals is not at its reset values. -/
theorem counted_ne_zero {p : PhTimer} {i : BitVec 12} (h : p.ivl = if i = 0xFFF#12 then i else i + 1) : p ≠ PhTimer.zero := by
  rintro rfl
  have zero : (0 : BitVec 12) = if i = 0xFFF#12 then i else i + 1 := h
  split at zero
  · next top => rw [top] at zero; cases zero
  · next below => exact below (by bv_omega)

/-- A stopped timer does not run. -/
theorem hubStopped_run (s : State) (n : Fin 8) : (tget PhTimer.zero (hubStopped s n).trc.tph n.val).run = false := by
  unfold hubStopped
  by_cases run : (tget PhTimer.zero s.trc.tph n.val).run = true
  · dsimp only
    rw [if_pos run, traceRecord_tph, tget_tset_kept _ _ _ (counted_ne_zero rfl)]
  · dsimp only
    rw [if_neg run]
    exact Bool.not_eq_true _ ▸ run

theorem start_of_stopped {p : PhTimer} (h : p.run = false) (tag : BitVec 16) : p.start tag = { p with run := true, cnt := 0, tag := tag } := by
  unfold PhTimer.start PhTimer.stop
  rw [if_neg (by rw [h]; decide)]

theorem hubPhase_start (s : State) (n : Fin 8) : s.hubPhase n 0x20000000#32 = { hubStopped s n with trc := { (hubStopped s n).trc with
    tph := tset PhTimer.zero (hubStopped s n).trc.tph n.val
      { tget PhTimer.zero (hubStopped s n).trc.tph n.val with run := true, cnt := 0, tag := 0 } } } := by
  have stop_first : s.hubPhase n 0x20000000#32 = (s.hubPhase n 0x10000000#32).setTphHub n.val
      (((s.hubPhase n 0x10000000#32).tphHub n.val).start 0) := rfl
  rw [stop_first, hubPhase_stop, start_of_stopped (p := (hubStopped s n).tphHub n.val) (hubStopped_run s n)]
  rfl

/-- A write of HUB_TRCCTL with unfreeze and with wrap as it stands. -/
theorem trcCtl_unfreeze (s : State) : s.trcCtl (if s.trc.wrap then 0x40000001#32 else 0x40000000#32) =
    { s with trc := { s.trc with frozen := false } } := by
  have wrap : (if s.trc.wrap then 0x40000001#32 else 0x40000000#32 : W32)[0] = s.trc.wrap := by cases s.trc.wrap <;> rfl
  have unfreeze : (if s.trc.wrap then 0x40000001#32 else 0x40000000#32 : W32)[30] = true := by cases s.trc.wrap <;> rfl
  unfold State.trcCtl
  rw [wrap, unfreeze, Bool.not_true, Bool.and_false]

section
variable {s : State} {a : Agent}

theorem truncate_zeroExtend (v : W32) : ((v.zeroExtend 64 : W64).truncate 32 : W32) = v := by
  simp

theorem put32_phase (m : MayWrite s a) (n : Fin 8) (v : W32) :
    .next (s.put32 a (0x60100 + 0x10 * n.val) v) = hubWrote a (s.hubPhase n v) := by
  have place : hubBlock (0x60100 + 0x10 * n.val) = some (.trc, 0x100 + 0x10 * n.val) := by
    fin_cases n <;> rfl
  have register : (blockRead s a .trc (0x100 + 0x10 * n.val)).map (·.1) = some false := by
    fin_cases n <;> rfl
  rw [put32_wrote m (by omega) place rfl rfl v (by omega) register, blockWrite_phase, truncate_zeroExtend]

theorem put32_trcCtl (m : MayWrite s a) (v : W32) : .next (s.put32 a 0x60000 v) = hubWrote a (s.trcCtl v) := by
  rw [put32_wrote (o := 0) (b := .trc) m (by decide) rfl rfl rfl v (by decide) rfl, blockWrite_trcCtl, truncate_zeroExtend]

end

/-- Settles O22: the tile's timer is zeroed, the hub's is stopped before it starts, and unfreeze leaves wrap. -/
theorem phaseTimersClearStartAndStop : Obligations.PhaseTimersClearStartAndStop := by
  unfold Obligations.PhaseTimersClearStartAndStop
  intro s a t n x s1
  refine ⟨fun reaches noon => ?_, fun m => ⟨?_, ?_, ?_⟩⟩
  · have register : tileReg (0x850000 + 0x20 * n.val) = some (.phCtl n.val) := by
      fin_cases n <;> rfl
    have block : (0x850000 + 0x20 * n.val - spSize) / 0x10000 < 6 := by
      unfold spSize
      omega
    exact ctlWrite_wrote (r := .phCtl n.val) (w := { t := { x with tph := tset PhTimer.zero x.tph n.val PhTimer.zero } }) reaches register
      (by unfold spSize; omega) (by omega) block (.inl noon) rfl
  · exact (put32_phase m n _).trans (congrArg (fun u => hubWrote a u) (hubPhase_stop s n))
  · exact (put32_phase m n _).trans (congrArg (fun u => hubWrote a u) (hubPhase_start s n))
  · exact (put32_trcCtl m _).trans (congrArg (fun u => hubWrote a u) (trcCtl_unfreeze s))

/-! ### Phase records (R509, R516, R517) -/

theorem traceRecord_unclaimed {s : State} {own : Bool} {m : PhaseMsg} (h : s.trc.clmTrc &&& 0xF#32 ≠ 1 ∨ s.trc.frozen = true) :
    s.traceRecord own m = s := by
  unfold State.traceRecord
  exact if_pos (by simpa using h)

section
variable {s : State} {m : PhaseMsg} (claimed : s.trc.clmTrc &&& 0xF#32 = 1) (thawed : s.trc.frozen = false)
include claimed thawed

theorem traceRecord_foreign :
    s.traceRecord false m = { s with trc := { s.trc with xctx := if s.trc.xctx = 0xFFFF then s.trc.xctx else s.trc.xctx + 1 } } := by
  unfold State.traceRecord
  dsimp only
  rw [if_neg (by simp [claimed, thawed])]
  rfl

theorem traceRecord_full (held : s.trc.held = trcSize) (stay : s.trc.wrap = false) :
    s.traceRecord true m = { s with trc := { s.trc with full := if s.trc.full = 0xFFFF then s.trc.full else s.trc.full + 1 } } := by
  unfold State.traceRecord
  dsimp only
  rw [if_neg (by simp [claimed, thawed]), if_neg (by decide), if_pos (by simp [held, stay])]

theorem traceRecord_written (tile : m.hub = false) (room : s.trc.held ≠ trcSize ∨ s.trc.wrap = true) :
    s.traceRecord true m = { s with trc := { s.trc with
      buf := tset 0 s.trc.buf s.trc.next (BitVec.ofNat 128 (m.cycles.toNat + m.tag.toNat * 2 ^ 64 + m.timer.val * 2 ^ 80 +
        m.tile.val * 2 ^ 88 + s.trc.seq.toNat * 2 ^ 96))
      next := (s.trc.next + 1) % trcSize, held := min trcSize (s.trc.held + 1), seq := s.trc.seq + 1 } } := by
  unfold State.traceRecord
  dsimp only
  rw [if_neg (by simp [claimed, thawed]), if_neg (by decide), if_neg (by rcases room with h | h <;> simp [h]), tile]
  rfl

end

/-- The first record that waits in its tile leaves it. -/
theorem phaseArrives_first {s : State} {m : PhaseMsg} {rest : List TileOut} (tile : m.hub = false)
    (first : (s.tile m.tile.val).outs = .phase m.timer m.tag m.cycles :: rest) :
    s.phaseArrives m =
      if (routeTiles m.tile.val (hubPortTile m.tile.val)).all (fun i => s.groupRuns (groupOf i)) then
        (s.setTile m.tile.val { s.tile m.tile.val with outs := rest }).traceRecord (s.ownsTrace m.tile.val) m
      else s.setTile m.tile.val { s.tile m.tile.val with outs := rest } := by
  unfold State.phaseArrives
  dsimp only
  rw [tile, first]
  simp [phaseOut, State.modTile, first]

/-- Settles O23: what has left the tile is written, counted or discarded by the state of the buffer. -/
theorem phaseRecordsReachTraceBuffer : Obligations.PhaseRecordsReachTraceBuffer := by
  unfold Obligations.PhaseRecordsReachTraceBuffer
  intro s m rest x b y way gone tile first
  have arrives : exec (.phaseExportRecord m) s = .next (if way then gone.traceRecord (s.ownsTrace m.tile.val) m else gone) :=
    congrArg Host.Outcome.next (phaseArrives_first tile first)
  refine ⟨fun discarded => ?_, fun open_ claimed thawed => ⟨fun foreign => ?_, fun own held stay => ?_, fun own room => ?_⟩⟩
  · rw [arrives]
    by_cases open_ : way = true
    · rw [if_pos open_, traceRecord_unclaimed (s := gone) (discarded.resolve_left (by rw [open_]; decide))]
    · rw [if_neg open_]
  · rw [arrives, if_pos open_, foreign, traceRecord_foreign (s := gone) claimed thawed]
    rfl
  · rw [arrives, if_pos open_, own, traceRecord_full (s := gone) claimed thawed held stay]
    rfl
  · rw [arrives, if_pos open_, own, traceRecord_written (s := gone) claimed thawed tile room]
    rfl

end Sys2Proof.Machine

/-! # The vector slot at issue (R167 to R173, R182 to R188, R193 to R197) -/

namespace Sys2Proof.Machine

open Sys2Proof.Slice0

/-! ### A bundle with one operation of an engine -/

@[simp] theorem TileEnv.cyc_t (e : TileEnv) (x : Tile) : (e.cyc x).t = x := rfl

/-- An issue that leaves tile `y`: the bundle goes on, and the work that is due in the cycle is done. -/
theorem slot_issues {s : State} {t : TileIx} {o : BundleOps} {ck : List CheckFail} {y : Tile} (calm : Calm (s.tile t.val))
    (issue : ((s.env t.val).cyc (s.tile t.val)).issue o ck = (s.env t.val).cyc (goOn (issued y))) :
    .next (s.slot t o ck) = issues s t y := by
  have work : issueOps (s.env t.val) o ck (s.tile t.val) = (((s.env t.val).cyc (goOn (issued y))).runTasks).finish := by
    rw [issueOps_of_calm calm, issue]
  unfold issues cycleOn State.slot State.tileWork State.runTile State.modTile
  dsimp only
  rw [work]

/-- With nothing due in it the cycle is the clock alone. -/
theorem issues_quiet {s : State} {t : TileIx} {y : Tile} (quiet : Quiet y) : issues s t y = tileNext s t (after y) :=
  congrArg Host.Outcome.next (tileWork_clock (y := goOn (issued y)) (finish_quiet quiet.due) quiet.outs)

/-- A refused operation of the vector or load/store slot changes its status bit and the flags alone. -/
theorem veRefused_quiet {x : Tile} (q : Quiet x) (b : BitVec 5) : Quiet (veRefused x b) := ⟨q.due, q.outs⟩

section
variable {c : Cyc}

theorem veFlag_refused {e : TileEnv} {x : Tile} (un : x.seq.chk = false) (b : BitVec 5) (kind slot pc : Nat) :
    (e.cyc x).veFlag b kind slot pc = e.cyc (veRefused x b) := veFlag_off un

/-- A bundle with an operation of the vector slot alone. -/
theorem issue_ve (un : c.t.seq.chk = false) (op : VOp) (f : VecF) (ck : List CheckFail) : c.issue { ve := some (some op, f) } ck =
    { c.vIssue c.t.seqNo c.t.seq.pc.toNat op f (ck.filter (·.unit = 1)) with
      t := goOn (issued (c.vIssue c.t.seqNo c.t.seq.pc.toNat op f (ck.filter (·.unit = 1))).t) } := by
  unfold Cyc.issue
  dsimp only
  rw [seqNop un]
  rfl

end

section
variable {s : State} {t : TileIx} {op : VOp} {f : VecF} {ck : List CheckFail} {y : Tile} (calm : Calm (s.tile t.val))
  (issue : ((s.env t.val).cyc (s.tile t.val)).vIssue (s.tile t.val).seqNo (s.tile t.val).seq.pc.toNat op f (ck.filter (·.unit = 1)) =
    (s.env t.val).cyc y)
include calm issue

/-- A command of the vector slot. -/
theorem veOp_issues : .next (s.veOp t op f ck) = issues s t y := by
  refine slot_issues calm ?_
  rw [issue_ve (by exact calm.unchecked)]
  have issue' : ((s.env t.val).cyc (s.tile t.val)).vIssue ((s.env t.val).cyc (s.tile t.val)).t.seqNo
    ((s.env t.val).cyc (s.tile t.val)).t.seq.pc.toNat op f (ck.filter (·.unit = 1)) = (s.env t.val).cyc y := issue
  rw [issue']
  rfl

theorem veOp_quiet (quiet : Quiet y) : .next (s.veOp t op f ck) = tileNext s t (after y) :=
  (veOp_issues calm issue).trans (issues_quiet quiet)

end

/-! ### Operations that enter the lanes -/

/-- What an operation that enters the lanes by chunks, accumulator rows or descriptors does at issue. -/
def Cyc.vEnter (c : Cyc) (k : Task) (v : VInst) : Cyc :=
  if v.f.form then
    if descRefused v then c.veFlag 4 7 2 k.pc
    else if c.t.cyc < c.t.ve.lanesFree then c.veFlag 2 4 2 k.pc
    else { c with t := pathsFor c.t }.taskList k ((List.range v.nDesc).map (fun i => (c.t.cyc + i, 0, Act.vDesc v i)))
  else if v.countBad then c.veFlag 4 7 2 k.pc
  else if c.t.cyc < c.t.ve.lanesFree then c.veFlag 2 4 2 k.pc
  else if v.f.asrc ≠ 0 then
    (({ c with t := lanesFor c.t v.accRows } : Cyc).vExpects k v).taskList k
      ((List.range v.accRows).map (fun i => (c.t.cyc + i, 20, Act.vRow v i)))
  else
    (({ c with t := lanesFor c.t (vq v.op v.f.fm * v.chunks) } : Cyc).vExpects k v).taskList k
      ((List.range v.chunks).map (fun j => (c.t.cyc + vq v.op v.f.fm * j, 20, Act.vChunk v j)))

/-- The operations with rules of their own at issue. -/
def ownIssue : List VOp := [.sumClear, .ptswap, .ptld, .ptmac, .rcmb, .expand]

theorem vIssue_enters {c : Cyc} {sq pc : Nat} {op : VOp} {f : VecF} {ck : List CheckFail} (h : op ∉ ownIssue) :
    c.vIssue sq pc op f ck = c.vEnter ⟨c.t.cyc, 2, 0, sq, pc, .dzRec⟩
      ⟨op, f, scalarOf c.t (f.va.toNat % 16), scalarOf c.t (f.vb.toNat % 16), scalarOf c.t (f.vd.toNat % 16), ck, c.t.cyc, c.t.ve.ptbank⟩ := by
  cases op with
  | sumClear | ptswap | ptld | ptmac | rcmb | expand => exact absurd (by decide) h
  | _ => rfl

/-- The commands that enter the lanes issue their operation in the vector slot. -/
theorem exec_vecOp {o : VOp × (TileIx → VecF → List CheckFail → Instr)} (h : o ∈ vecOps) :
    o.1 ∉ ownIssue ∧ ∀ t f ck s, exec (o.2 t f ck) s = .next (s.veOp t o.1 f ck) := by
  have ops : ∀ op ∈ vecOps.map (·.1), op ∉ ownIssue := by decide
  have commands : ∀ o ∈ vecOps, ∀ t f ck s, exec (o.2 t f ck) s = .next (s.veOp t o.1 f ck) := by
    simp only [vecOps, elemOps, List.cons_append, List.nil_append, List.forall_mem_cons]
    exact ⟨fun _ _ _ _ => rfl, fun _ _ _ _ => rfl, fun _ _ _ _ => rfl, fun _ _ _ _ => rfl, fun _ _ _ _ => rfl, fun _ _ _ _ => rfl,
      fun _ _ _ _ => rfl, fun _ _ _ _ => rfl, fun _ _ _ _ => rfl, fun _ _ _ _ => rfl, fun _ _ _ _ => rfl, fun _ _ _ _ => rfl,
      fun _ _ _ _ => rfl, fun _ _ _ _ => rfl, fun _ _ _ _ => rfl, fun _ _ _ _ => rfl, fun _ _ _ _ => rfl, fun _ _ _ _ => rfl,
      fun _ _ _ _ => rfl, fun _ _ _ _ => rfl, fun _ _ _ _ => rfl, fun _ _ _ _ => rfl, fun _ _ _ _ => rfl, fun _ _ _ _ => rfl,
      fun _ _ _ _ => rfl, fun _ _ _ _ => rfl, fun _ _ _ _ => rfl, nofun⟩
  exact ⟨ops o.1 (List.mem_map_of_mem h), commands o h⟩

/-- Tasks of a bundle on tile `y`, as the cycle lists them. -/
theorem taskList_placed {e : TileEnv} {y : Tile} {k : Task} {l : List (Nat × Nat × Act)} (seq : k.seq = y.seqNo) (pc : k.pc = y.seq.pc.toNat) :
    (e.cyc y).taskList k l = e.cyc (placed y k.slot l) := by
  unfold Cyc.taskList
  rw [seq, pc]
  rfl

section
variable {e : TileEnv} {x : Tile} {k : Task} {v : VInst}

section
variable (count : v.f.form = false)
include count

theorem vEnter_countBad (un : x.seq.chk = false) (bad : v.countBad = true) : (e.cyc x).vEnter k v = e.cyc (veRefused x 4) :=
  (if_neg (by rw [count]; decide)).trans ((if_pos bad).trans (veFlag_refused un 4 7 2 k.pc))

variable (good : v.countBad = false)
include good

theorem vEnter_countBusy (un : x.seq.chk = false) (busy : x.cyc < x.ve.lanesFree) : (e.cyc x).vEnter k v = e.cyc (veRefused x 2) :=
  (if_neg (by rw [count]; decide)).trans ((if_neg (by rw [good]; decide)).trans ((if_pos busy).trans (veFlag_refused un 2 4 2 k.pc)))

variable (un : x.seq.chk = false) (free : x.ve.lanesFree ≤ x.cyc) (seq : k.seq = x.seqNo) (pc : k.pc = x.seq.pc.toNat)
include un free seq pc

theorem vEnter_chunks (vector : v.f.asrc = 0) : (e.cyc x).vEnter k v =
    e.cyc (placed (lanesFor x (vq v.op v.f.fm * v.chunks)) k.slot
      ((List.range v.chunks).map (fun j => (x.cyc + vq v.op v.f.fm * j, 20, .vChunk v j)))) := by
  unfold Cyc.vEnter
  rw [TileEnv.cyc_t, count, good, if_neg (by decide), if_neg (by decide), if_neg (Nat.not_lt.2 free), if_neg (not_not_intro vector), vExpects_off (by exact un)]
  exact taskList_placed (y := lanesFor x _) seq pc

theorem vEnter_rows (acc : v.f.asrc ≠ 0) : (e.cyc x).vEnter k v =
    e.cyc (placed (lanesFor x v.accRows) k.slot ((List.range v.accRows).map (fun i => (x.cyc + i, 20, .vRow v i)))) := by
  unfold Cyc.vEnter
  rw [TileEnv.cyc_t, count, good, if_neg (by decide), if_neg (by decide), if_neg (Nat.not_lt.2 free), if_pos acc, vExpects_off (by exact un)]
  exact taskList_placed (y := lanesFor x _) seq pc

end

section
variable (desc : v.f.form = true)
include desc

theorem vEnter_descBad (un : x.seq.chk = false) (bad : descRefused v = true) : (e.cyc x).vEnter k v = e.cyc (veRefused x 4) :=
  (if_pos desc).trans ((if_pos bad).trans (veFlag_refused un 4 7 2 k.pc))

variable (good : descRefused v = false)
include good

theorem vEnter_descBusy (un : x.seq.chk = false) (busy : x.cyc < x.ve.lanesFree) : (e.cyc x).vEnter k v = e.cyc (veRefused x 2) :=
  (if_pos desc).trans ((if_neg (by rw [good]; decide)).trans ((if_pos busy).trans (veFlag_refused un 2 4 2 k.pc)))

theorem vEnter_descriptors (free : x.ve.lanesFree ≤ x.cyc) (seq : k.seq = x.seqNo) (pc : k.pc = x.seq.pc.toNat) : (e.cyc x).vEnter k v =
    e.cyc (placed (pathsFor x) k.slot ((List.range v.nDesc).map (fun i => (x.cyc + i, 0, .vDesc v i)))) :=
  (if_pos desc).trans ((if_neg (by rw [good]; decide)).trans ((if_neg (Nat.not_lt.2 free)).trans
    (taskList_placed (y := pathsFor x) seq pc)))

end

end

/-- Settles O24: each operation enters by the one rule of `vEnter`. -/
theorem vectorOperationsEnterLanes : Obligations.VectorOperationsEnterLanes := by
  unfold Obligations.VectorOperationsEnterLanes
  intro s t f ck o ho x v free enters calm
  obtain ⟨own, command⟩ := exec_vecOp ho
  have un := calm.unchecked
  have issue {y : Tile} (enter : ((s.env t.val).cyc x).vEnter ⟨x.cyc, 2, 0, x.seqNo, x.seq.pc.toNat, .dzRec⟩ v = (s.env t.val).cyc y) :
      ((s.env t.val).cyc x).vIssue x.seqNo x.seq.pc.toNat o.1 f (ck.filter (·.unit = 1)) = (s.env t.val).cyc y :=
    (vIssue_enters own).trans enter
  refine ⟨fun form good free vector => ?_, fun form good free acc => ?_, fun form good free => ?_, fun form bad => ?_, fun form bad => ?_,
    fun form good busy => ?_, fun form good busy => ?_⟩
  · exact (command t f ck s).trans (veOp_issues calm (issue (vEnter_chunks form good un free rfl rfl vector)))
  · exact (command t f ck s).trans (veOp_issues calm (issue (vEnter_rows form good un free rfl rfl acc)))
  · exact (command t f ck s).trans (veOp_issues calm (issue (vEnter_descriptors form good free rfl rfl)))
  · exact (command t f ck s).trans (veOp_quiet calm (issue (vEnter_countBad form un bad)) (veRefused_quiet calm.toQuiet 4))
  · exact (command t f ck s).trans (veOp_quiet calm (issue (vEnter_descBad form un bad)) (veRefused_quiet calm.toQuiet 4))
  · exact (command t f ck s).trans (veOp_quiet calm (issue (vEnter_countBusy form good un (Nat.lt_of_not_le busy))) (veRefused_quiet calm.toQuiet 2))
  · exact (command t f ck s).trans (veOp_quiet calm (issue (vEnter_descBusy form good un (Nat.lt_of_not_le busy))) (veRefused_quiet calm.toQuiet 2))

end Sys2Proof.Machine

/-! # Reset pins, lost clocks and service cores -/

namespace Sys2Proof.Machine

open Sys2Proof.Slice0

/-! ### Next states that depend on a condition -/

theorem next_if_pos {c : Prop} [Decidable c] {u v : State} (h : c) : (.next (if c then u else v) : Host.Outcome State Fault Refusal) = .next u :=
  congrArg _ (if_pos h)

theorem next_if_neg {c : Prop} [Decidable c] {u v : State} (h : ¬ c) : (.next (if c then u else v) : Host.Outcome State Fault Refusal) = .next v :=
  congrArg _ (if_neg h)

theorem next_if_false {c : Bool} {u v : State} (h : c = false) : (.next (if c then u else v) : Host.Outcome State Fault Refusal) = .next v :=
  next_if_neg (by simp [h])

/-- A condition of two parts, the first of them decided. -/
theorem decide_and_holds {p : Prop} [Decidable p] {b : Bool} (hp : p) (hb : b = true) : (decide p && b) = true := by
  simp [hp, hb]

theorem decide_and_fails {p : Prop} [Decidable p] {b : Bool} (h : ¬ p ∨ b = false) : ¬ (decide p && b) = true := by
  rw [Bool.and_eq_true, decide_eq_true_eq]
  rintro ⟨hp, hb⟩
  rcases h with no | off
  · exact no hp
  · rw [hb] at off
    cases off

/-! ### Reset pins and clocks (R520 to R525) -/

/-- PERST_N takes the link down and resets the endpoint (R439, R520). -/
theorem linkDown_up {s : State} (up : s.pci.up = true) : s.linkDown =
    ((s.pci.hostReqs.foldl (fun t x => t.respond x.2 2 (List.replicate (opLen x.2.op) (0, false)))
      ({ s with pci := { s.pci with up := false, width := 0, rate := 0, hostReqs := [] } } : State)).endSession.latch 16) := by
  unfold State.linkDown
  exact if_neg (by simp [up])

theorem linkDown_down {s : State} (down : s.pci.up = false) : s.linkDown = s := by
  unfold State.linkDown
  exact if_pos (by simp [down])

theorem execLkoRstNDeassert_boots {s : State} (porst : s.pin.porst = true) (clock : s.pin.aoLost = false) (image : (s.tryImage 1).2.1 = 0)
    (down : s.lko.up = false) : exec .lkoRstNDeassert s = .next (s.lko.held.foldl State.mailbox
      { s with pin := { s.pin with lkoRst := true }, lko := { s.lko with up := true, held := [] } }) :=
  congrArg Host.Outcome.next (if_pos (by simp [porst, clock, image, down]))

theorem execLkoRstNDeassert_stays {s : State}
    (no : ¬ (s.pin.porst = true ∧ s.pin.aoLost = false ∧ (s.tryImage 1).2.1 = 0) ∨ s.lko.up = true) :
    exec .lkoRstNDeassert s = .next { s with pin := { s.pin with lkoRst := true } } :=
  congrArg Host.Outcome.next (if_neg (by
    rintro boots
    simp only [Bool.and_eq_true, Bool.not_eq_true', decide_eq_true_eq] at boots
    obtain ⟨⟨⟨porst, clock⟩, image⟩, down⟩ := boots
    rcases no with no | up
    · exact no ⟨porst, clock, image⟩
    · rw [up] at down
      cases down))

/-- Settles O57: a case per pin; only the Lookout's release and PERST_N ask for more than the branch of their command. -/
theorem resetPinsResetAndStartTheDevice : Obligations.ResetPinsResetAndStartTheDevice := by
  unfold Obligations.ResetPinsResetAndStartTheDevice
  intro s straps fuseOk stackOk under latched down boots freed noted

  have linkDown : s.linkDown = down := by
    by_cases up : s.pci.up = true
    · exact (linkDown_up up).trans (if_pos up).symm
    · exact (linkDown_down (Bool.not_eq_true _ ▸ up)).trans (if_neg up).symm
  refine ⟨rfl, fun high => if_pos high, fun low => if_neg (by simp [low]), ?_, rfl, rfl,
    fun h down => execLkoRstNDeassert_boots h.1 h.2.1 h.2.2 down, execLkoRstNDeassert_stays, fun wait => ⟨next_if_pos wait, next_if_pos wait⟩,
    fun wait => ⟨next_if_false wait, next_if_false wait⟩, rfl, fun lost => next_if_pos lost, fun kept => next_if_false kept,
    fun down => next_if_false down, fun up => next_if_pos up⟩
  change Host.Outcome.next s.perstAssert = _
  unfold State.perstAssert
  rw [linkDown]

/-! ### Service cores (R529, R530, R532) -/

/-- The offset of HUB_SCWDn. -/
def scwd (n : Fin 8) : Nat := 0x240 + 8 * n.val

theorem blockWrite_scwd (s : State) (a : Agent) (n : Fin 8) (v : W64) :
    blockWrite s a .hub (scwd n) .all v = (s.scwdWrite a n.val (v.truncate 32), 0) := by
  fin_cases n <;> rfl

theorem put32_scwd {s : State} {a : Agent} (m : MayWrite s a) (n : Fin 8) (v : W32) :
    .next (s.put32 a (scwd n) v) = hubWrote a (s.scwdWrite a n.val v) := by
  have place : hubBlock (scwd n) = some (.hub, scwd n) := by
    fin_cases n <;> rfl
  have register : (blockRead s a .hub (scwd n)).map (·.1) = some false := by
    fin_cases n <;> rfl
  rw [put32_wrote m (by unfold scwd; omega) place rfl rfl v (by unfold scwd; omega) register, blockWrite_scwd, truncate_zeroExtend]



theorem scwdWrite_keeps {s : State} {a : Agent} {n : Nat} {v : W32} (no : v[28] = false) : s.scwdWrite a n v =
    { s with hub := { s.hub with scwd := tset 0xF4240#32 s.hub.scwd n (v &&& 0x40FFFFFF#32) } } :=
  if_neg (by simp [no])

theorem scwdWrite_releases {s : State} {a : Agent} {n : Nat} {v : W32} (release : v[28] = true) : s.scwdWrite a n v =
    ({ s with hub := { s.hub with scwd := tset 0xF4240#32 s.hub.scwd n (v &&& 0x40FFFFFF#32) } } : State).releaseCore a n :=
  if_pos release

/-- Kick and release are commands: they do not change the period that is written. -/
theorem period_command (v c : W32) (command : c &&& 0x40FFFFFF#32 = 0#32) : (v ||| c) &&& 0x40FFFFFF#32 = v &&& 0x40FFFFFF#32 := by
  rw [BitVec.and_or_distrib_right, command, BitVec.or_zero]

/-- Settles O58: HUB_SCWDn keeps kick and release as commands, so what is written is the period; release asks whose write it is. -/
theorem serviceCoresAreHeldAndReleased : Obligations.ServiceCoresAreHeldAndReleased := by
  unfold Obligations.ServiceCoresAreHeldAndReleased
  intro s a n v residue addr i held period frees night
  have command {c : W32} (ignored : c &&& 0x40FFFFFF#32 = 0#32) : period (v ||| c) = period v := by
    unfold period
    rw [period_command v c ignored]
  have kicked : period (v ||| 0x80000000#32) = period v := command (by decide)
  have released : period (v ||| 0x10000000#32) = period v := command (by decide)
  have kick : (v ||| 0x80000000#32)[28] = v[28] := (BitVec.getElem_or _).trans (Bool.or_false _)
  have release : (v ||| 0x10000000#32)[28] = true := (BitVec.getElem_or _).trans (Bool.or_true _)
  refine ⟨fun run kicked => next_if_pos (decide_and_holds run kicked), fun no => next_if_neg (decide_and_fails no), fun run => next_if_pos run,
    fun no => next_if_neg no, fun m => ?_, fun no => next_if_neg (decide_and_fails no), fun held up => next_if_pos (decide_and_holds held up)⟩
  · have wrote {c : W32} {u : State} (h : s.scwdWrite a i (v ||| c) = u) : .next (s.put32 a (scwd n) (v ||| c)) = hubWrote a u := by
      rw [put32_scwd m, h]
    have freed : frees → (period v).releaseCore a i = (period v).setCore i .run := fun f => (release_eq (period v) a n).trans (if_pos f)
    have kept : ¬ frees → (period v).releaseCore a i = period v := fun f => (release_eq (period v) a n).trans (if_neg f)
    refine ⟨fun no => wrote ?_, fun f => wrote ?_, fun f => wrote ?_, fun rel f => wrote ?_, fun rel f => wrote ?_⟩
    · exact (scwdWrite_keeps (kick.trans no)).trans kicked
    · rw [scwdWrite_releases release]
      exact (congrArg (fun t => t.releaseCore a i) released).trans (freed f)
    · rw [scwdWrite_releases release]
      exact (congrArg (fun t => t.releaseCore a i) released).trans (kept f)
    · rw [scwdWrite_releases (kick.trans rel)]
      exact (congrArg (fun t => t.releaseCore a i) kicked).trans (freed f)
    · rw [scwdWrite_releases (kick.trans rel)]
      exact (congrArg (fun t => t.releaseCore a i) kicked).trans (kept f)

end Sys2Proof.Machine

/-! # Register accesses, window requests and EVT messages -/

namespace Sys2Proof.Machine

open Sys2Proof.Slice0

/-- Settles O59: `reg_access` and `hub_access` say what an address reaches, `due_iff` when a message may arrive and `deliver_eq` what it does. -/
theorem accessesReachWhatTheyName : Obligations.AccessesReachWhatTheyName := by
  unfold Obligations.AccessesReachWhatTheyName
  intro s a addr w8 v r m n wr inWindow inHub zeros off told tgt arrives left z mine
  obtain ⟨stopped, foreign, counts⟩ := deliver_eq s m (s.evtLeft m) rfl
  have leaves : s.evtLeft m = left := by
    unfold State.evtLeft left
    cases m.src <;> rfl
  have due : s.evtDue m = true ↔ arrives := due_iff s m
  have delivered {u : State} (h : arrives) (does : (s.evtLeft m).deliverEvt m = u) : exec (.evtMessage m) s = .next u :=
    (if_pos (due.mpr h)).trans (congrArg _ does)
  refine ⟨fun bad => ⟨if_neg (by simp [bad]), if_neg (by simp [bad])⟩, fun good h0 h2 => ⟨?_, ?_⟩, fun x op h0 h2 => ?_, fun bad => if_pos ?_,
    fun wf high guest => ⟨fun no => ?_, fun may => ?_⟩, fun no => if_neg (mt due.mp no), fun h run => (delivered h (stopped run)).trans ?_,
    fun h run other => (delivered h (foreign run other)).trans ?_, fun h run own => (delivered h (counts run own)).trans ?_⟩
  · exact (if_pos good).trans (tell_told h0 h2 (s.regAccess a addr wr) wr)
  · exact (if_pos good).trans (tell_told h0 h2 (s.regAccess a addr (.read n)) (.read n))
  · obtain ⟨window, outside, hub⟩ := reg_access (s := s) h0 h2 x op
    obtain ⟨nowhere, place⟩ := hub_access (s := s) (a := a) (o := off x) (op := op)
    refine ⟨window, outside, fun inside => ⟨fun h => (hub inside).trans (nowhere h), fun b l h => ?_⟩⟩
    obtain ⟨refused, gated, reached⟩ := place b l h
    refine ⟨fun no => (hub inside).trans (refused no), fun may off => (hub inside).trans (gated may off), fun may on => (hub inside).trans ?_⟩
    refine (reached may on).trans ?_
    cases op <;> rfl
  · simpa using bad
  · exact (if_neg (by simp [wf, guest]; omega)).trans (if_neg (by simp [no]))
  · exact (if_neg (by simp [wf, guest]; omega)).trans (if_pos may)
  all_goals exact congrArg _ (by rw [leaves])

end Sys2Proof.Machine

/-! # Interrupts: reads of a register, claims and completions -/

namespace Sys2Proof.Machine

open Sys2Proof.Slice0

/-! ### Reads and refused writes of hub registers (R424, R482, R547) -/

section
variable {s : State} {a : Agent} {off o : Nat} {b : HubBlock}

theorem hubAccess_read {x : W64} (block : hubBlock off = some (b, o)) (aligned : off % 4 = 0) (register : blockRead s a b o = some (false, x))
    (open_ : mayReach a b o = true) (runs : s.gated b o = false) :
    s.hubAccess a off (.read 4) = ⟨blockRc s b o, 0, clean (leBytes 4 x.toNat)⟩ := by
  have place := hubPlace_four (s := s) (a := a) (w := false) block aligned (congrArg (Option.map (·.1)) register)
  rw [((hub_access (s := s) (a := a) (o := off) (op := .read 4)).2 b _ place).2.2 (by simp [open_]) (by simp [runs])]
  have value : (s.hubReadParts a b [(o, .all)] 0).1 = x := by
    unfold State.hubReadParts
    rw [register]
    simp [State.hubReadParts, Part.pick]
  exact congrArg (fun y : W64 => (⟨blockRc s b o, 0, clean (leBytes 4 y.toNat)⟩ : Ans)) value

theorem regAccess_hub (h0 : a ≠ .bar0) (h2 : a ≠ .bar2) (inside : off < 2 ^ 28) (op : ReqOp) :
    s.regAccess a (hubBase + off) op = s.hubAccess a off op := by
  rw [(reg_access h0 h2 (hubBase + off) op).2.2 ⟨by omega, by omega⟩, Nat.add_sub_cancel_left]

theorem getReg_agent {x : W64} (h0 : a ≠ .bar0) (h2 : a ≠ .bar2) (inside : off < 2 ^ 28) (block : hubBlock off = some (b, o))
    (aligned : off % 4 = 0) (register : blockRead s a b o = some (false, x)) (open_ : mayReach a b o = true) (runs : s.gated b o = false) :
    s.getReg a (hubBase + off) false = (blockRc s b o).emit (.regValue 0 (BitVec.ofNat 64 (x.toNat % 2 ^ 32))) := by
  have value : BitVec.ofNat 64 (leNatP (clean (leBytes 4 x.toNat))) = BitVec.ofNat 64 (x.toNat % 2 ^ 32) := by
    rw [leNatP_clean, leNat_leBytes]
    norm_num
  have access := (regAccess_hub h0 h2 inside (.read 4)).trans (hubAccess_read block aligned register open_ runs)
  have answer := tell_told h0 h2 (s.regAccess a (hubBase + off) (.read 4)) (.read 4)
  rw [access, value] at answer
  exact (congrArg (fun r => Ans.tell r a (.read 4)) access).trans (Host.Outcome.next.inj answer)

theorem getReg_bar0 {x : W64} (guest : s.sec.conf = false) (low : off < 0x4000000) (block : hubBlock off = some (b, o))
    (aligned : off % 4 = 0) (register : blockRead s .bar0 b o = some (false, x)) (open_ : mayReach .bar0 b o = true)
    (runs : s.gated b o = false) :
    s.getReg .bar0 (hubBase + off) false = (blockRc s b o).emit (.barData (clean (leBytes 4 x.toNat))) := by
  have access : s.regAccess .bar0 (hubBase + off) (.read 4) = ⟨blockRc s b o, 0, clean (leBytes 4 x.toNat)⟩ := by
    unfold State.regAccess
    rw [if_neg (by simp), if_pos rfl]
    unfold State.bar0Reg
    dsimp only
    simp only [Nat.add_sub_cancel_left, low, guest, decide_true, Bool.not_false, Bool.true_or, Bool.and_self, if_true,
      hubAccess_read block aligned register open_ runs]
    exact if_neg (by decide)
  unfold State.getReg
  dsimp only
  rw [show (if false = true then 8 else 4) = 4 from rfl, access]
  rfl

/-- A write of a hub register by an agent that is no BAR. -/
theorem put32_agent (h0 : a ≠ .bar0) (h2 : a ≠ .bar2) (inside : off < 2 ^ 28) (block : hubBlock off = some (b, o)) (open_ : mayReach a b o = true)
    (runs : s.gated b o = false) (v : W32) (aligned : off % 4 = 0) (register : (blockRead s a b o).map (·.1) = some false) :
    .next (s.put32 a off v) = hubWrote a (blockWrite s a b o .all (v.zeroExtend 64)).1 (blockWrite s a b o .all (v.zeroExtend 64)).2 := by
  rw [put32_eq inside block aligned register open_ runs h2 (absurd · h0), tell_wrote]

theorem opLen_write4 (v : W64) : opLen (.write (clean (leBytes 4 v.toNat))) = 4 := by
  simp [opLen, clean, leBytes_length]

/-- A write that comes to nothing answers with the status of its access. -/
theorem put32_answers (h0 : a ≠ .bar0) (h2 : a ≠ .bar2) (inside : off < 2 ^ 28) (v : W32) {status : Nat}
    (access : s.hubAccess a off (.write (clean (leBytes 4 (v.zeroExtend 64 : W64).toNat))) = ⟨s, status, []⟩) :
    .next (s.put32 a off v) = hubWrote a s status :=
  calc Host.Outcome.next (s.put32 a off v)
    _ = .next ((⟨s, status, []⟩ : Ans).tell a (.write (clean (leBytes 4 (v.zeroExtend 64 : W64).toNat)))) :=
        congrArg (fun r => Host.Outcome.next (Ans.tell r a (.write (clean (leBytes 4 (v.zeroExtend 64 : W64).toNat)))))
          ((regAccess_hub h0 h2 inside _).trans access)
    _ = hubWrote a s status := by
        cases a with
        | bar0 => exact absurd rfl h0
        | bar2 => exact absurd rfl h2
        | _ => rfl

/-- A register that the agent may not reach refuses its write with status 1 (R482). -/
theorem put32_refused (h0 : a ≠ .bar0) (h2 : a ≠ .bar2) (inside : off < 2 ^ 28) (block : hubBlock off = some (b, o))
    (shut : mayReach a b o = false) (v : W32) (aligned : off % 4 = 0) (register : (blockRead s a b o).map (·.1) = some false) :
    .next (s.put32 a off v) = hubWrote a s 1 := by
  refine put32_answers h0 h2 inside v (((hub_access (op := .write _)).2 b [(o, .all)] ?_).1 (by simp [shut]))
  rw [opLen_write4]
  exact hubPlace_four block aligned register

/-- An offset that is no register refuses a write with status 3. -/
theorem put32_nowhere (h0 : a ≠ .bar0) (h2 : a ≠ .bar2) (inside : off < 2 ^ 28) (block : hubBlock off = some (b, o)) (v : W32)
    (absent : blockRead s a b o = none) (low : o % 8 ≠ 4) : .next (s.put32 a off v) = hubWrote a s 3 := by
  refine put32_answers h0 h2 inside v ((hub_access (op := .write _)).1 ?_)
  rw [opLen_write4]
  unfold State.hubPlace
  rw [block]
  simp [absent, low]

end

/-! ### Claim and completion (R475 to R479) -/

section
variable (s : State) (a : Agent) (n : Fin 10)



theorem blockRead_claim : blockRead s a .icu (0x5004 + 0x10 * n.val) = some (false, BitVec.ofNat 64 (s.winner n.val)) := by
  fin_cases n <;> rfl

theorem blockRc_claim : blockRc s .icu (0x5004 + 0x10 * n.val) = (s.icuClaim n.val).2.seeLine8 := by
  fin_cases n <;> rfl

theorem icuRead_complete : icuRead s (0x5008 + 0x10 * n.val) = some (false, 0) := by
  fin_cases n <;> rfl

theorem blockWrite_complete (v : W64) :
    blockWrite s a .icu (0x5008 + 0x10 * n.val) .all v = ((s.icuComplete n.val (v.toNat % 1024)).seeLine8, 0) := by
  fin_cases n <;> rfl

end

theorem claimAt_icu {a : Agent} (h : a ≠ .bar0) (n : Fin 10) : claimAt a n = 0x5000000 + (0x5004 + 0x10 * n.val) := by
  unfold claimAt
  rw [if_neg (by simp [h])]
  omega

theorem claimAt_bar0 {n : Fin 10} (h : n.val = 8) : claimAt .bar0 n = 0x3920000 := if_pos ⟨rfl, h⟩

/-- What a claim leaves of target n (R476): the winner is active for it and no longer pending by software. -/
theorem icuClaim_state (s : State) (n : Nat) : (s.icuClaim n).2 = if s.winner n = 0 then s else { s with icu := { s.icu with
    active := tset false s.icu.active (s.winner n) true, owner := tset 0 s.icu.owner (s.winner n) (BitVec.ofNat 4 n),
    swp := tset false s.icu.swp (s.winner n) false } } := by
  unfold State.icuClaim
  dsimp only
  split <;> rfl

theorem icuComplete_held {s : State} {n src : Nat} (h : tget false s.icu.active src = true ∧ (tget 0 s.icu.owner src).toNat = n) :
    s.icuComplete n src =
      let ended := State.seeLine8 { s with icu := { s.icu with active := tset false s.icu.active src false } }
      if n = 8 ∧ s.icu.line8 = true ∧ ended.icu.line8 = true then ended.forwardVec else ended := by
  unfold State.icuComplete
  rw [if_pos (by simpa using h)]
  simp only [Bool.and_eq_true, decide_eq_true_eq, and_assoc]

theorem icuComplete_foreign {s : State} {n src : Nat} (h : ¬ (tget false s.icu.active src = true ∧ (tget 0 s.icu.owner src).toNat = n)) :
    s.icuComplete n src = { s with icu := { s.icu with badcomp := satInc s.icu.badcomp } } := by
  unfold State.icuComplete
  exact if_neg (by simpa using h)

/-- The line of target 8 follows the winner, and its rise sends the vector (R479). -/
theorem seeLine8_eq (s : State) : s.seeLine8 =
    let u : State := { s with icu := { s.icu with line8 := decide (s.winner 8 ≠ 0) } }
    if s.winner 8 ≠ 0 ∧ s.icu.line8 = false then u.forwardVec else u := by
  unfold State.seeLine8 State.notify
  simp only [Bool.and_eq_true, decide_eq_true_eq, Bool.not_eq_true']

theorem source_toNat (src : BitVec 10) : ((src.zeroExtend 32 : W32).zeroExtend 64 : W64).toNat % 1024 = src.toNat := by
  have := src.isLt
  simp
  omega

section
variable {s : State} {a : Agent}

theorem exec_icuClaim_manager (m : Manages a) (n : Fin 10) : exec (.icuClaim a n) s =
    .next ((s.icuClaim n.val).2.seeLine8.emit (.regValue 0 (BitVec.ofNat 64 (s.winner n.val % 2 ^ 32)))) := by
  obtain ⟨h0, h2⟩ : a ≠ .bar0 ∧ a ≠ .bar2 := by rcases m with ⟨k, rfl⟩ | rfl <;> exact ⟨nofun, nofun⟩
  have value : BitVec.ofNat 64 ((BitVec.ofNat 64 (s.winner n.val)).toNat % 2 ^ 32) = BitVec.ofNat 64 (s.winner n.val % 2 ^ 32) := by
    rw [BitVec.toNat_ofNat, Nat.mod_mod_of_dvd _ (by decide)]
  change Host.Outcome.next (s.getReg a (hubBase + claimAt a n) false) = _
  rw [claimAt_icu h0, getReg_agent h0 h2 (by omega) (hubBlock_icu (by omega)) (by omega) (blockRead_claim s a n) (manages_mayReach_icu m _) rfl,
    blockRc_claim, value]

theorem exec_icuComplete_manager (m : Manages a) (n : Fin 10) (src : BitVec 10) :
    exec (.icuComplete a n src) s = hubWrote a (s.icuComplete n.val src.toNat).seeLine8 := by
  obtain ⟨h0, h2⟩ : a ≠ .bar0 ∧ a ≠ .bar2 := by rcases m with ⟨k, rfl⟩ | rfl <;> exact ⟨nofun, nofun⟩
  change Host.Outcome.next (s.put32 a (claimAt a n + 4) _) = _
  rw [claimAt_icu h0, show 0x5000000 + (0x5004 + 0x10 * n.val) + 4 = 0x5000000 + (0x5008 + 0x10 * n.val) by omega,
    put32_agent h0 h2 (by omega) (hubBlock_icu (by omega)) (manages_mayReach_icu m _) rfl _ (by omega) (congrArg (Option.map (·.1)) (icuRead_complete s n)),
    blockWrite_complete, source_toNat]

theorem exec_icuClaim_bar0 {n : Fin 10} (target : n.val = 8) (guest : s.sec.conf = false) : exec (.icuClaim .bar0 n) s =
    .next ((s.icuClaim 8).2.seeLine8.emit (.barData (clean (leBytes 4 (BitVec.ofNat 64 (s.winner 8)).toNat)))) := by
  change Host.Outcome.next (s.getReg .bar0 (hubBase + claimAt .bar0 n) false) = _
  rw [claimAt_bar0 target, getReg_bar0 (o := 0x20000) (b := .pci) guest (by decide) rfl (by decide) rfl rfl rfl]
  rfl

theorem exec_icuComplete_bar0 {n : Fin 10} (target : n.val = 8) (guest : s.sec.conf = false) (src : BitVec 10) :
    exec (.icuComplete .bar0 n src) s = hubWrote .bar0 (s.icuComplete 8 src.toNat) := by
  have m : MayWrite s .bar0 := ⟨nofun, fun _ => guest⟩
  change Host.Outcome.next (s.put32 .bar0 (claimAt .bar0 n + 4) _) = _
  rw [claimAt_bar0 target, put32_wrote (o := 0x20004) (b := .pci) m (by decide) rfl rfl rfl _ (by decide) rfl]
  exact congrArg (fun x => hubWrote .bar0 (s.icuComplete 8 x)) (source_toNat src)

end

/-- Source 0 has no mask, so that a write of it meets no register (R483). -/
theorem mask_of_source_0 {s : State} {a : Agent} (m : Manages a) {off : Nat} {src : Fin 1024} (none_ : src.val = 0)
    (row : off = 0x5002000 + 4 * src.val ∨ off = 0x5003000 + 4 * src.val) (v : W32) : .next (s.put32 a off v) = hubWrote a s 3 := by
  obtain ⟨h0, h2⟩ : a ≠ .bar0 ∧ a ≠ .bar2 := by rcases m with ⟨k, rfl⟩ | rfl <;> exact ⟨nofun, nofun⟩
  rw [none_] at row
  rcases row with rfl | rfl
  · exact put32_nowhere (b := .icu) (o := 0x2000) h0 h2 (by decide) rfl v rfl (by decide)
  · exact put32_nowhere (b := .icu) (o := 0x3000) h0 h2 (by decide) rfl v rfl (by decide)

/-! ### The agents that the controller refuses (R482) -/

theorem mayReach_icu_of_not_manages {a : Agent} (no : ¬ Manages a) (o : Nat) : mayReach a .icu o = false := by
  cases a with
  | sc m => exact absurd (.inl ⟨m, rfl⟩) no
  | lookout => exact absurd (.inr rfl) no
  | _ => rfl

theorem put32_icu_refused {s : State} {a : Agent} {o : Nat} (no : ¬ Manages a) (h0 : a ≠ .bar0) (h2 : a ≠ .bar2) (low : o < 0x800000)
    (aligned : o % 4 = 0) (register : (icuRead s o).map (·.1) = some false) (v : W32) :
    .next (s.put32 a (0x5000000 + o) v) = hubWrote a s 1 :=
  put32_refused (b := .icu) h0 h2 (by omega) (hubBlock_icu low) (mayReach_icu_of_not_manages no o) v (by omega) register

/-- Settles O54: a claim and a completion reach the controller as its own two operations, after which the line of target 8 is seen. -/
theorem interruptsAreClaimedAndCompleted : Obligations.InterruptsAreClaimedAndCompleted := by
  unfold Obligations.InterruptsAreClaimedAndCompleted
  intro s a n src w sr v manager seen x claimed held ended completed pend mask old writes
  have sees (t : State) : t.seeLine8 = seen t := seeLine8_eq t
  have claims : (s.icuClaim n.val).2 = claimed := icuClaim_state s n.val
  have completes : s.icuComplete n.val src.toNat = completed := by
    by_cases h : held
    · exact (icuComplete_held h).trans (by rw [sees]; exact (if_pos h).symm)
    · exact (icuComplete_foreign h).trans (if_neg h).symm
  have wrote {u t : State} (e : u.seeLine8 = t) : hubWrote a u.seeLine8 = hubWrote a t := congrArg (fun x => hubWrote a x) e
  refine ⟨fun t => ?_, congrArg _ (sees s), fun k target p active => Bool.eq_false_iff.2 fun c => ?_,
    fun m => ⟨?_, ?_, ?_, ?_, fun h => ⟨?_, ?_⟩, fun h => ⟨?_, ?_⟩⟩, ?_, fun no h0 h2 source c mem => ?_⟩
  · unfold State.forwardVec
    simp only [Bool.and_eq_true, Bool.not_eq_true']
  · obtain ⟨-, idle, -⟩ := (candidateOf_iff s target k p).1 c
    rw [active] at idle
    cases idle
  · rw [exec_icuClaim_manager m, claims, sees]
  · rw [exec_icuComplete_manager m, completes, sees]
  · exact (exec_pendset m w v).trans (wrote (sees _))
  · exact (exec_pendclr m w v).trans (wrote (sees _))
  · exact (exec_tmaskset m h v).trans (wrote (sees _))
  · exact (exec_tmaskclr m h v).trans (wrote (sees _))
  · exact mask_of_source_0 m h (.inl rfl) v
  · exact mask_of_source_0 m h (.inr rfl) v
  · rintro rfl target guest
    rw [exec_icuClaim_bar0 target guest, exec_icuComplete_bar0 target guest, ← target, claims, completes, sees]
    exact ⟨rfl, rfl⟩
  · have refused {off o : Nat} {u : W32} (place : off = 0x5000000 + o) (low : o < 0x800000) (aligned : o % 4 = 0)
        (register : ∃ x, icuRead s o = some (false, x)) : .next (s.put32 a off u) = hubWrote a s 1 := by
      obtain ⟨x, register⟩ := register
      exact place ▸ put32_icu_refused no h0 h2 low aligned (congrArg (Option.map (·.1)) register) u
    simp only [writes, List.mem_cons, List.not_mem_nil, or_false] at mem
    rcases mem with rfl | rfl | rfl | rfl | rfl
    · refine refused (o := 0x5008 + 0x10 * n.val) ?_ (by omega) (by omega) ⟨0, icuRead_complete s n⟩
      rw [claimAt_icu h0]
      omega
    · exact refused (by omega) (by omega) (by omega) (icuRead_sourceWord s (k := 3) (by decide) w.isLt)
    · exact refused (by omega) (by omega) (by omega) (icuRead_sourceWord s (k := 4) (by decide) w.isLt)
    · exact refused (by omega) (by omega) (by omega) (icuRead_mask s (k := 2) (by decide) source sr.isLt)
    · exact refused (by omega) (by omega) (by omega) (icuRead_mask s (k := 3) (by decide) source sr.isLt)

end Sys2Proof.Machine

/-! # Claims registers and the stash directory -/

namespace Sys2Proof.Machine

open Sys2Proof.Slice0

/-! ### Claims registers (R506) -/

/-- The value that CLAIM writes. -/
def claimWord (v : W32) : W32 := (v &&& 0x3FFFFFFF#32) ||| 0x40000000#32

/-- The value that RELEASE writes. -/
def releaseWord (v : W32) : W32 := (v &&& 0x3FFFFFFF#32) ||| 0x80000000#32

theorem commandWord_top (v c : W32) : ((v &&& 0x3FFFFFFF#32) ||| c).toNat / 2 ^ 30 = c.toNat / 2 ^ 30 := by
  have shifted : ((v &&& 0x3FFFFFFF#32) ||| c) >>> 30 = c >>> 30 := by
    rw [BitVec.ushiftRight_or_distrib, BitVec.ushiftRight_and_distrib]
    simp
  have := congrArg BitVec.toNat shifted
  rwa [BitVec.toNat_ushiftRight, BitVec.toNat_ushiftRight, Nat.shiftRight_eq_div_pow, Nat.shiftRight_eq_div_pow] at this

theorem commandWord_use {v c : W32} (command : c &&& 0xF#32 = 0#32) : ((v &&& 0x3FFFFFFF#32) ||| c) &&& 0xF#32 = v &&& 0xF#32 := by
  rw [BitVec.and_or_distrib_right, command, BitVec.or_zero, BitVec.and_assoc]
  rfl

theorem use_toNat (w : W32) : w.toNat % 16 = (w &&& 0xF#32).toNat := by
  rw [BitVec.toNat_and]
  exact (Nat.and_two_pow_sub_one_eq_mod w.toNat 4).symm

theorem claimCmd_claim (old : W32) (g : Tag) (v : W32) (ok may : Bool) :
    claimCmd old g (claimWord v) ok may = claimTaken old g (v &&& 0xF#32) ok may := by
  have top : (claimWord v).toNat / 2 ^ 30 = 1 := commandWord_top v _
  have use : claimWord v &&& 0xF#32 = v &&& 0xF#32 := commandWord_use (by decide)
  unfold claimCmd claimTaken
  simp only [top, use]
  cases ok <;> cases may <;> rfl

theorem claimCmd_release (old : W32) (g : Tag) (v : W32) (ok may : Bool) :
    claimCmd old g (releaseWord v) ok may = claimReleased old g := by
  have top : (releaseWord v).toNat / 2 ^ 30 = 2 := commandWord_top v _
  unfold claimCmd claimReleased
  simp only [top]
  congr 2
  simp [and_assoc]

/-! ### The claims registers of the hub (R508, R509, R517) -/

theorem ofNat_shifted_use (n : Nat) {k : Nat} (high : 4 ≤ k) : BitVec.ofNat 32 (n * 2 ^ k) &&& 0xF#32 = 0#32 := by
  apply BitVec.eq_of_toNat_eq
  rw [← use_toNat, BitVec.toNat_ofNat, Nat.mod_mod_of_dvd _ (by decide)]
  obtain ⟨j, rfl⟩ := Nat.exists_eq_add_of_le high
  rw [Nat.pow_add]
  simp [Nat.mul_left_comm n]

theorem claimResult_use (c : W32) (r : Nat) : claimResult c r &&& 0xF#32 = c &&& 0xF#32 := by
  unfold claimResult
  rw [BitVec.and_or_distrib_right, ofNat_shifted_use r (by decide), BitVec.or_zero, BitVec.and_assoc]
  rfl

/-- A claim that is taken holds its use. -/
theorem claimTaken_use {c : W32} {g : Tag} {v : W32} (free : c &&& 0xF#32 = 0) (use : v &&& 0xF#32 ≠ 0) :
    claimTaken c g (v &&& 0xF#32) true true &&& 0xF#32 = v &&& 0xF#32 := by
  have low : v &&& 0xF#32 &&& 0xF#32 = v &&& 0xF#32 := BitVec.and_assoc _ _ _
  unfold claimTaken
  rw [if_neg (by decide), if_neg (by simpa using free), if_neg use, if_neg (by decide), BitVec.and_or_distrib_right, BitVec.and_or_distrib_right,
    BitVec.and_or_distrib_right, ofNat_shifted_use _ (by decide), ofNat_shifted_use _ (by decide), low]
  cases g.fw <;> simp

/-- A claim that is not taken leaves the use. -/
theorem claimTaken_refused {c : W32} {g : Tag} {use : W32} {ok may : Bool} (h : may = false ∨ c &&& 0xF#32 ≠ 0 ∨ use = 0 ∨ ok = false) :
    claimTaken c g use ok may &&& 0xF#32 = c &&& 0xF#32 := by
  unfold claimTaken
  split
  · exact claimResult_use c 2
  · split
    · exact claimResult_use c 1
    · split
      · exact claimResult_use c 0
      · split
        · exact claimResult_use c 3
        · simp_all

theorem claimReleased_use (c : W32) (g : Tag) : claimReleased c g &&& 0xF#32 = 0 ∨ c &&& 0xF#32 ≠ 0 := by
  unfold claimReleased
  split
  · next free => exact .inl ((claimResult_use c 0).trans free)
  · next taken => exact .inr taken

section
variable (s : State) (g : Tag) (v : W32)

theorem use_eq_iff {k : Nat} (h : k < 16) : v.toNat % 16 = k ↔ v &&& 0xF#32 = BitVec.ofNat 32 k := by
  rw [use_toNat, ← BitVec.toNat_inj, BitVec.toNat_ofNat, Nat.mod_eq_of_lt (by omega)]

/-- The uses of HUB_CLMEVT that the mode permits (R508). -/
abbrev EvtUse (s : State) (use : W32) : Prop := use = 1 ∨ use = 4 ∨ ((use = 2 ∨ use = 3) ∧ s.sec.debugOpen = true)

/-- The uses of HUB_CLMTRC that the mode permits (R509). -/
abbrev TrcUse (s : State) (use : W32) : Prop := use = 1 ∨ (use = 2 ∧ s.sec.debugOpen = true ∧ s.sec.conf = false)

theorem claimWord_use_iff {k : Nat} (h : k < 16) : (claimWord v).toNat % 16 = k ↔ v &&& 0xF#32 = BitVec.ofNat 32 k :=
  commandWord_use (v := v) (c := 0x40000000#32) (by decide) ▸ use_eq_iff (claimWord v) h

theorem claimEvt_claim : s.claimEvt g (claimWord v) =
    { s with trc := { s.trc with clmEvt := claimTaken s.trc.clmEvt g (v &&& 0xF#32) (EvtUse s (v &&& 0xF#32)) g.fw } } := by
  have mode : ((claimWord v).toNat % 16 = 1 || (claimWord v).toNat % 16 = 4 ||
      (((claimWord v).toNat % 16 = 2 || (claimWord v).toNat % 16 = 3) && s.sec.debugOpen)) = decide (EvtUse s (v &&& 0xF#32)) := by
    rw [Bool.eq_iff_iff]
    simp [EvtUse, claimWord_use_iff v (k := 1) (by decide), claimWord_use_iff v (k := 2) (by decide), claimWord_use_iff v (k := 3) (by decide),
      claimWord_use_iff v (k := 4) (by decide), or_assoc]
  unfold State.claimEvt
  dsimp only
  rw [claimCmd_claim, mode]

theorem claimEvt_release : s.claimEvt g (releaseWord v) = { s with trc := { s.trc with clmEvt := claimReleased s.trc.clmEvt g } } := by
  unfold State.claimEvt
  dsimp only
  rw [claimCmd_release]

/-- A command to HUB_CLMTRC: only a claim that is taken empties the buffer (R517). -/
theorem claimTrc_cmd {w new : W32} (ok : Bool) (mode : (w.toNat % 16 = 1 || (w.toNat % 16 = 2 && s.sec.debugOpen && !s.sec.conf)) = ok)
    (cmd : claimCmd s.trc.clmTrc g w ok true = new) : s.claimTrc g w =
      if s.trc.clmTrc &&& 0xF#32 = 0 ∧ new &&& 0xF#32 ≠ 0 then
        { s with trc := { s.trc with clmTrc := new, held := 0, next := 0, seq := 0, xctx := 0, full := 0, buf := [] } }
      else { s with trc := { s.trc with clmTrc := new } } := by
  subst mode cmd
  unfold State.claimTrc
  simp only [Bool.and_eq_true, decide_eq_true_eq]
  split <;> rfl

theorem claimTrc_claim : s.claimTrc g (claimWord v) =
    let new := claimTaken s.trc.clmTrc g (v &&& 0xF#32) (TrcUse s (v &&& 0xF#32)) true
    if s.trc.clmTrc &&& 0xF#32 = 0 ∧ new &&& 0xF#32 ≠ 0 then
      { s with trc := { s.trc with clmTrc := new, held := 0, next := 0, seq := 0, xctx := 0, full := 0, buf := [] } }
    else { s with trc := { s.trc with clmTrc := new } } := by
  refine claimTrc_cmd s g _ ?_ (claimCmd_claim ..)
  rw [Bool.eq_iff_iff]
  simp [TrcUse, claimWord_use_iff v (k := 1) (by decide), claimWord_use_iff v (k := 2) (by decide), and_assoc]

theorem claimTrc_release : s.claimTrc g (releaseWord v) = { s with trc := { s.trc with clmTrc := claimReleased s.trc.clmTrc g } } := by
  rw [claimTrc_cmd s g _ rfl (claimCmd_release ..)]
  refine if_neg fun ⟨free, won⟩ => ?_
  rcases claimReleased_use s.trc.clmTrc g with released | taken
  · exact won released
  · exact taken free

end

/-! ### The commands -/

section
variable {s : State} {a : Agent}

theorem put32_clmEvt (m : MayWrite s a) (w : W32) : .next (s.put32 a 0x100 w) = hubWrote a (s.claimEvt (s.tagOf a) w).evtHold := by
  rw [put32_wrote (o := 0x100) (b := .hub) m (by decide) rfl rfl rfl w (by decide) rfl]
  exact congrArg (fun x => hubWrote a (s.claimEvt (s.tagOf a) x).evtHold) (truncate_zeroExtend w)

theorem put32_clmTrc (m : MayWrite s a) (w : W32) : .next (s.put32 a 0x104 w) = hubWrote a (s.claimTrc (s.tagOf a) w) := by
  rw [put32_wrote (o := 0x104) (b := .hub) m (by decide) rfl rfl rfl w (by decide) rfl]
  exact congrArg (fun x => hubWrote a (s.claimTrc (s.tagOf a) x)) (truncate_zeroExtend w)

theorem evtHold_eq (s : State) : s.evtHold = evtHeld s := by
  unfold State.evtHold evtHeld
  simp only [Bool.and_eq_true, decide_eq_true_eq, Bool.not_eq_true']
  rfl

theorem tregWrite_claim (x : Tile) (g : Tag) (p : Part) (v : W64) (d : Nat) (free : W64) : tregWrite x g .claim p v d free =
    let c := claimCmd x.sf.claim g (v.truncate 32) ((v.truncate 32 : W32) &&& 0xF#32 ≠ 3 || g.fw) true
    { t := { x with sf := { x.sf with claim := c } } } := rfl

theorem ctlWrite_claim {t : TileIx} (reaches : Reaches s a t) (noon : (s.tile t.val).power = .noon) (w : W32) {c : W32}
    (cmd : claimCmd (s.tile t.val).sf.claim (s.tagOf a) w (w &&& 0xF#32 ≠ 3 || (s.tagOf a).fw) true = c) :
    .next (s.ctlWrite a t.val 0x830020 w) = tileWrote s t { s.tile t.val with sf := { (s.tile t.val).sf with claim := c } } := by
  refine ctlWrite_wrote (r := .claim) (w := { t := { s.tile t.val with sf := { (s.tile t.val).sf with claim := c } } }) reaches rfl (by decide)
    (by decide) (by decide) (.inl noon) ?_
  rw [tregWrite_claim, truncate_zeroExtend, cmd]

end

/-- Settles O31: CLAIM and RELEASE write the register with their command, whose use and mode `claimCmd` looks at. -/
theorem claimAndReleaseSetOwner : Obligations.ClaimAndReleaseSetOwner := by
  unfold Obligations.ClaimAndReleaseSetOwner
  intro s a v g use e c evtOk trcOk
  refine ⟨fun t reaches noon => ⟨?_, ?_⟩, fun m => ⟨?_, ?_, fun free ne ok => ?_, fun no => ?_, ?_⟩, rfl, fun ne => ?_, fun two => ?_⟩
  · refine ctlWrite_claim reaches noon (claimWord v) ?_
    have use_ : claimWord v &&& 0xF#32 = use := commandWord_use (by decide)
    rw [claimCmd_claim, use_]
    simp only [Bool.decide_or, Bool.decide_eq_true]
    rfl
  · exact ctlWrite_claim reaches noon (releaseWord v) (claimCmd_release ..)
  · exact (put32_clmEvt m (claimWord v)).trans (by rw [claimEvt_claim, evtHold_eq])
  · exact (put32_clmEvt m (releaseWord v)).trans (by rw [claimEvt_release, evtHold_eq])
  · refine (put32_clmTrc m (claimWord v)).trans (congrArg (fun u => hubWrote a u) ?_)
    have taken : decide (TrcUse s (v &&& 0xF#32)) = true := decide_eq_true ok
    rw [claimTrc_claim, taken]
    exact if_pos ⟨free, fun none_ => ne ((claimTaken_use free ne).symm.trans none_)⟩
  · refine (put32_clmTrc m (claimWord v)).trans (congrArg (fun u => hubWrote a u) ?_)
    rw [claimTrc_claim]
    refine if_neg fun ⟨free, won⟩ => won ((claimTaken_refused (.inr ?_)).trans free)
    exact no.imp_right (Or.imp_right fun bad => decide_eq_false bad)
  · exact (put32_clmTrc m (releaseWord v)).trans (by rw [claimTrc_release])
  · exact congrArg _ ((congrArg State.evtHold (if_neg ne)).trans (evtHold_eq _))
  · refine congrArg _ ((congrArg State.evtHold (if_pos two)).trans (if_neg ?_))
    have use_ : s.trc.clmEvt &&& 0xF#32 = 2#32 := two
    simp [use_]

/-! ### The stash directory (R258 to R260) -/

section
variable {s : State} {a : Agent}

/-- The offset of HUB_STASHCTLs in its block. -/
def stashCtl (i : Fin 64) : Nat := 0x100 + 0x20 * i.val

theorem arrIx_stash (i : Fin 64) {r : Nat} (h : r < 0x20) : arrIx (stashCtl i + r) 0x100 0x20 64 = some (i.val, r) := by
  unfold arrIx stashCtl
  rw [if_pos (by omega), show (0x100 + 0x20 * i.val + r - 0x100) / 0x20 = i.val by omega, show (0x100 + 0x20 * i.val + r - 0x100) % 0x20 = r by omega]

theorem hubBlock_stash {o : Nat} (h : o < 0x10000) : hubBlock (0x40000 + o) = some (.stash, o) := by
  unfold hubBlock
  rw [if_neg (by omega), if_pos (by omega), Nat.add_sub_cancel_left]

theorem blockRead_stash (i : Fin 64) {r : Nat} {wide : Bool} (h : (r, wide) ∈ [(0, false), (8, true), (16, true), (24, false)]) :
    (blockRead s a .stash (stashCtl i + r)).map (·.1) = some wide := by
  simp only [List.mem_cons, Prod.mk.injEq, List.not_mem_nil, or_false] at h
  change (stashRead s (stashCtl i + r)).map (·.1) = some wide
  unfold stashRead
  rw [if_neg (by unfold stashCtl; omega), arrIx_stash i (by omega)]
  rcases h with ⟨rfl, rfl⟩ | ⟨rfl, rfl⟩ | ⟨rfl, rfl⟩ | ⟨rfl, rfl⟩ <;> rfl

theorem stashWrite_ctl (g : Tag) (i : Fin 64) (p : Part) (v : W64) :
    stashWrite s g (stashCtl i) p v = s.setSlotOf i.val ((s.slotOf i.val).cmd g (v.toNat / 2 ^ 28 % 4) (v.truncate 20)) := by
  have place : arrIx (stashCtl i) 0x100 0x20 64 = some (i.val, 0) := arrIx_stash (r := 0) i (by decide)
  unfold stashWrite
  rw [place]
  rfl

theorem stashWrite_field (g : Tag) (i : Fin 64) {r : Nat} (p : Part) (v : W64) (h : 0 < r ∧ r < 0x20) :
    stashWrite s g (stashCtl i + r) p v = s.setSlotOf i.val ((s.slotOf i.val).field g r p v) := by
  unfold stashWrite
  rw [arrIx_stash i h.2]
  obtain ⟨r, rfl⟩ := Nat.exists_eq_succ_of_ne_zero (Nat.pos_iff_ne_zero.1 h.1)
  rfl

/-- A command to a slot (R258). -/
theorem put32_stashCtl (m : MayWrite s a) (i : Fin 64) (w : W32) : .next (s.put32 a (0x40000 + stashCtl i) w) =
    hubWrote a (s.setSlotOf i.val ((s.slotOf i.val).cmd (s.tagOf a) (w.toNat / 2 ^ 28 % 4) (w.truncate 20))) := by
  have low : stashCtl i < 0x10000 ∧ stashCtl i % 4 = 0 := by unfold stashCtl; omega
  have value : (w.zeroExtend 64 : W64).toNat = w.toNat := by have := w.isLt; simp; omega
  have tag : ((w.zeroExtend 64 : W64).truncate 20 : BitVec 20) = w.truncate 20 := by
    ext j hj
    simp
  rw [put32_wrote m (by omega) (hubBlock_stash low.1) rfl rfl w (by omega) (blockRead_stash (r := 0) i (by simp)), blockWrite_stash,
    stashWrite_ctl, value, tag]

/-- A write of a field of a slot (R260). -/
theorem put64_stashField (m : MayWrite s a) (i : Fin 64) {r : Nat} (h : r = 8 ∨ r = 16) (v : W64) :
    .next (s.put64 a (0x40000 + (stashCtl i + r)) v) = hubWrote a (s.setSlotOf i.val ((s.slotOf i.val).field (s.tagOf a) r .all v)) := by
  have low : stashCtl i + r < 0x10000 ∧ (stashCtl i + r) % 8 = 0 := by unfold stashCtl; omega
  rw [put64_wrote m (by omega) (hubBlock_stash low.1) rfl rfl v (by omega) (blockRead_stash i (by simpa using h)), blockWrite_stash,
    stashWrite_field _ i _ _ (by omega)]

theorem put32_stashNrec (m : MayWrite s a) (i : Fin 64) (w : W32) : .next (s.put32 a (0x40000 + (stashCtl i + 24)) w) =
    hubWrote a (s.setSlotOf i.val ((s.slotOf i.val).field (s.tagOf a) 24 .all (w.zeroExtend 64))) := by
  have low : stashCtl i + 24 < 0x10000 ∧ (stashCtl i + 24) % 4 = 0 := by unfold stashCtl; omega
  rw [put32_wrote m (by omega) (hubBlock_stash low.1) rfl rfl w (by omega) (blockRead_stash i (by simp)), blockWrite_stash,
    stashWrite_field _ i _ _ (by omega)]

/-! ### A slot's three states (R258, R260) -/

theorem owner_iff (x : StashSlot) (g : Tag) : x.owner g = true ↔ x.part.toNat = g.part ∧ x.ctx.toNat = g.ctx := by
  simp [StashSlot.owner]

theorem field_kept {x : StashSlot} {g : Tag} (no : ¬ (x.st = 1 ∧ x.part.toNat = g.part ∧ x.ctx.toNat = g.ctx)) (r : Nat) (p : Part) (v : W64) :
    x.field g r p v = x :=
  if_pos (by
    rw [← owner_iff, not_and_or] at no
    simpa using no)

theorem field_written {x : StashSlot} {g : Tag} (mine : x.st = 1 ∧ x.part.toNat = g.part ∧ x.ctx.toNat = g.ctx) (v : W64) :
    x.field g 8 .all v = { x with base := v &&& 0x1FFFFFFFFFF#64 } ∧ x.field g 16 .all v = { x with size := v } ∧
      x.field g 24 .all v = { x with nrec := v.truncate 32 } := by
  have open_ : ¬ ((x.st ≠ 1 || !x.owner g) = true) := by
    have owner := (owner_iff x g).2 mine.2
    simp [mine.1, owner]
  exact ⟨if_neg open_, if_neg open_, if_neg open_⟩

/-- The word that claims a slot: command 1 and the tag. -/
theorem claimSlot_word (tag : BitVec 20) : (0x10000000#32 ||| tag.zeroExtend 32).toNat / 2 ^ 28 % 4 = 1 ∧
    (0x10000000#32 ||| tag.zeroExtend 32).truncate 20 = tag := by
  have high : (0x10000000#32 ||| tag.zeroExtend 32) >>> 28 = 1#32 := by
    have : (tag.zeroExtend 32 : W32) >>> 28 = 0#32 := by
      apply BitVec.eq_of_toNat_eq
      have := tag.isLt
      rw [BitVec.toNat_ushiftRight, Nat.shiftRight_eq_div_pow]
      simp
      omega
    rw [BitVec.ushiftRight_or_distrib, this]
    rfl
  constructor
  · have := congrArg BitVec.toNat high
    rw [BitVec.toNat_ushiftRight, Nat.shiftRight_eq_div_pow] at this
    rw [this]
    rfl
  · ext j hj
    simp

/-! ### The free slots -/

/-- The number whose bits below n are those of `p`. -/
def bitsBelow (p : Nat → Prop) [DecidablePred p] (n : Nat) : Nat := (List.range n).foldl (fun n i => if p i then n + 2 ^ i else n) 0

theorem bitsBelow_succ (p : Nat → Prop) [DecidablePred p] (n : Nat) :
    bitsBelow p (n + 1) = if p n then bitsBelow p n + 2 ^ n else bitsBelow p n := by
  unfold bitsBelow
  rw [List.range_succ, List.foldl_append]
  rfl

theorem bitsBelow_lt (p : Nat → Prop) [DecidablePred p] (n : Nat) : bitsBelow p n < 2 ^ n := by
  induction n with
  | zero => exact Nat.one_pos
  | succ n ih =>
    rw [bitsBelow_succ, Nat.pow_succ]
    split <;> omega

theorem testBit_bitsBelow (p : Nat → Prop) [DecidablePred p] {n i : Nat} (h : i < n) : (bitsBelow p n).testBit i = decide (p i) := by
  induction n with
  | zero => cases h
  | succ n ih =>
    have split_ : bitsBelow p (n + 1) = 2 ^ n * (if p n then 1 else 0) + bitsBelow p n := by
      rw [bitsBelow_succ]
      split <;> omega
    rw [split_, Nat.testBit_two_pow_mul_add _ (bitsBelow_lt p n)]
    by_cases last : i = n
    · subst last
      by_cases hp : p i <;> simp [hp]
    · rw [if_pos (by omega), ih (by omega)]

theorem stashFree_bit (s : State) (i : Fin 64) : s.stashFree.getLsbD i.val = decide ((s.slotOf i.val).st = 0) := by
  change (BitVec.ofNat 64 (bitsBelow (fun j => (s.slotOf j).st = 0) 64)).getLsbD i.val = _
  rw [BitVec.getLsbD_ofNat, testBit_bitsBelow _ i.isLt]
  simp

end

/-- Settles O34: each command is `StashSlot.cmd` or `StashSlot.field` on the slot, whose conditions are the rule's. -/
theorem stashSlotsFollowTheirOwner : Obligations.StashSlotsFollowTheirOwner := by
  unfold Obligations.StashSlotsFollowTheirOwner
  intro s a i tag v x g owner wrote sealable mine
  refine ⟨stashFree_bit s i, fun m => ?_⟩
  have cmd {w : W32} {k : Nat} {t : BitVec 20} {y : StashSlot} (number : w.toNat / 2 ^ 28 % 4 = k) (tag : w.truncate 20 = t)
      (does : x.cmd g k t = y) : .next (s.put32 a (0x40100 + 0x20 * i.val) w) = wrote y := by
    have place : 0x40100 + 0x20 * i.val = 0x40000 + stashCtl i := by unfold stashCtl; omega
    rw [place, put32_stashCtl m, number, tag, does]
  have place {r n : Nat} (h : n = 0x40100 + r) : n + 0x20 * i.val = 0x40000 + (stashCtl i + r) := by
    unfold stashCtl
    omega
  have base : exec (.stashFieldWrite a i .base v) s = wrote (x.field g 8 .all v) := by
    change Host.Outcome.next (s.put64 a (0x40108 + 0x20 * i.val) v) = _
    rw [place (r := 8) rfl, put64_stashField m i (.inl rfl)]
  have size : exec (.stashFieldWrite a i .size v) s = wrote (x.field g 16 .all v) := by
    change Host.Outcome.next (s.put64 a (0x40110 + 0x20 * i.val) v) = _
    rw [place (r := 16) rfl, put64_stashField m i (.inr rfl)]
  have nrec : exec (.stashFieldWrite a i .nrec v) s = wrote (x.field g 24 .all ((v.truncate 32).zeroExtend 64)) := by
    change Host.Outcome.next (s.put32 a (0x40118 + 0x20 * i.val) (v.truncate 32)) = _
    rw [place (r := 24) rfl, put32_stashNrec m i]
  have seals : (decide (x.st = 1) && x.owner g && decide (x.base.toNat % 4096 = 0) && decide (x.base.toNat + x.size.toNat ≤ memEnd)) = true ↔
      sealable := by
    simp [sealable, owner, owner_iff, and_assoc]
  have releases : (decide (x.st ≠ 0) && (x.owner g || g.fw)) = true ↔ x.st ≠ 0 ∧ (owner ∨ g.fw = true) := by
    simp [owner, owner_iff]
  obtain ⟨claims, named⟩ := claimSlot_word tag
  refine ⟨fun free => ?_, fun taken => ?_, fun h => ?_, fun h => ?_, fun taken h => ?_, fun h => ?_, fun h => ?_, fun h f => ?_⟩
  · exact cmd claims named (if_pos free)
  · exact cmd claims named (if_neg taken)
  · exact cmd (k := 2) (by decide) rfl (if_pos (seals.2 h))
  · exact cmd (k := 2) (by decide) rfl (if_neg (mt seals.1 h))
  · exact cmd (k := 3) (by decide) rfl (if_pos (releases.2 ⟨taken, h⟩))
  · refine cmd (k := 3) (by decide) rfl (if_neg (mt releases.1 fun ⟨taken, may⟩ => ?_))
    rcases h with free | ⟨foreign, guest⟩
    · exact taken free
    · rcases may with own | firmware
      · exact foreign own
      · rw [firmware] at guest
        cases guest
  · obtain ⟨b, z, r⟩ := field_written h v
    obtain ⟨-, -, r⟩ := field_written h ((v.truncate 32 : W32).zeroExtend 64)
    rw [truncate_zeroExtend] at r
    exact ⟨base.trans (congrArg wrote b), size.trans (congrArg wrote z), nrec.trans (congrArg wrote r)⟩
  · cases f with
    | base => exact base.trans (congrArg wrote (field_kept h _ _ _))
    | size => exact size.trans (congrArg wrote (field_kept h _ _ _))
    | nrec => exact nrec.trans (congrArg wrote (field_kept h _ _ _))

end Sys2Proof.Machine

/-! # The stack controllers -/

namespace Sys2Proof.Machine

open Sys2Proof.Slice0

/-! ### The registers of a stack (R350) -/

section
variable {s : State} {a : Agent} {k : StackIx}

theorem hubBlock_stk {r : Nat} (h : r < 0x80000) : hubBlock (stkBase k + r) = some (.stk k.val, r) := by
  have := k.isLt
  have number : (0x2000000 + 0x100000 * k.val + r - 0x2000000) / 0x100000 = k.val := by omega
  have offset : (0x2000000 + 0x100000 * k.val + r) % 0x100000 = r := by omega
  unfold hubBlock stkBase
  simp (disch := omega) only [if_neg, if_pos, number, offset]

theorem put32_stk (m : MayWrite s a) {r : Nat} (v : W32) (h : r < 0x80000 ∧ r % 4 = 0) (register : (stkRead s k.val r).map (·.1) = some false) :
    .next (s.put32 a (stkBase k + r) v) = hubWrote a (stkWrite s a k.val r .all (v.zeroExtend 64)) := by
  have := k.isLt
  rw [put32_wrote m (by unfold stkBase; omega) (hubBlock_stk h.1) rfl rfl v (by unfold stkBase; omega) register]
  rfl

theorem put64_stk (m : MayWrite s a) {r : Nat} (v : W64) (h : r < 0x80000 ∧ r % 8 = 0) (register : (stkRead s k.val r).map (·.1) = some true) :
    .next (s.put64 a (stkBase k + r) v) = hubWrote a (stkWrite s a k.val r .all v) := by
  have := k.isLt
  rw [put64_wrote m (by unfold stkBase; omega) (hubBlock_stk h.1) rfl rfl v (by unfold stkBase; omega) register]
  rfl

end

/-! ### Retirement, remapping, records and thresholds (R334, R335, R338, R347) -/

theorem retire_eq (b : StkBlk) (k : Nat) (v : W32) : b.retire k v =
    if v.toNat / 2 ^ 21 ≠ k then { b with retBad := true }
    else if v.truncate 25 ∈ b.ret then b
    else if 4096 ≤ b.ret.length then { b with retFull := true }
    else { b with ret := b.ret ++ [v.truncate 25] } := by
  unfold StkBlk.retire
  simp only [List.contains_iff_mem]

theorem rmLoad_eq (b : StkBlk) (draws : Nat) (e : W64) : b.rmLoad draws e =
    let row := e.toNat % 2 ^ 32
    let spare := e.toNat / 2 ^ 32 % 4
    let taken := b.rmap.any (fun x => pairOf (x.2.toNat % 2 ^ 32) = pairOf row && x.2.toNat / 2 ^ 32 % 4 = spare)
    if b.ready = false ∧ e[63] = true ∧ b.remapped row = false ∧ row < 2 ^ 27 ∧ taken = false then
      { b with rmap := tset 0 b.rmap (b.freeEntry draws) (BitVec.ofNat 64 (2 ^ 63 + spare * 2 ^ 32 + row)) }
    else b := by
  have word : rmapWord (e.toNat / 2 ^ 32 % 4) (e.toNat % 2 ^ 32) = BitVec.ofNat 64 (2 ^ 63 + e.toNat / 2 ^ 32 % 4 * 2 ^ 32 + e.toNat % 2 ^ 32) := by
    unfold rmapWord
    rw [Nat.mod_mod, Nat.mod_mod]
  unfold StkBlk.rmLoad
  dsimp only
  rw [word, ← ite_not]
  refine if_congr ?_ rfl rfl
  simp only [Bool.or_eq_true, Bool.not_eq_true', decide_eq_true_eq, not_or, Bool.not_eq_true, Bool.not_eq_false, Nat.not_le, and_assoc]

theorem thrWrite_eq (b : StkBlk) (v : W32) : b.thrWrite v =
    let w := v &&& 0x0FFFFFFF#32
    if thrOf w 0 < thrOf w 1 ∧ thrOf w 1 < thrOf w 2 ∧ thrOf w 2 ≤ 110 ∧ 1 ≤ hystOf w then { b with thr := w } else b := by
  unfold StkBlk.thrWrite
  simp only [Bool.and_eq_true, decide_eq_true_eq, and_assoc]

/-! ### Writes of single registers (R335, R338, R346, R347, R533) -/

section
variable (s : State) (a : Agent) (k : Nat)

theorem stkWrite_retadd (v : W64) (p : Part) :
    stkWrite s a k 0x100 p v = if mayRetire a then s.setStack k ((s.stack k).retire k (v.truncate 32)) else s := rfl

theorem stkWrite_thr (v : W64) (p : Part) : stkWrite s a k 0x10 p v = s.setStack k ((s.stack k).thrWrite (v.truncate 32)) := rfl

theorem stkWrite_ctrl (v : W64) (p : Part) : stkWrite s a k 0 p v =
    if v[31] then (s.setStack k { s.stack k with scrubEn := v[30] }).stackResume k else s.setStack k { s.stack k with scrubEn := v[30] } := rfl

theorem stkWrite_fltpop (v : W64) (p : Part) : stkWrite s a k 0x84 p v =
    if v[0] then (s.setStack k { s.stack k with flt := (s.stack k).flt.drop 1 }).passRecord a k (s.stack k).flt.head? else s := rfl

theorem passRecord_none {r : Option FltRec} (h : (∀ n, a ≠ .sc n) ∨ r = none ∨ s.lko.up = false) : s.passRecord a k r = s := by
  cases a with
  | sc n =>
    rcases h with other | rfl | down
    · exact absurd rfl (other n)
    · rfl
    · cases r with
      | none => rfl
      | some r => exact if_neg (by simp [down])
  | _ => rfl

theorem passRecord_passed (n : Fin 8) (r : FltRec) (up : s.lko.up = true) : s.passRecord (.sc n) k (some r) =
    { s with lko := { s.lko with faultlog := s.lko.faultlog ++ [(k, r)] } } :=
  if_pos up

theorem stackResume_eq (s : State) (k : Nat) : s.stackResume k =
    let x := s.stack k
    if x.halted = true ∧ x.temp.toInt < thrOf x.thr 1 - hystOf x.thr then
      (s.setStack k { x with halted := false, selfRefresh := false }).setLevel k (levelOf x.thr x.temp.toInt)
    else s := by
  unfold State.stackResume
  simp only [Bool.and_eq_true, decide_eq_true_eq]

theorem stack_setStack {s : State} {k : Nat} {x : StkBlk} (h : x ≠ StkBlk.zero) : (s.setStack k x).stack k = x := tget_tset_kept _ _ _ h

end

/-! ### Thermal levels (R343 to R346) -/

theorem nextLevel_eq (thr : W32) (old : BitVec 2) (t : Int) : nextLevel thr old t =
    let reached : BitVec 2 := if thrOf thr 2 ≤ t then 3 else if thrOf thr 1 ≤ t then 2 else if thrOf thr 0 ≤ t then 1 else 0
    if old = 3 then 3 else if old < reached then reached
    else if old = 1 ∧ t < thrOf thr 0 - hystOf thr then 0
    else if old = 2 ∧ t < thrOf thr 1 - hystOf thr then 1 else old := rfl

/-- A sample that is recorded is not at the reset values. -/
theorem sampled_ne_zero {x : StkBlk} {v : BitVec 8} (h : x.tmax = some v) : x ≠ StkBlk.zero := by
  rintro rfl
  cases h

/-- A change of level leaves its record, and the stack halts or its peers hear of it (R343, R345, R415). -/
theorem setLevel_eq {s : State} {k : Nat} {b : StkBlk} (h : s.stack k = b) (new : BitVec 2) : s.setLevel k new =
    let recorded := (s.setStack k { b with level := new }).stkRec k 6 0 (4 * b.level.toNat + new.toNat) 0 0 noPages
    if new = b.level then s else if new = 3 then recorded.enterStorm k else recorded.slowNotices k new := by
  subst h
  rfl

/-- Settles O38: a write of an STK_ register reaches its stack, and `setLevel` says what a change of level does. -/
theorem stackSettingsAndLevelsFollowRules : Obligations.StackSettingsAndLevelsFollowRules := by
  unfold Obligations.StackSettingsAndLevelsFollowRules
  intro s k a v e t b wrote
  have pop (m : MayWrite s a) : exec (.faultRecordPop a k v) s = hubWrote a
      (if v[0] then (s.setStack k.val { b with flt := b.flt.drop 1 }).passRecord a k.val b.flt.head? else s) := by
    refine (put32_stk m v ⟨by decide, by decide⟩ rfl).trans (congrArg (fun u => hubWrote a u) ?_)
    rw [stkWrite_fltpop, show ((v.zeroExtend 64 : W64))[0] = v[0] by simp]
  refine ⟨fun m => ⟨fun may => ?_, fun core host => ?_, ?_, fun no => ?_, fun pops h => ?_, ?_, ?_, ?_⟩, ?_⟩
  · refine (put32_stk m v ⟨by decide, by decide⟩ rfl).trans (congrArg (fun u => hubWrote a u) ?_)
    rw [stkWrite_retadd, if_pos (by rcases may with ⟨n, rfl⟩ | rfl <;> rfl), truncate_zeroExtend, retire_eq]
  · refine (put32_stk m v ⟨by decide, by decide⟩ rfl).trans (congrArg (fun u => hubWrote a u) ?_)
    rw [stkWrite_retadd, if_neg]
    cases a with
    | sc n => exact absurd rfl (core n)
    | bar0 => exact absurd rfl host
    | _ => exact nofun
  · refine (put64_stk m e ⟨by decide, by decide⟩ rfl).trans (congrArg (fun u => hubWrote a u) ?_)
    exact congrArg (s.setStack k.val) (rmLoad_eq b s.draws e)
  · exact (pop m).trans (congrArg (fun u => hubWrote a u) (if_neg (by simp [no])))
  · refine (pop m).trans (congrArg (fun u => hubWrote a u) ((if_pos pops).trans (passRecord_none _ a k.val ?_)))
    exact h.imp_right (Or.imp_left fun empty => by rw [show (s.stack k.val).flt = [] from empty]; rfl)
  · rintro r l n pops rfl first up
    have first : (s.stack k.val).flt = r :: l := first
    refine (pop m).trans (congrArg (fun u => hubWrote _ u) ((if_pos pops).trans ?_))
    rw [first]
    exact passRecord_passed _ k.val n r up
  · refine (put32_stk m v ⟨by decide, by decide⟩ rfl).trans (congrArg (fun u => hubWrote a u) ?_)
    rw [stkWrite_thr, truncate_zeroExtend, thrWrite_eq]
  · have resumes : (((v ||| 0x80000000#32).zeroExtend 64 : W64))[31] = true := by simp
    have scrubs : (((v ||| 0x80000000#32).zeroExtend 64 : W64))[30] = v[30] := by simp
    refine (put32_stk (r := 0) m _ ⟨by decide, by decide⟩ rfl).trans (congrArg (fun u => hubWrote a u) ?_)
    rw [stkWrite_ctrl, if_pos resumes, scrubs, stackResume_eq]
  · intro y sampled reached new s1 s2 s3 s4 s5
    have holds : s2.stack k.val = sampled := by
      have recorded : s1.stack k.val = sampled := stack_setStack (sampled_ne_zero rfl)
      by_cases trips : 110 < t
      · exact (congrArg (fun u => State.stack u k.val) (if_pos trips)).trans recorded
      · exact (congrArg (fun u => State.stack u k.val) (if_neg trips)).trans recorded
    have leaves : s.stackSample k.val t = s4 := setLevel_eq holds new
    have trip : (if s4.pin.thermtrip && !s.pin.thermtrip then s4.trip else s4) = s5 := by
      simp only [s5, Bool.and_eq_true, Bool.not_eq_true']
    exact congrArg Host.Outcome.next (by rw [leaves, trip])

/-! ### Requests, regulators, refresh and scrub (R322, R329, R340 to R342, R348) -/

section
variable {s : State} {k cls nth : Nat} {ecc : List (Nat × Nat)} {x : StkReq}

theorem eligible_iff (b : StkBlk) (c : Nat) : b.eligible c = true ↔ tget 0 b.reg c &&& 0x3FF#32 = 0 ∨ 0 ≤ tget 0 b.bucket c := by
  simp [StkBlk.eligible]

/-- What lets a request issue (R340). -/
def Issues (b : StkBlk) (cls : Nat) (x : StkReq) (older : List StkReq) : Prop :=
  (tget 0 b.reg cls &&& 0x3FF#32 = 0 ∨ 0 ≤ tget 0 b.bucket cls) ∧ b.selfRefresh = false ∧ mayPass b x older = true

/-- The stack as request x leaves its queue before the older ones, the row of the request then open (R510). -/
def issuing (s : State) (k cls : Nat) (x : StkReq) (older : List StkReq) : State :=
  let b := s.stack k
  let row := rowIdOf (x.req.addr % 2 ^ 37)
  let queue := (b.queue.erase x).map (fun y =>
    if older.contains y && y.req.addr / 256 % 64 = x.req.addr / 256 % 64 then { y with passed := y.passed + 1 } else y)
  (s.setStack k { b with queue := queue, openRow := tset (2 ^ 32) b.openRow (bankOfRow row) row }).chargeStack k cls (reqCharge x.req)

theorem stackIssue_blocked (found : ((s.stack k).queue.filter (·.cls = cls))[nth]? = some x)
    (no : ¬ Issues (s.stack k) cls x (((s.stack k).queue.filter (·.cls = cls)).take nth)) : s.stackIssue k cls nth ecc = s := by
  unfold State.stackIssue
  dsimp only
  rw [found]
  refine if_pos ?_
  unfold Issues at no
  rw [← eligible_iff, not_and_or, not_and_or] at no
  simpa [or_assoc] using no

theorem stackIssue_issues (found : ((s.stack k).queue.filter (·.cls = cls))[nth]? = some x)
    (goes : Issues (s.stack k) cls x (((s.stack k).queue.filter (·.cls = cls)).take nth)) : s.stackIssue k cls nth ecc =
      (issuing s k cls x (((s.stack k).queue.filter (·.cls = cls)).take nth)).stackPerform k x.req ecc := by
  obtain ⟨eligible, awake, passes⟩ := goes
  rw [← eligible_iff] at eligible
  unfold State.stackIssue
  dsimp only
  rw [found]
  exact if_neg (by simp [eligible, awake, passes])

theorem stackPerform_read {r : Req} {n : Nat} (h : r.op = .read n) : s.stackPerform k r ecc =
    let v := s.accessErrs k r.addr n (fun _ => false) ecc
    v.respond r (if anyPois (v.memRead r.addr n) then 5 else 0) (v.memRead r.addr n) := by
  unfold State.stackPerform
  rw [h]

theorem stackPerform_write {r : Req} {d : List PByte} (h : r.op = .write d) : s.stackPerform k r ecc =
    let whole (w : Nat) := decide (r.addr ≤ 32 * w ∧ 32 * w + 32 ≤ r.addr + d.length)
    ((s.accessErrs k r.addr d.length whole ecc).memWrite r.addr d).respond r 0 [] := by
  unfold State.stackPerform
  rw [h]

end

/-- A bucket of class c after a refill (R340, R342). -/
def refilled (b : StkBlk) (m : Tab Int) (c : Nat) : Tab Int :=
  let reg := tget 0 b.reg c
  let rate := reg.toNat % 1024
  if rate = 0 then m
  else tset 0 m c (min (16384 * (reg.toNat / 65536 % 1024 + 1) : Nat)
    (tget 0 m c + (rate * 1000 / (if b.level = 1 then 2 else if b.level = 2 then 4 else 1) : Nat)))

theorem two_pow_lambdaOf (l : BitVec 2) : 2 ^ lambdaOf l = if l = 1 then 2 else if l = 2 then 4 else 1 := by
  unfold lambdaOf
  split
  · rfl
  · split <;> rfl

theorem refillOne_eq (b : StkBlk) (c : Nat) : refillOne b c = { b with bucket := refilled b b.bucket c } := by
  have size (n : Nat) : 4 * (((n + 1) * 4096 : Nat) : Int) = (16384 * (n + 1) : Nat) := by omega
  unfold refillOne refilled
  dsimp only
  rw [two_pow_lambdaOf, size]
  split <;> rfl

theorem foldl_refillOne (l : List Nat) (b : StkBlk) : l.foldl refillOne b = { b with bucket := l.foldl (refilled b) b.bucket } := by
  induction l generalizing b with
  | nil => rfl
  | cons c l ih =>
    rw [List.foldl_cons, refillOne_eq, ih]
    rfl

theorem refill_eq (b : StkBlk) :
    b.refill = if b.halted then b else { b with bucket := [0, 1, 2, 3, 4].foldl (fun m c => refilled b m c) b.bucket } := by
  unfold StkBlk.refill
  rw [foldl_refillOne]

theorem refresh_eq (b : StkBlk) (bank : Nat) (postpone : Bool) : b.refresh bank postpone =
    let n := tget 0 b.postponed bank
    let waits := postpone = true ∧ n < 8 ∧ b.queue.any (fun x => bankOfRow (rowIdOf (x.req.addr % 2 ^ 37)) = bank) = true
    if b.selfRefresh then b else { b with postponed := tset 0 b.postponed bank (if waits then n + 1 else 0) } := by
  unfold StkBlk.refresh
  simp only [Bool.and_eq_true, decide_eq_true_eq, and_assoc]
  split
  · rfl
  · split <;> rfl

/-- Settles O37: the request, its class and its row decide; what an issued one does is `stackPerform`. -/
theorem stackControllersQueueAndIssue : Obligations.StackControllersQueueAndIssue := by
  unfold Obligations.StackControllersQueueAndIssue
  intro s k b row nothing
  refine ⟨fun r wf low may => ?_, fun cls nth ecc x wf found => ?_, ?_, fun bank postpone wf => ?_, fun n few => ?_, rfl⟩
  · intro u g j c
    have arrives : exec (.stackRequest r) s = .next ((s.arrived r).stackArrive r) :=
      (if_neg (by simp [wf]; omega)).trans (if_pos may)
    refine ⟨fun ok => arrives.trans ?_, fun bad => arrives.trans ?_⟩
    · exact congrArg _ (if_neg (not_not.2 ok))
    · exact congrArg _ (if_pos bad)
  · intro older goes u
    have issue : exec (.stackRequestIssue k cls nth ecc) s = .next (s.stackIssue k.val cls.val nth ecc) := if_pos wf
    have performs (h : goes) : s.stackIssue k.val cls.val nth ecc = u.stackPerform k.val x.req ecc := stackIssue_issues found h
    refine ⟨fun n h op => issue.trans ?_, fun d h op => issue.trans ?_, fun no => issue.trans (congrArg _ (stackIssue_blocked found no))⟩
    · rw [performs h, stackPerform_read op]
    · rw [performs h, stackPerform_write op]
  · have refills := congrArg (fun x => (.next (s.setStack k.val x) : Host.Outcome State Fault Refusal)) (refill_eq b)
    unfold refilled at refills
    exact refills
  · exact (if_pos wf).trans (congrArg _ (congrArg (s.setStack k.val) (refresh_eq b bank postpone)))
  · intro on
    have step : exec (.scrubStep k n) s = .next (s.scrubOne k.val n) := if_pos few
    have scrubs : (!b.scrubEn || !b.ready || b.selfRefresh || !b.eligible 4) = false ↔ on := by
      simp [on, eligible_iff, and_assoc]
    refine ⟨fun h => step.trans (congrArg _ (if_neg ?_)), fun no => step.trans (congrArg _ (if_pos ?_))⟩
    · exact Bool.eq_false_iff.1 (scrubs.2 h)
    · exact (Bool.not_eq_false _) ▸ mt scrubs.1 no

end Sys2Proof.Machine

/-! # The stratus units -/

namespace Sys2Proof.Machine

open Sys2Proof.Slice0

/-! ### The pass at the head of the queue (R354, R370) -/

section
variable {s : State} {k p c g : Nat} {step : W64} {ck : List CheckFail}

/-- The checks that end a pass before its descriptor is read. -/
theorem stratCheck_none (h : min 4096 (tget 0 (s.unit k).gtCnt c).toNat = 0) : s.stratCheck k p c g step = .none_ := if_pos h

theorem stratCheck_halted (h : min 4096 (tget 0 (s.unit k).gtCnt c).toNat ≠ 0) (halted : (s.stack k).halted = true) :
    s.stratCheck k p c g step = .fail 5 false :=
  (if_neg h).trans (if_pos halted)

theorem stratCheck_part (h : min 4096 (tget 0 (s.unit k).gtCnt c).toNat ≠ 0) (runs : (s.stack k).halted = false)
    (other : partOfStack s.partMode k ≠ p) : s.stratCheck k p c g step = .fail 4 false :=
  (if_neg h).trans ((if_neg (by simp [runs])).trans (if_pos other))

theorem stratCheck_group (h : min 4096 (tget 0 (s.unit k).gtCnt c).toNat ≠ 0) (runs : (s.stack k).halted = false)
    (own : partOfStack s.partMode k = p) (past : min 4096 (tget 0 (s.unit k).gtCnt c).toNat ≤ g) : s.stratCheck k p c g step = .fail 3 false :=
  (if_neg h).trans ((if_neg (by simp [runs])).trans ((if_neg (not_not.2 own)).trans (if_pos past)))

/-- The unit as it takes a pass. -/
def taking (s : State) (k c g : Nat) (q : List StratJob) : State :=
  s.setUnit k { s.unit k with queue := q, ctx := BitVec.ofNat 4 c, group := BitVec.ofNat 12 g, prog := 0, phase2 := false }

/-- What the checks make of a pass that unit k has taken in state t, with n jobs behind it (R370, R371). -/
def checkedPass (t : State) (k id c g : Nat) (step : W64) (ck : List CheckFail) (n : Nat) : StratChk → State
  | .none_ => (t.unitDone id k 0 false).serveQueue k n
  | .fail code sound => ((t.stratLast k c g (unitWord k code 0) sound).unitDone id k (unitWord k code 0) true).serveQueue k n
  | .ok d sc ly => t.setUnit k { t.unit k with run := some ⟨id, c, g, step, d, sc, ly, ck⟩ }

theorem stratStart_takes {id : Nat} {q : List StratJob} (idle : (s.unit k).run = none) (head : (s.unit k).queue = .pass id p c g step :: q)
    (awake : (s.stack k).selfRefresh = false ∨ (s.stack k).halted = true) : s.stratStart k ck =
      checkedPass (taking s k c g q) k id c g step ck q.length ((taking s k c g q).stratCheck k p c g step) := by
  have waits : ¬ ((s.stack k).selfRefresh && !(s.stack k).halted) = true := by
    rcases awake with h | h <;> simp [h]
  unfold State.stratStart
  dsimp only
  split
  · next _ _ _ _ _ _ _ found =>
    rw [head] at found
    cases found
    refine (if_neg waits).trans ?_
    unfold checkedPass taking
    rfl
  · next other => exact absurd head (other _ _ _ _ _ _ idle)

theorem stratStart_runs (busy : (s.unit k).run ≠ none) : s.stratStart k ck = s := by
  obtain ⟨run, h⟩ := Option.ne_none_iff_exists'.1 busy
  unfold State.stratStart
  dsimp only
  rw [h]

theorem stratFinish_idle (idle : (s.unit k).run = none) : s.stratFinish k = s := by
  unfold State.stratFinish
  rw [idle]

theorem unitWord_ok (k : Nat) (flags : W32) : unitWord k 0 flags = flags &&& 0xF00#32 := by
  simp [unitWord]

theorem stratFinish_ends {run : StratRun} (running : (s.unit k).run = some run) : s.stratFinish k =
    let r := s.stratPass k run
    let s1 := r.1.chargeStack k (partOfStack s.partMode k) (shardN run.desc * elemTraffic run.desc / 32)
    let s2 := s1.setUnit k { s1.unit k with run := none }
    let s3 := (s2.stratLast k run.ctx run.group (r.2 &&& 0xF00#32) true).unitDone run.id k (r.2 &&& 0xF00#32) true
    s3.serveQueue k (s3.unit k).queue.length := by
  unfold State.stratFinish
  rw [running]
  dsimp only
  rw [unitWord_ok]

/-! ### Fused chunks (R368, R373) -/

variable {op : Nat} {x : StratChunk}

theorem offerChunk_served (idle : (s.unit k).run = none) (empty : (s.unit k).queue = []) (awake : (s.stack k).selfRefresh = false) :
    s.offerChunk k op x = s.serveChunk k op x :=
  if_pos (by simp [idle, empty, awake])

theorem offerChunk_waits (h : (s.unit k).run ≠ none ∨ (s.unit k).queue ≠ [] ∨ (s.stack k).selfRefresh = true) :
    s.offerChunk k op x = s.setUnit k { s.unit k with queue := (s.unit k).queue ++ [.chunk op x] } := by
  refine if_neg ?_
  rcases h with h | h | h
  · obtain ⟨run, h⟩ := Option.ne_none_iff_exists'.1 h
    simp [h]
  · simp [h]
  · simp [h]

theorem serveChunk_add {f : FusedRun} (found : (s.unit k).fused.find? (fun y => y.ctx = x.ctx.val && y.group = x.group.toNat) = some f)
    (ok : chunkOk f.desc x = true) (runs : (s.stack k).halted = false) : s.serveChunk k 0 x =
      let w := s.memWrite (leOf f.desc 32 8 + 4 * x.first) ((rangeFrom x.first x.vals.length).flatMap (fun e =>
        let y := addGrad (s.gradAt f.desc e) (chunkVal x e)
        markBytes 4 y.1 y.2))
      w.setUnit k { w.unit k with fused := (w.unit k).fused.map (fun y =>
        if y.ctx = x.ctx.val && y.group = x.group.toNat then { f with accepted := true } else y) } := by
  unfold State.serveChunk
  dsimp only
  rw [found]
  dsimp only
  rw [ok, runs]
  rfl

end

/-! ### STRAT_CTRL (R359, R376) -/

section
variable {s : State} {a : Agent} {k : StackIx}

theorem hubBlock_strat {r : Nat} (h : r < 0x80000) : hubBlock (stratBase k + r) = some (.strat k.val, r) := by
  have := k.isLt
  have number : (0x2080000 + 0x100000 * k.val + r - 0x2000000) / 0x100000 = k.val := by omega
  have offset : (0x2080000 + 0x100000 * k.val + r) % 0x100000 = 0x80000 + r := by omega
  unfold hubBlock stratBase
  simp (disch := omega) only [if_neg, if_pos, number, offset, Nat.add_sub_cancel_left]

theorem put32_stratCtl (m : MayWrite s a) (v : W32) : .next (s.put32 a (stratBase k) v) =
    hubWrote a (stratWrite s (s.tagOf a) k.val 0 .all (v.zeroExtend 64)).1 (stratWrite s (s.tagOf a) k.val 0 .all (v.zeroExtend 64)).2 := by
  have := k.isLt
  exact put32_wrote (o := 0) (b := .strat k.val) m (by unfold stratBase; omega) (hubBlock_strat (r := 0) (by decide)) rfl rfl v
    (by unfold stratBase; omega) rfl

theorem stratWrite_reseed {g : Tag} {j : Nat} {p : Part} {v : W64} (go : v[0] = true) : stratWrite s g j 0 p v =
    if (s.unit j).run.isSome then (s, 4) else (s.stratReseed j v[1], 0) := if_pos go

theorem exec_stratusReseed (m : MayWrite s a) (v : W32) : exec (.stratusReseed a k v) s =
    if (s.unit k.val).run.isSome then hubWrote a s 4 else hubWrote a (s.stratReseed k.val v[1]) := by
  have go : ((v ||| 1#32).zeroExtend 64 : W64)[0] = true := by simp
  have kind : ((v ||| 1#32).zeroExtend 64 : W64)[1] = v[1] := by simp
  refine (put32_stratCtl m (v ||| 1#32)).trans ?_
  rw [stratWrite_reseed go, kind]
  split <;> rfl

end

/-- Settles O39: a pass goes by its checks to its end, a chunk by whether the unit is free. -/
theorem stratusUnitsServePassesAndChunks : Obligations.StratusUnitsServePassesAndChunks := by
  unfold Obligations.StratusUnitsServePassesAndChunks
  intro s k a v c ck u b
  refine ⟨fun id p x g step q idle head awake => ?_, fun busy => congrArg _ (stratStart_runs busy), fun idle => congrArg _ (stratFinish_idle idle),
    fun run running => congrArg _ (stratFinish_ends running), ?_, ?_, fun m => ⟨fun busy => ?_, fun idle fixed => ?_, fun idle drawn => ?_⟩, rfl⟩
  · intro s1 cnt report
    have taken : s1 = taking s k.val x g q := rfl
    have start {r : StratChk} (h : s1.stratCheck k.val p x g step = r) :
        exec (.stratusPassStart k ck) s = .next (checkedPass s1 k.val id x g step ck q.length r) :=
      congrArg _ ((stratStart_takes idle head awake).trans (by rw [← taken, h]))
    exact ⟨fun none_ => start (stratCheck_none none_), fun some_ halted => start (stratCheck_halted some_ halted),
      fun some_ on other => start (stratCheck_part some_ on other), fun some_ on own past => start (stratCheck_group some_ on own past),
      fun code sound h => start h, fun d sc ly h => start h⟩
  · simp only [List.forall_mem_cons, List.not_mem_nil, false_implies, implies_true, and_true]
    have offered (op : Nat) :
        (u.run = none → u.queue = [] → b.selfRefresh = false →
          (.next (s.offerChunk k.val op c) : Host.Outcome State Fault Refusal) = .next (s.serveChunk k.val op c)) ∧
        (u.run ≠ none ∨ u.queue ≠ [] ∨ b.selfRefresh = true →
          (.next (s.offerChunk k.val op c) : Host.Outcome State Fault Refusal) =
            .next (s.setUnit k.val { u with queue := u.queue ++ [.chunk op c] })) :=
      ⟨fun idle empty awake => congrArg _ (offerChunk_served idle empty awake), fun h => congrArg _ (offerChunk_waits h)⟩
    exact ⟨offered 0, offered 1, offered 2⟩
  · rintro o f found ok runs rfl
    exact serveChunk_add found ok runs
  · obtain ⟨run, h⟩ := Option.ne_none_iff_exists'.1 busy
    rw [exec_stratusReseed m, if_pos (by rw [h]; rfl)]
  · rw [exec_stratusReseed m, if_neg (by rw [idle]; decide), fixed]
    rfl
  · rw [exec_stratusReseed m, if_neg (by rw [idle]; decide), drawn]
    rfl

end Sys2Proof.Machine

/-! # The fabric ports -/

namespace Sys2Proof.Machine

open Sys2Proof.Slice0

/-! ### CVY_PORTCTLn (R398) -/

section
variable {s : State} {a : Agent} {n : PortIx}

/-- The offset of CVY_PORTCTLn in its block. -/
def portCtlOff (n : PortIx) : Nat := 0x100 + 0x10 * n.val

theorem gated_portCtl (s : State) (n : PortIx) : s.gated .cvy (portCtlOff n) = (!s.hubEn 2 || !s.portHere n.val) := by
  fin_cases n <;> rfl

theorem blockRead_portCtl (s : State) (a : Agent) (n : PortIx) : (blockRead s a .cvy (portCtlOff n)).map (·.1) = some false := by
  fin_cases n <;> rfl

theorem cvyWrite_portCtl (s : State) (g : Tag) (n : PortIx) (p : Part) (v : W64) : cvyWrite s g (portCtlOff n) p v = s.portCtl n.val v[0] v[1] := by
  fin_cases n <;> rfl

theorem put32_portCtl (m : MayWrite s a) (on : s.hubEn 2 = true) (here : s.portHere n.val = true) (v : W32) :
    .next (s.put32 a (portCtlAt n) v) = hubWrote a (s.portCtl n.val v[0] v[1]) := by
  have place : hubBlock (portCtlAt n) = some (.cvy, portCtlOff n) := by
    fin_cases n <;> rfl
  have enable : ((v.zeroExtend 64 : W64))[0] = v[0] := by simp
  have retrain : ((v.zeroExtend 64 : W64))[1] = v[1] := by simp
  rw [put32_wrote m (by unfold portCtlAt; omega) place rfl (by rw [gated_portCtl, on, here]; rfl) v (by unfold portCtlAt; omega)
    (blockRead_portCtl s a n), blockWrite_cvy, cvyWrite_portCtl, enable, retrain]

theorem portCtl_off (h : (s.portOf n.val).st = .down) (r : Bool) :
    s.portCtl n.val false r = s.setPort n.val { s.portOf n.val with en := false } := by
  unfold State.portCtl
  exact (if_pos rfl).trans (if_pos h)

theorem portCtl_down (h : (s.portOf n.val).st ≠ .down) (r : Bool) :
    s.portCtl n.val false r = portMoved s n (portFresh (s.portOf n.val) .down false) := by
  unfold State.portCtl
  exact (if_pos rfl).trans (if_neg h)

theorem portCtl_trains {r : Bool} (h : (s.portOf n.val).st = .down ∨ (r = true ∧ (s.portOf n.val).st = .lost)) :
    s.portCtl n.val true r = portMoved s n (portFresh (s.portOf n.val) .train true) := by
  unfold State.portCtl
  exact (if_neg (by decide)).trans (if_pos (by simpa using h))

theorem portCtl_keeps {r : Bool} (h : ¬ ((s.portOf n.val).st = .down ∨ (r = true ∧ (s.portOf n.val).st = .lost))) :
    s.portCtl n.val true r = s.setPort n.val { s.portOf n.val with en := true } := by
  unfold State.portCtl
  exact (if_neg (by decide)).trans (if_neg (by simpa using h))

/-! ### Cells (R395 to R397) -/

variable {c : Cell}

theorem recvCell_shut (h : (s.portOf n.val).st ≠ .up) : s.recvCell n c = s := if_pos h

theorem recvCell_crc (up : (s.portOf n.val).st = .up) (bad : c.crcOk = false) : s.recvCell n c = s.devWake.crcFail n :=
  (if_neg (not_not.2 up)).trans (if_pos (by simp [bad]))

theorem recvCell_gap (up : (s.portOf n.val).st = .up) (ok : c.crcOk = true) (gap : c.seq ≠ (s.devWake.portOf n.val).rxSeq + 1) :
    s.recvCell n c = s.devWake.sendNak n :=
  (if_neg (not_not.2 up)).trans ((if_neg (by simp [ok])).trans (if_pos gap))

theorem recvCell_next (up : (s.portOf n.val).st = .up) (ok : c.crcOk = true) (next : c.seq = (s.devWake.portOf n.val).rxSeq + 1) :
    s.recvCell n c = (s.devWake.setPort n.val ({ s.devWake.portOf n.val with rxSeq := c.seq }.take c)).ackPort n c.ack :=
  (if_neg (not_not.2 up)).trans ((if_neg (by simp [ok])).trans (if_neg (not_not.2 next)))

end

/-- Settles O40: the port's state decides what a command of it does, and CRC and sequence number what a cell does. -/
theorem portsTrainAndTakeCellsInSequence : Obligations.PortsTrainAndTakeCellsInSequence := by
  unfold Obligations.PortsTrainAndTakeCellsInSequence
  intro s n a id pp c ack p
  refine ⟨fun m on here => ?_, fun train => ⟨if_pos train, if_pos train⟩, fun other => ⟨if_neg other, if_neg other⟩, ?_⟩
  · have wrote {v : W32} {e r : Bool} {u : State} (enable : v[0] = e) (retrain : v[1] = r) (does : s.portCtl n.val e r = u) :
        .next (s.put32 a (portCtlAt n) v) = hubWrote a u := by
      rw [put32_portCtl m on here, enable, retrain, does]
    refine ⟨fun down => wrote rfl rfl (portCtl_trains (.inl down)), fun st => wrote rfl rfl (portCtl_keeps (by simpa using st)),
      fun st => wrote rfl rfl (portCtl_trains (st.imp_right fun lost => ⟨rfl, lost⟩)), fun st => wrote rfl rfl (portCtl_keeps ?_),
      fun down => wrote rfl rfl (portCtl_off down _), fun st => wrote rfl rfl (portCtl_down st _)⟩
    intro h
    rcases st with train | up
    · rw [show (s.portOf n.val).st = .train from train] at h
      simp at h
    · rw [show (s.portOf n.val).st = .up from up] at h
      simp at h
  · intro w q took
    have taken : ({ q with rxSeq := c.seq } : PortBlk).take c = took := by
      unfold PortBlk.take took
      cases c.pay <;> rfl
    have received : ∀ i ∈ [Instr.data n c, .ctrl n c], exec i s = .next (s.recvCell n c) := by
      simp only [List.forall_mem_cons, List.not_mem_nil, false_implies, implies_true, and_true]
      exact ⟨rfl, rfl⟩
    have lost (up : p.st = .up) (silent : p.heard = false) : exec (.keepaliveWindow n) s =
        .next (if 7 ≤ p.missed.toNat then (s.setPort n.val { p with missed := p.missed + 1 }).portLost n
          else s.setPort n.val { p with missed := p.missed + 1 }) :=
      (if_neg (not_not.2 up)).trans (if_neg (by simp [p, silent]))
    refine ⟨fun i h => ?_, fun up => if_neg (not_not.2 up), fun up ok => (if_neg (not_not.2 up)).trans (if_neg (by simp [ok])),
      fun up bad => (if_neg (not_not.2 up)).trans (if_pos (by simp [bad])), fun up => next_if_pos up,
      fun up heard => (if_neg (not_not.2 up)).trans (if_pos heard), fun up silent => ?_, fun shut => ?_⟩
    · rw [received i h]
      refine ⟨fun shut => congrArg _ (recvCell_shut shut), fun up bad => congrArg _ (recvCell_crc up bad),
        fun up ok gap => congrArg _ (recvCell_gap up ok gap), fun up ok next => ?_⟩
      rw [recvCell_next up ok next, taken]
      rfl
    · rw [lost up silent]
      exact congrArg _ (if_congr (by omega) rfl rfl)
    · simp only [List.forall_mem_cons, List.not_mem_nil, false_implies, implies_true, and_true]
      exact ⟨if_pos shut, if_pos shut, next_if_neg shut, if_pos shut⟩

end Sys2Proof.Machine

/-! # Collectives and the messages of the convoy engine -/

namespace Sys2Proof.Machine

open Sys2Proof.Slice0

/-! ### Start, timeout and end (R402, R405, R410, R416) -/

section
variable {s : State} {c0 c : Coll}

theorem startColl_idle (h : s.cvy.pick = none) : s.startColl = s := by
  unfold State.startColl
  rw [h]

theorem startColl_badGroup (h : s.cvy.pick = some c0) (bad : s.startCheck c0 = none) : s.startColl = s.endColl c0 9 0xFFFF#16 none := by
  unfold State.startColl
  rw [h]
  dsimp only
  rw [bad]
  rfl

/-- A collective whose group's checks pass, with the ranges of its bytes. -/
theorem startColl_checked {c1 : Coll} (h : s.cvy.pick = some c0) (ok : s.startCheck c0 = some c1) (ranges : { c1 with ranges := s.collRanges c1 } = c) :
    s.startColl =
      if !s.tensorOk c then s.endColl c 10 0xFFFF#16 none
      else ((s.cvy.failed.find? (fun f => f.1 = c.fgid && f.2.1 = c.epoch)).map (fun f => s.endColl c 6 f.2.2 none)).getD (s.goColl c) := by
  subst ranges
  unfold State.startColl
  rw [h]
  dsimp only
  rw [ok]
  dsimp only
  split
  · rfl
  · split
    · next found => rw [found]; rfl
    · next none_ => rw [none_]; rfl

theorem goColl_runs (h : c.req.kind ≠ 3 ∨ c.req.pgroup = none) :
    s.goColl c = (s.runColl c).takeHeld c (s.cvy.held.filter (fun h => h.1.fgid = c.fgid)) := by
  unfold State.goColl
  dsimp only
  split
  · next kind group =>
    rcases h with other | none_
    · exact absurd (Fin.ext kind) other
    · rw [group] at none_
      cases none_
  · rfl

theorem endColl_stream {code : Nat} {rank : BitVec 16} {second : W32} {i : StreamIx} {w : Nat} (kind : c.req.kind ≠ 3)
    (reply : c.reply = .stream i w) : s.endColl c code rank (some second) =
      let left := { s with cvy := { s.cvy with
        run := s.cvy.run.filter (fun x => x.id ≠ c.id), queue := s.cvy.queue.filter (fun x => x.id ≠ c.id) } }
      let word := BitVec.ofNat 32 (rank.toNat * 2 ^ 16 + code) |||
        (if c.retried = true ∨ (code = 0 ∧ c.retryUsed = true) then 0x400#32 else 0) |||
        (if c.pois then 0x200#32 else 0) ||| (if c.slowSeen then 0x100#32 else 0)
      left.answer (.stream i w) [word, second] (if code = 0 then 0 else 0xC) := by
  unfold State.endColl collStatus
  dsimp only
  by_cases again : (decide (code = 0) && c.retryUsed) = true
  · have retried : c.retried = true ∨ (code = 0 ∧ c.retryUsed = true) := .inr (by simpa using again)
    rw [if_pos again, if_pos retried]
    dsimp only
    rw [if_neg kind, reply]
    rfl
  · have retried : (c.retried = true ∨ (code = 0 ∧ c.retryUsed = true)) ↔ c.retried = true := or_iff_left (by simpa using again)
    rw [if_neg again, if_neg kind, reply, if_congr retried rfl rfl]
    rfl

end

/-- Settles O41: the checks in their order, then the end with its word. -/
theorem collectivesStartTimeOutAndEnd : Obligations.CollectivesStartTimeOutAndEnd := by
  unfold Obligations.CollectivesStartTimeOutAndEnd
  intro s fgid rank
  have start (on : s.hubEn 2 = true) : exec .collectiveStart s = .next s.startColl := next_if_pos on
  have timeout {c : Coll} (found : s.collOf fgid = some c) : exec (.convoyTimeout fgid rank) s = .next (s.abortColl c 5 rank none) := by
    change Host.Outcome.next (match s.collOf fgid with | some c => s.abortColl c 5 rank none | none => s) = _
    rw [found]
  have complete {c : Coll} (found : s.collOf fgid = some c) :
      exec (.collectiveComplete fgid) s = .next (if c.done then s.endColl c 0 noRank none else s) := by
    change Host.Outcome.next (match s.collOf fgid with | some c => if c.done then s.endColl c 0 noRank none else s | none => s) = _
    rw [found]
  refine ⟨fun no => ?_, fun c0 on pick => ⟨fun bad => (start on).trans (congrArg _ (startColl_badGroup pick bad)), fun c1 ok => ?_⟩,
    fun c found => ⟨timeout found, fun done => (complete found).trans (next_if_pos done), fun no => (complete found).trans (next_if_false no)⟩,
    fun none_ => ⟨?_, ?_⟩, fun k => ?_, fun c code second kind a w reply => endColl_stream kind reply⟩
  · rcases no with off | idle
    · exact next_if_false off
    · exact congrArg _ ((congrArg (fun t => if s.hubEn 2 then t else s) (startColl_idle idle)).trans (ite_self s))
  · intro c failed
    have checked := startColl_checked pick ok (c := c) rfl
    refine ⟨fun bad => ?_, fun f fits found => ?_, fun fits none_ kind => ?_⟩
    · rw [start on, checked, if_pos (by simp [bad])]
    · rw [start on, checked, if_neg (by simp [fits]), show s.cvy.failed.find? _ = some f from found]
      rfl
    · rw [start on, checked, if_neg (by simp [fits]), show s.cvy.failed.find? _ = none from none_]
      exact congrArg _ (goColl_runs kind)
  · have silent : s.collOf fgid = none := none_
    change Host.Outcome.next (match s.collOf fgid with | some c => s.abortColl c 5 rank none | none => s) = _
    rw [silent]
  · have silent : s.collOf fgid = none := none_
    change Host.Outcome.next (match s.collOf fgid with | some c => if c.done then s.endColl c 0 noRank none else s | none => s) = _
    rw [silent]
  · exact congrArg _ (ite_not _ _ _)

/-! ### Messages taken from their port (R395, R404) -/

section
variable {s : State} {n : PortIx} {m : ConvoyMsg}

/-- The state as a control message has left the inbox of port n. -/
def ctrlTaken (s : State) (n : PortIx) (y : CtrlPay) : State :=
  s.setPort n.val { s.portOf n.val with inbox := (s.portOf n.val).inbox.erase y }

theorem takeCtrl_taken {y : CtrlPay} (h : y ∈ (s.portOf n.val).inbox) : s.takeCtrl n y = some (ctrlTaken s n y) := if_pos (by simpa using h)

theorem takeCtrl_absent {y : CtrlPay} (h : y ∉ (s.portOf n.val).inbox) : s.takeCtrl n y = none := if_neg (by simpa using h)

/-- What a control message does that port n has received; without it nothing. -/
def onCtrl (s : State) (n : PortIx) (y : CtrlPay) (f : State → State) : State := ((s.takeCtrl n y).map f).getD s

theorem onCtrl_taken {y : CtrlPay} {f : State → State} (h : y ∈ (s.portOf n.val).inbox) : onCtrl s n y f = f (ctrlTaken s n y) := by
  unfold onCtrl
  rw [takeCtrl_taken h]
  rfl

theorem onCtrl_absent {y : CtrlPay} {f : State → State} (h : y ∉ (s.portOf n.val).inbox) : onCtrl s n y f = s := by
  unfold onCtrl
  rw [takeCtrl_absent h]
  rfl

theorem onCtrl_eq (s : State) (n : PortIx) (y : CtrlPay) (f : State → State) :
    (match s.takeCtrl n y with | some t => f t | none => s) = onCtrl s n y f := by
  unfold onCtrl
  cases s.takeCtrl n y <;> rfl

theorem exec_ready (r : ReadyInfo) : exec (.ready n m r) s = .next (onCtrl s n (.ready m r) (fun t => t.readyMsg n m r)) :=
  congrArg _ (onCtrl_eq ..)

theorem exec_refuse (e : Byte) : exec (.refuse n m e) s = .next (onCtrl s n (.refuse m e) (fun t => t.refuseMsg m (s.rankAt n m.fgid))) :=
  congrArg _ (onCtrl_eq ..)

theorem exec_abort (x : CtrlInfo) : exec (.abort n m x) s = .next (onCtrl s n (.abort m x) (fun t => t.abortMsg n m x)) :=
  congrArg _ (onCtrl_eq ..)

theorem exec_memberFail (x : CtrlInfo) :
    exec (.memberFail n m x) s = .next (onCtrl s n (.memberFail m x) (fun t => t.memberFailMsg n m x)) :=
  congrArg _ (onCtrl_eq ..)

theorem exec_slow (x : CtrlInfo) : exec (.slow n m x) s = .next (onCtrl s n (.slow m x) (fun t => t.slowMsg n m x)) :=
  congrArg _ (onCtrl_eq ..)

/-- The state as the cells of a chunk message have left port n. -/
def partsTaken (s : State) (n : PortIx) (m : ConvoyMsg) (ci : ChunkInfo) : State :=
  s.setPort n.val { s.portOf n.val with parts := (chunkParts m ci).foldl (fun q z => q.erase z) (s.portOf n.val).parts }

theorem exec_chunk_taken {ci : ChunkInfo} (h : (chunkParts m ci).all (s.portOf n.val).parts.contains = true) :
    exec (.chunk n m ci) s = .next ((partsTaken s n m ci).chunkMsg n m ci) := by
  have taken : s.takeParts n m ci = some (partsTaken s n m ci) := if_pos h
  simp only [exec, execChunk, taken]

theorem exec_chunk_absent {ci : ChunkInfo} (h : (chunkParts m ci).all (s.portOf n.val).parts.contains = false) :
    exec (.chunk n m ci) s = .next s := by
  have absent : s.takeParts n m ci = none := if_neg (by simp [h])
  simp only [exec, execChunk, absent]

/-! ### READY, CHUNK and REFUSE (R404, R406, R407) -/

variable {g : Byte} {c : Coll} {r : ReadyInfo} {ci : ChunkInfo}

theorem readyMsg_stale (epoch : s.epochOf m.fgid = some g) (other : m.epoch ≠ g) : s.readyMsg n m r = s.sendPay n (.ctrl (.refuse m g)) := by
  unfold State.readyMsg
  rw [epoch]
  exact if_pos other

/-- A READY waits for its collective. -/
def readyHeld (s : State) (m : ConvoyMsg) (r : ReadyInfo) : State :=
  { s with cvy := { s.cvy with held := s.cvy.held.filter (fun h => !(h.1.fgid = m.fgid && h.1.from_ = m.from_)) ++ [(m, r)] } }

theorem readyMsg_early (epoch : s.epochOf m.fgid = some m.epoch) (none_ : s.collOf m.fgid = none) : s.readyMsg n m r = readyHeld s m r := by
  unfold State.readyMsg
  rw [epoch]
  dsimp only
  rw [if_neg (not_not.2 rfl), none_]
  rfl

theorem readyMsg_running (epoch : s.epochOf m.fgid = some m.epoch) (runs : s.collOf m.fgid = some c) : s.readyMsg n m r =
    if m.from_.toNat ∈ c.readyIn then readyHeld s m r
    else if c.readyCode m r = 0 then s.pumpColl { c with readyIn := m.from_.toNat :: c.readyIn }
    else s.abortColl c (c.readyCode m r) (BitVec.ofNat 16 c.rank) none := by
  unfold State.readyMsg
  rw [epoch]
  dsimp only
  rw [if_neg (not_not.2 rfl), runs]
  refine if_congr (by simp) rfl ?_
  exact ite_not _ _ _

theorem chunkMsg_stale (epoch : s.epochOf m.fgid = some g) (other : m.epoch ≠ g) : s.chunkMsg n m ci = s.sendPay n (.ctrl (.refuse m g)) := by
  unfold State.chunkMsg
  rw [epoch]
  exact if_pos other

theorem chunkMsg_running (epoch : s.epochOf m.fgid = some m.epoch) (runs : s.collOf m.fgid = some c) (seq : m.seq = c.seq) :
    s.chunkMsg n m ci = s.takeChunk c m.from_.toNat ci := by
  unfold State.chunkMsg
  rw [epoch]
  dsimp only
  rw [if_neg (not_not.2 rfl), runs]
  exact if_neg (not_not.2 seq)

/-- Final bytes of a chunk enter the ranges of a sum or a broadcast (R407). -/
theorem takeChunk_gather {from_ : Nat} {ch : ChunkD} (found : c.chunks[ci.index]? = some ch) (fresh : (ci.index, ci.gather, from_) ∉ c.got)
    (whole : ci.data.length = ch.len) (not2 : c.req.kind ≠ 2) (not3 : c.req.kind ≠ 3) (gather : ci.gather = true) :
    s.takeChunk c from_ ci = (s.vwrite c.ranges ch.off ci.data).pumpColl { c with
      got := (ci.index, ci.gather, from_) :: c.got, pois := c.pois || anyPois ci.data,
      final := if c.final.contains ci.index then c.final else ci.index :: c.final } := by
  unfold State.takeChunk
  dsimp only
  rw [found]
  dsimp only
  rw [if_neg (by simpa [whole] using fresh), if_neg not2, if_pos gather, if_neg not3]
  cases c.final.contains ci.index <;> simp [gather]

theorem refuseMsg_old {e : Nat} (runs : s.collOf m.fgid = some c) (seq : m.seq ≠ c.seq) : s.refuseMsg m e = s := by
  unfold State.refuseMsg
  rw [runs]
  exact if_pos seq

theorem refuseMsg_fails {e : Nat} (runs : s.collOf m.fgid = some c) (seq : m.seq = c.seq) (once : c.req.retry = false ∨ c.retryUsed = true) :
    s.refuseMsg m e = s.endColl c 1 (BitVec.ofNat 16 e) none := by
  unfold State.refuseMsg
  rw [runs]
  refine (if_neg (not_not.2 seq)).trans (if_pos ?_)
  rcases once with h | h <;> simp [h]

/-! ### ABORT, MEMBER_FAIL and SLOW (R404, R410, R414, R415) -/

/-- A control message of another epoch is counted. -/
def staleCounted (s : State) : State :=
  { s with cvy := { s.cvy with stale := if s.cvy.stale = 0xFF then s.cvy.stale else s.cvy.stale + 1 } }

variable {x : CtrlInfo}

theorem ctrlGate_stale {id : W32} (epoch : s.epochOf m.fgid = some g) (other : m.epoch ≠ g) : s.ctrlGate m id = (staleCounted s, false) := by
  unfold State.ctrlGate
  rw [epoch]
  exact if_pos other

theorem ctrlGate_repeat {id : W32} (epoch : s.epochOf m.fgid = some m.epoch) (seen : id ∈ s.cvy.seen) : s.ctrlGate m id = (s, false) := by
  unfold State.ctrlGate
  rw [epoch]
  exact (if_neg (not_not.2 rfl)).trans (by simp [seen])

theorem ctrlGate_open {id : W32} (epoch : s.epochOf m.fgid = some m.epoch) (new : id ∉ s.cvy.seen) : s.ctrlGate m id = (s, true) := by
  unfold State.ctrlGate
  rw [epoch]
  exact (if_neg (not_not.2 rfl)).trans (by simp [new])

/-- A message that does not pass the gate has the gate's effect alone. -/
theorem control_shut {t : State} (gate : s.ctrlGate m x.ident = (t, false)) :
    s.abortMsg n m x = t ∧ s.memberFailMsg n m x = t ∧ s.slowMsg n m x = t := by
  unfold State.abortMsg State.memberFailMsg State.slowMsg
  rw [gate]
  exact ⟨rfl, rfl, rfl⟩

theorem abortMsg_ends (gate : s.ctrlGate m x.ident = (s, true)) (runs : (s.forward n m x.ident (.abort m x)).collOf m.fgid = some c)
    (seq : c.seq = m.seq) : s.abortMsg n m x = (s.forward n m x.ident (.abort m x)).endColl c x.code.toNat x.rank none := by
  unfold State.abortMsg
  rw [gate]
  dsimp only
  rw [if_neg (by decide), runs]
  exact if_pos seq

theorem memberFailMsg_ends (gate : s.ctrlGate m x.ident = (s, true)) :
    s.memberFailMsg n m x = (s.forward n m x.ident (.memberFail m x)).memberFailed m.fgid m.epoch x.rank := by
  unfold State.memberFailMsg
  rw [gate]
  rfl

/-- A SLOW notice is counted. -/
def slowCounted (s : State) : State :=
  { s with cvy := { s.cvy with slow := if s.cvy.slow = 0xFF then s.cvy.slow else s.cvy.slow + 1 } }

theorem slowMsg_marks (gate : s.ctrlGate m x.ident = (s, true)) (runs : (slowCounted (s.forward n m x.ident (.slow m x))).collOf m.fgid = some c) :
    s.slowMsg n m x = (slowCounted (s.forward n m x.ident (.slow m x))).setColl { c with slowSeen := true } := by
  unfold State.slowMsg
  rw [gate]
  dsimp only
  rw [if_neg (by decide)]
  change (match (slowCounted (s.forward n m x.ident (.slow m x))).collOf m.fgid with
    | none => slowCounted (s.forward n m x.ident (.slow m x))
    | some x' => (slowCounted (s.forward n m x.ident (.slow m x))).setColl { x' with slowSeen := true }) = _
  rw [runs]

end

/-- Settles O42: a message that the port holds is taken and goes to its own operation, one that it does not hold does nothing. -/
theorem convoyMessagesActOnTheirCollective : Obligations.ConvoyMessagesActOnTheirCollective := by
  unfold Obligations.ConvoyMessagesActOnTheirCollective
  intro s n m r ci e x p took parts
  refine ⟨?_, exec_chunk_absent, fun here g epoch => ?_, fun here g epoch => ?_, fun here c runs => ?_, ?_, fun here => ?_, fun here => ?_, fun here => ?_⟩
  · simp only [List.mem_cons, Prod.mk.injEq, List.not_mem_nil, or_false]
    rintro y i (⟨rfl, rfl⟩ | ⟨rfl, rfl⟩ | ⟨rfl, rfl⟩ | ⟨rfl, rfl⟩ | ⟨rfl, rfl⟩) absent
    · rw [exec_ready, onCtrl_absent absent]
    · rw [exec_refuse, onCtrl_absent absent]
    · rw [exec_abort, onCtrl_absent absent]
    · rw [exec_memberFail, onCtrl_absent absent]
    · rw [exec_slow, onCtrl_absent absent]
  · intro t hold
    have arrives : exec (.ready n m r) s = .next (t.readyMsg n m r) := by rw [exec_ready, onCtrl_taken here]; rfl
    refine ⟨fun other => ?_, fun same none_ => ?_, fun c same runs again => ?_, fun c same runs fresh agrees => ?_, fun c same runs fresh differs => ?_⟩
    · rw [arrives, readyMsg_stale epoch other]
    all_goals
      subst same
      rw [arrives]
    · rw [readyMsg_early epoch none_]
      rfl
    · rw [readyMsg_running epoch runs, if_pos again]
      rfl
    · rw [readyMsg_running epoch runs, if_neg fresh, if_pos agrees]
    · rw [readyMsg_running epoch runs, if_neg fresh, if_neg differs]
  · have arrives : exec (.chunk n m ci) s = .next (parts.chunkMsg n m ci) := exec_chunk_taken here
    refine ⟨fun other => ?_, fun c same runs seq => ?_, fun c ch same runs seq found fresh whole not2 not3 gather => ?_⟩
    · rw [arrives, chunkMsg_stale epoch other]
    · rw [arrives, chunkMsg_running (same ▸ epoch) runs seq]
    · rw [arrives, chunkMsg_running (same ▸ epoch) runs seq, takeChunk_gather found fresh whole not2 not3 gather]
  · have arrives : exec (.refuse n m e) s = .next ((took (.refuse m e)).refuseMsg m (s.rankAt n m.fgid)) := by
      rw [exec_refuse, onCtrl_taken here]
      rfl
    refine ⟨fun seq => ?_, fun seq once => ?_⟩
    · rw [arrives, refuseMsg_old runs seq]
    · rw [arrives, refuseMsg_fails runs seq once]
  · have shut {y : CtrlPay} {i : Instr} {f : State → State} (h : exec i s = .next (onCtrl s n y f)) (here : y ∈ p.inbox)
        (f_shut : ∀ t, (took y).ctrlGate m x.ident = (t, false) → f (took y) = t) :
        ∀ g, (took y).epochOf m.fgid = some g →
          (m.epoch ≠ g → exec i s = .next (staleCounted (took y))) ∧ (m.epoch = g → x.ident ∈ (took y).cvy.seen → exec i s = .next (took y)) := by
      intro g epoch
      refine ⟨fun other => ?_, fun same seen => ?_⟩
      · exact h.trans (congrArg _ ((onCtrl_taken here).trans (f_shut _ (ctrlGate_stale epoch other))))
      · exact h.trans (congrArg _ ((onCtrl_taken here).trans (f_shut _ (ctrlGate_repeat (same ▸ epoch) seen))))
    simp only [List.mem_cons, Prod.mk.injEq, List.not_mem_nil, or_false]
    rintro y i (⟨rfl, rfl⟩ | ⟨rfl, rfl⟩ | ⟨rfl, rfl⟩) here g epoch
    · exact shut (exec_abort x) here (fun t gate => (control_shut gate).1) g epoch
    · exact shut (exec_memberFail x) here (fun t gate => (control_shut gate).2.1) g epoch
    · exact shut (exec_slow x) here (fun t gate => (control_shut gate).2.2) g epoch
  · intro t epoch new u c runs seq
    rw [exec_abort, onCtrl_taken here]
    exact congrArg _ (abortMsg_ends (ctrlGate_open epoch new) runs seq)
  · intro t epoch new u v
    rw [exec_memberFail, onCtrl_taken here]
    exact congrArg _ (memberFailMsg_ends (ctrlGate_open epoch new))
  · intro t epoch new u v c runs
    rw [exec_slow, onCtrl_taken here]
    exact congrArg _ (slowMsg_marks (ctrlGate_open epoch new) runs)

end Sys2Proof.Machine

/-! # Stream registers, doorbells and the hamper -/

namespace Sys2Proof.Machine

open Sys2Proof.Slice0

/-! ### STREAM_CMD and the doorbells (R430, R431, R438) -/

section
variable {s : State} {a : Agent}

theorem put32_streamCmd (m : MayWrite s a) (on : s.hubEn 0 = true) (v : W32) :
    .next (s.put32 a 0x3800010 v) = hubWrote a (streamWrite s (s.tagOf a) 0x10 .all (v.zeroExtend 64)) := by
  have runs : s.gated .stream 0x10 = false := by
    change (!s.hubEn 0) = false
    rw [on]
    rfl
  rw [put32_wrote (o := 0x10) (b := .stream) m (by decide) rfl rfl runs v (by decide) rfl, blockWrite_stream]

theorem streamWrite_cmd (g : Tag) (p : Part) : streamWrite s g 0x10 p 1#64 = s.streamReq s.stream.sel.toNat .open_ ∧
    streamWrite s g 0x10 p 2#64 = s.streamReq s.stream.sel.toNat .close ∧ streamWrite s g 0x10 p 3#64 = s.streamReq s.stream.sel.toNat .resume :=
  ⟨rfl, rfl, rfl⟩

theorem exec_streamOpen (m : MayWrite s a) (on : s.hubEn 0 = true) :
    exec (.streamOpen a) s = hubWrote a (s.streamReq s.stream.sel.toNat .open_) :=
  (put32_streamCmd m on 1#32).trans (congrArg (fun u => hubWrote a u) (streamWrite_cmd (s.tagOf a) .all).1)

theorem exec_streamClose (m : MayWrite s a) (on : s.hubEn 0 = true) :
    exec (.streamClose a) s = hubWrote a (s.streamReq s.stream.sel.toNat .close) :=
  (put32_streamCmd m on 2#32).trans (congrArg (fun u => hubWrote a u) (streamWrite_cmd (s.tagOf a) .all).2.1)

theorem exec_streamResume (m : MayWrite s a) (on : s.hubEn 0 = true) :
    exec (.streamResume a) s = hubWrote a (s.streamReq s.stream.sel.toNat .resume) :=
  (put32_streamCmd m on 3#32).trans (congrArg (fun u => hubWrote a u) (streamWrite_cmd (s.tagOf a) .all).2.2)

/-- The offset of a stream's doorbell in its block. -/
def doorbellOff (n : StreamIx) : Nat := 0x10000 + 4 * n.val

theorem arrIx_doorbell (n : StreamIx) : arrIx (doorbellOff n) 0x40 8 8 = none ∧ arrIx (doorbellOff n) 0x100 8 64 = none ∧
    arrIx (doorbellOff n) 0x10000 4 8192 = some (n.val, 0) := by
  refine ⟨if_neg (by unfold doorbellOff; omega), if_neg (by unfold doorbellOff; omega), arrIx_at (by decide) n.isLt⟩

theorem blockRead_doorbell (n : StreamIx) : (blockRead s a .stream (doorbellOff n)).map (·.1) = some false := by
  obtain ⟨word, base, bell⟩ := arrIx_doorbell n
  have high : 0x10000 ≤ doorbellOff n := by unfold doorbellOff; omega
  change (streamRead s (doorbellOff n)).map (·.1) = some false
  unfold streamRead
  dsimp only
  split <;> simp_all

theorem streamWrite_doorbell (n : StreamIx) (g : Tag) (p : Part) (v : W64) :
    streamWrite s g (doorbellOff n) p v = s.streamReq n.val (.doorbell (v.truncate 32)) := by
  obtain ⟨word, base, bell⟩ := arrIx_doorbell n
  have high : 0x10000 ≤ doorbellOff n := by unfold doorbellOff; omega
  unfold streamWrite
  dsimp only
  split <;> simp_all

theorem exec_streamDoorbell (m : MayWrite s a) (on : s.hubEn 0 = true) (n : StreamIx) (v : W32) :
    exec (.streamDoorbell a n v) s = hubWrote a (s.streamReq n.val (.doorbell v)) := by
  have runs : s.gated .stream (doorbellOff n) = false := by
    change (!s.hubEn 0) = false
    rw [on]
    rfl
  have place : hubBlock (0x3810000 + 4 * n.val) = some (.stream, doorbellOff n) := by
    have offset : 0x3810000 + 4 * n.val - 0x3800000 = doorbellOff n := by unfold doorbellOff; omega
    unfold hubBlock
    simp (disch := omega) only [if_neg, if_pos, offset]
  refine (put32_wrote m (by omega) place rfl runs v (by omega) (blockRead_doorbell n)).trans ?_
  rw [blockWrite_stream, streamWrite_doorbell, truncate_zeroExtend]

end

/-! ### Requests on an entry (R430 to R432) -/

section
variable {s t : State} {i : Nat} {r : StreamReq}

theorem streamReq_waits (h : s.fetchEntry i = none) :
    s.streamReq i r = { s with stream := { s.stream with pending := s.stream.pending ++ [(i, r)] } } := by
  unfold State.streamReq
  rw [h]

theorem streamReq_served (h : s.fetchEntry i = some t) : s.streamReq i r = t.applyReq i r := by
  unfold State.streamReq
  rw [h]

theorem applyReq_open (s : State) (i : Nat) : s.applyReq i .open_ =
    let e := s.entry i
    if e.st ≠ .closed then s
    else if s.openOk e then s.setEntry i { e with
      st := .idle, head := 0, tail := 0, fidx := 0, nlaunch := 0, fault := 0, run := none, closing := false, resuming := false }
    else { s with stream := { s.stream with bad := true } } := rfl

theorem applyReq_close (s : State) (i : Nat) : s.applyReq i .close =
    let e := s.entry i
    if e.st = .closed then s
    else if e.run.isSome then s.setEntry i { e with closing := true }
    else s.setEntry i { e with st := .closed, closing := false, resuming := false } := rfl

theorem applyReq_resume (s : State) (i : Nat) : s.applyReq i .resume =
    let e := s.entry i
    if e.st = .faulted then s.setEntry i { e with st := if e.tail = e.fidx + 1 then .idle else .active, head := e.fidx + 1, fault := 0 }
    else if e.run.isSome then s.setEntry i { e with resuming := true }
    else s := rfl

variable {v : W32}

theorem applyReq_doorbell_closed (h : (s.entry i).st = .closed) :
    s.applyReq i (.doorbell v) = { s with stream := { s.stream with dbClosed := satInc s.stream.dbClosed } } := by
  unfold State.applyReq
  dsimp only
  rw [h]

theorem applyReq_doorbell_faulted (h : (s.entry i).st = .faulted) :
    s.applyReq i (.doorbell v) = s.setEntry i { s.entry i with tail := v } := by
  unfold State.applyReq
  dsimp only
  rw [h]

theorem applyReq_doorbell_runs (open_ : (s.entry i).st ≠ .closed) (sound : (s.entry i).st ≠ .faulted) : s.applyReq i (.doorbell v) =
    if 2 ^ (s.entry i).lsize.toNat < (v - (s.entry i).head).toNat then s.faultStream i 2 0
    else s.setEntry i { s.entry i with
      tail := v, st := if (s.entry i).st = .idle && v ≠ (s.entry i).head then .active else (s.entry i).st } := by
  unfold State.applyReq
  dsimp only
  split
  · next h => exact absurd h open_
  · next h => exact absurd h sound
  · rfl

theorem servePending_absent (h : s.fetchEntry i = none) : s.servePending i = s := by
  unfold State.servePending
  rw [h]

theorem servePending_fetched (h : s.fetchEntry i = some t) : s.servePending i =
    let mine := t.stream.pending.filter (fun r => r.1 = i)
    let u := { t with stream := { t.stream with pending := t.stream.pending.filter (fun r => r.1 ≠ i) } }
    if mine = [] then s else mine.foldl (fun x r => x.applyReq i r.2) u := by
  unfold State.servePending
  rw [h]

end

/-- Settles O43: a request finds its entry in the hamper and takes effect there, or waits for a place. -/
theorem streamRequestsActOnTheirEntry : Obligations.StreamRequestsActOnTheirEntry := by
  unfold Obligations.StreamRequestsActOnTheirEntry
  intro s a n v sel waits
  refine ⟨fun m on => ⟨fun full => ⟨?_, ?_, ?_⟩, fun t found => ?_, fun full => ?_, fun t found => ?_⟩,
    fun full => congrArg _ (servePending_absent full), fun t found => ?_⟩
  · rw [exec_streamOpen m on, streamReq_waits full]
  · rw [exec_streamClose m on, streamReq_waits full]
  · rw [exec_streamResume m on, streamReq_waits full]
  · intro e
    have opens : exec (.streamOpen a) s = hubWrote a (t.applyReq sel .open_) := by rw [exec_streamOpen m on, streamReq_served found]
    have closes : exec (.streamClose a) s = hubWrote a (t.applyReq sel .close) := by rw [exec_streamClose m on, streamReq_served found]
    have resumes : exec (.streamResume a) s = hubWrote a (t.applyReq sel .resume) := by rw [exec_streamResume m on, streamReq_served found]
    have wrote {c : Instr} {x y : State} (h : exec c s = hubWrote a x) (does : x = y) : exec c s = hubWrote a y := does ▸ h
    refine ⟨fun st ok => wrote opens ?_, fun st bad => wrote opens ?_, fun st => wrote opens ?_, fun st => wrote closes ?_,
      fun st run => wrote closes ?_, fun st run => wrote closes ?_, fun st => wrote resumes ?_, fun st run => wrote resumes ?_,
      fun st run => wrote resumes ?_⟩
    · exact (applyReq_open t sel).trans ((if_neg (not_not.2 st)).trans (if_pos ok))
    · exact (applyReq_open t sel).trans ((if_neg (not_not.2 st)).trans (if_neg (by simp [e, bad])))
    · exact (applyReq_open t sel).trans (if_pos st)
    · exact (applyReq_close t sel).trans (if_pos st)
    · exact (applyReq_close t sel).trans ((if_neg st).trans (if_pos (Option.isSome_iff_ne_none.2 run)))
    · exact (applyReq_close t sel).trans ((if_neg st).trans (if_neg (mt Option.isSome_iff_ne_none.1 (not_not.2 run))))
    · exact (applyReq_resume t sel).trans (if_pos st)
    · exact (applyReq_resume t sel).trans ((if_neg st).trans (if_pos (Option.isSome_iff_ne_none.2 run)))
    · exact (applyReq_resume t sel).trans ((if_neg st).trans (if_neg (mt Option.isSome_iff_ne_none.1 (not_not.2 run))))
  · rw [exec_streamDoorbell m on, streamReq_waits full]
  · intro e room
    have rings {x : State} (does : t.applyReq n.val (.doorbell v) = x) : exec (.streamDoorbell a n v) s = hubWrote a x := by
      rw [exec_streamDoorbell m on, streamReq_served found, does]
    refine ⟨fun st => rings (applyReq_doorbell_closed st), fun st => rings (applyReq_doorbell_faulted st), fun open_ sound past => rings ?_,
      fun st fits => rings ?_, fun st fits => rings ?_⟩
    · exact (applyReq_doorbell_runs open_ sound).trans (if_pos (Nat.not_le.1 past))
    · have idle : (t.entry n.val).st = .idle := st
      refine (applyReq_doorbell_runs (by simp [idle]) (by simp [idle])).trans ((if_neg (Nat.not_lt.2 fits)).trans ?_)
      have state : (if (t.entry n.val).st = .idle && v ≠ (t.entry n.val).head then StreamSt.active else (t.entry n.val).st) =
          if v = e.head then .idle else .active := by
        by_cases same : v = (t.entry n.val).head <;> simp [idle, same, e]
      rw [state]
    · have open_ : (t.entry n.val).st ≠ .closed ∧ (t.entry n.val).st ≠ .faulted ∧ (t.entry n.val).st ≠ .idle := by
        rcases st with st | st <;> simp [show (t.entry n.val).st = _ from st]
      refine (applyReq_doorbell_runs open_.1 open_.2.1).trans ((if_neg (Nat.not_lt.2 fits)).trans ?_)
      have state : (if (t.entry n.val).st = .idle && v ≠ (t.entry n.val).head then StreamSt.active else (t.entry n.val).st) = (t.entry n.val).st :=
        if_neg (by simp [open_.2.2])
      rw [state]
  · intro mine u
    refine ⟨fun none_ => congrArg _ ((servePending_fetched found).trans (if_pos none_)),
      fun some_ => congrArg _ ((servePending_fetched found).trans (if_neg some_))⟩

end Sys2Proof.Machine

/-! # Stream commands at their start -/

namespace Sys2Proof.Machine

open Sys2Proof.Slice0

/-! ### Which command starts (R430, R433, R435) -/

theorem withOp_code (c : StreamCmd) {op : Nat} (h : op < 256) : cmdAt (withOp c op) 0 1 = op := by
  have code : (withOp c op).setWidth 8 = BitVec.ofNat 8 op := by
    unfold withOp
    rw [BitVec.setWidth_or, BitVec.setWidth_and, BitVec.setWidth_not (by decide), BitVec.setWidth_ofNat_of_le (by decide),
      BitVec.setWidth_ofNat_of_le (by decide), show (~~~(BitVec.ofNat 8 0xFF) : BitVec 8) = 0#8 by decide]
    simp
  have low := congrArg BitVec.toNat code
  rw [BitVec.toNat_setWidth, BitVec.toNat_ofNat] at low
  change (withOp c op).toNat / 1 % 2 ^ 8 = op
  rw [Nat.div_one, low]
  omega

section
variable {s : State} {i op : Nat} {c : StreamCmd} {host : List PByte} {chunks : List (List PByte × List PByte)}

theorem streamCmd_idle (no : s.canStart i = false) : s.streamCmd i op c host chunks = s := if_neg (by simp [no])

theorem streamCmd_starts (can : s.canStart i = true) {r : Option State} (start : s.startCmd i (withOp c op) host chunks = r) :
    s.streamCmd i op c host chunks = r.getD s := by
  subst start
  exact if_pos can

/-- A stream that may start a command runs none. -/
theorem canStart_run (can : s.canStart i = true) : (s.entry i).run = none := by
  unfold State.canStart at can
  simp only [Bool.and_eq_true] at can
  exact Option.isNone_iff_eq_none.1 can.2

theorem startCmd_bad (bad : cmdOk c = false) : s.startCmd i c host chunks = some ((s.setRun i c .barrier .active).faultStream i 1 0) :=
  if_pos (by simp [bad])

end

/-- PATCH writes every entry when the checks of R292 pass, and none otherwise. -/
theorem patchGo_eq (s : State) (i : Nat) (c : StreamCmd) (m : Module) (k : Kernel) (kn : Nat) (l : List (Nat × W64)) : s.patchGo i c m k kn l =
    let code := s.paramCode m.part m.ctx k l
    let m' : Module := { m with kernels := m.kernels.set kn { k with image := overlay k.image l } }
    if code = 0 then ({ s with modules := s.modules.map (fun x => if x.serial = m.serial then m' else x) } : State).completeCmd i c
    else s.faultStream i code 0 := by
  unfold State.patchGo
  split
  · next code => rw [code]; rfl
  · next other => exact (if_neg other).symm

/-! ### The effect of each opcode (R435) -/

/-- The state in which a command's effect is worked out: it runs on its stream. -/
def begun (s : State) (i : Nat) (c : StreamCmd) : State := s.setRun i c .barrier .active

section
variable {s : State} {i : Nat} {c : StreamCmd} {host : List PByte} {chunks : List (List PByte × List PByte)} (ok : cmdOk c = true)
include ok

theorem startCmd_nop (op : cmdAt c 0 1 = 0) : s.startCmd i c host chunks = some ((begun s i c).completeCmd i c) := by
  simp only [State.startCmd, ok, op, Bool.not_true, Bool.false_eq_true, if_false, begun]

theorem startCmd_noKernel (op : cmdAt c 0 1 = 1 ∨ cmdAt c 0 1 = 2)
    (none_ : s.kernelOf (s.entry i).part (s.entry i).ctx (BitVec.ofNat 32 (cmdAt c 8 4)) = none) :
    s.startCmd i c host chunks = some ((begun s i c).faultStream i 3 0) := by
  have none_ : (s.setRun i c .barrier .active).kernelOf (s.entry i).part (s.entry i).ctx (BitVec.ofNat 32 (cmdAt c 8 4)) = none := none_
  rcases op with op | op <;> simp only [State.startCmd, ok, op, none_, Bool.not_true, Bool.false_eq_true, if_false, begun]

section
variable {m : Module} {k : Kernel} (kernel : s.kernelOf (s.entry i).part (s.entry i).ctx (BitVec.ofNat 32 (cmdAt c 8 4)) = some (m, k))
include kernel

theorem startCmd_launch (op : cmdAt c 0 1 = 1) : s.startCmd i c host chunks =
    let ov := overridesOf c (cmdAt c 12 1)
    let code := (begun s i c).paramCode (s.entry i).part (s.entry i).ctx k ov
    if code ≠ 0 then some ((begun s i c).faultStream i code 0)
    else if s.tilesBusy i k.tiles then none
    else some ((begun s i c).launchGo i c (BitVec.ofNat 32 (cmdAt c 8 4)) k ov) := by
  have kernel : (s.setRun i c .barrier .active).kernelOf (s.entry i).part (s.entry i).ctx (BitVec.ofNat 32 (cmdAt c 8 4)) = some (m, k) := kernel
  simp only [State.startCmd, ok, op, kernel, Bool.not_true, Bool.false_eq_true, if_false, begun]
  rfl

theorem startCmd_patchDirect (op : cmdAt c 0 1 = 2) (direct : cmdAt c 13 1 = 0) : s.startCmd i c host chunks =
    some ((begun s i c).patchGo i c m k ((BitVec.ofNat 32 (cmdAt c 8 4)).toNat % 65536) (overridesOf c (cmdAt c 12 1))) := by
  have kernel : (s.setRun i c .barrier .active).kernelOf (s.entry i).part (s.entry i).ctx (BitVec.ofNat 32 (cmdAt c 8 4)) = some (m, k) := kernel
  simp only [State.startCmd, ok, op, kernel, direct, Bool.not_true, Bool.false_eq_true, if_false, if_true, begun]

theorem startCmd_patchList (op : cmdAt c 0 1 = 2) (listed : cmdAt c 13 1 = 1) {d : List PByte}
    (read : (begun s i c).fetch (s.entry i) (cmdAt c 16 8) (16 * cmdAt c 24 2) host = some (0, d)) : s.startCmd i c host chunks =
    some ((begun s i c).patchGo i c m k ((BitVec.ofNat 32 (cmdAt c 8 4)).toNat % 65536) (listEntries d (cmdAt c 24 2))) := by
  have kernel : (s.setRun i c .barrier .active).kernelOf (s.entry i).part (s.entry i).ctx (BitVec.ofNat 32 (cmdAt c 8 4)) = some (m, k) := kernel
  unfold begun at read ⊢
  simp only [State.startCmd, ok, op, kernel, listed, read, Bool.not_true, Bool.false_eq_true, if_false, one_ne_zero]

end

theorem startCmd_copy (op : cmdAt c 0 1 = 3) : s.startCmd i c host chunks = s.copyGo i c (s.entry i) := by
  simp only [State.startCmd, ok, op, Bool.not_true, Bool.false_eq_true, if_false]

theorem startCmd_signal (op : cmdAt c 0 1 = 6) : s.startCmd i c host chunks = some (((begun s i c).evPut (s.entry i).part (s.entry i).ctx
    (cmdAt c 8 2) (cmdAt c 10 1 = 1) (BitVec.ofNat 64 (cmdAt c 16 8))).completeCmd i c) := by
  simp only [State.startCmd, ok, op, Bool.not_true, Bool.false_eq_true, if_false, begun]

theorem startCmd_wait (op : cmdAt c 0 1 = 7) : s.startCmd i c host chunks =
    let thr := BitVec.ofNat 64 (cmdAt c 16 8)
    if (begun s i c).waitMet (s.entry i) (cmdAt c 8 2) thr then some ((begun s i c).completeCmd i c)
    else some ((begun s i c).setRun i c (.wait (cmdAt c 8 2) thr) .waiting) := by
  simp only [State.startCmd, ok, op, Bool.not_true, Bool.false_eq_true, if_false, begun]
  rfl

theorem startCmd_barrier (op : cmdAt c 0 1 = 8) : s.startCmd i c host chunks =
    if !(begun s i c).barrierOwn (s.entry i) c then some ((begun s i c).faultStream i 1 0)
    else if (begun s i c).barrierMet c then some ((begun s i c).completeCmd i c)
    else some ((begun s i c).setRun i c .barrier .waiting) := by
  simp only [State.startCmd, ok, op, Bool.not_true, Bool.false_eq_true, if_false, begun]
  rfl

theorem startCmd_update (op : cmdAt c 0 1 = 9) : s.startCmd i c host chunks =
    ((begun s i c).queueUpdate (s.entry i).part (s.entry i).ctx (cmdAt c 8 4) (BitVec.ofNat 64 (cmdAt c 16 8))
      (.stream (streamIx i) (cmdAt c 24 8))).map (fun t => t.setRun i c (.update s.nextId) .active) := by
  simp only [State.startCmd, ok, op, Bool.not_true, Bool.false_eq_true, if_false, begun]
  split
  · next full => rw [full]; rfl
  · next queued => rw [queued]; rfl

/-! ### SEAL, UNSEAL, CONVOY and RECONCILE (R405, R419, R462, R464) -/

/-- A slot's in-flight count rises as a SEAL or UNSEAL of it starts. -/
def inflight (s : State) (slot : Nat) : State :=
  { s with sec := s.sec.setSlot slot { s.sec.slot slot with inflight := (s.sec.slot slot).inflight + 1 } }

/-- The codes of SEAL and UNSEAL. -/
def cryptCode (outward : Bool) : Nat := if outward then 4 else 5

theorem startCmd_cryptRefused {outward : Bool} {code : Nat} (op : cmdAt c 0 1 = cryptCode outward)
    (refused : (begun s i c).cryptStart (s.entry i) c outward = .inl code) :
    s.startCmd i c host chunks = some ((begun s i c).faultStream i code 0) := by
  unfold begun at refused ⊢
  cases outward <;>
    simp only [State.startCmd, ok, op, cryptCode, refused, Bool.not_true, Bool.false_eq_true, if_false, if_true]

variable {w ch slot : Nat} {gen : W32}

theorem startCmd_seal (op : cmdAt c 0 1 = 4) (starts : (begun s i c).cryptStart (s.entry i) c true = .inr (w, ch, slot, gen)) :
    s.startCmd i c host chunks =
      let r := (inflight (begun s i c) slot).sealChunks (s.entry i).tag (cmdAt c 8 8) (cmdAt c 24 8) w ch slot s.sec.sessionNo
        (List.range ((cmdAt c 24 8 + 4095) / 4096))
      some (r.1.cryptFinish i c slot gen s.sec.sessionNo r.2.1 r.2.2) := by
  unfold begun at starts ⊢
  simp only [State.startCmd, ok, op, starts, Bool.not_true, Bool.false_eq_true, if_false]
  rfl

theorem startCmd_unseal (op : cmdAt c 0 1 = 5) (starts : (begun s i c).cryptStart (s.entry i) c false = .inr (w, ch, slot, gen)) :
    s.startCmd i c host chunks =
      some (((inflight (begun s i c) slot).setRun i c (.crypt slot gen s.sec.sessionNo 0) .active).unsealGo i c slot gen s.sec.sessionNo 0 chunks) := by
  unfold begun at starts ⊢
  simp only [State.startCmd, ok, op, starts, Bool.not_true, Bool.false_eq_true, if_false]
  rfl

/-- The collective that CONVOY or RECONCILE asks for. -/
def collOfCmd (c : StreamCmd) (kind : Fin 4) (pgroup : Option W32) : CollReq :=
  { kind := kind, retry := cmdAt c 13 1 = 1, root := BitVec.ofNat 16 (cmdAt c 14 2), group := BitVec.ofNat 32 (cmdAt c 8 4)
    tensor := cmdAt c 16 8, bytes := cmdAt c 24 8, elem := 8, step := BitVec.ofNat 64 (cmdAt c 32 8), pgroup := pgroup }

theorem startCmd_convoy (op : cmdAt c 0 1 = 0xA) : s.startCmd i c host chunks =
    ((begun s i c).queueColl (s.entry i).part (s.entry i).ctx (collOfCmd c ⟨cmdAt c 12 1 % 4, Nat.mod_lt _ (by decide)⟩
      (if cmdAt c 12 1 % 4 = 3 then some (BitVec.ofNat 32 (cmdAt c 14 2)) else none)) (.stream (streamIx i) (cmdAt c 40 8))).map
      (fun t => t.setRun i c (.coll s.nextId) .active) := by
  have stratus (h : cmdAt c 12 1 % 4 < 4) : (⟨cmdAt c 12 1 % 4, h⟩ : Fin 4) = 3 ↔ cmdAt c 12 1 % 4 = 3 := Fin.ext_iff
  simp only [State.startCmd, ok, op, Bool.not_true, Bool.false_eq_true, if_false, begun, collOfCmd, Nat.reduceEqDiff, decide_false,
    Bool.false_and, stratus]
  split
  · next full => rw [full]; rfl
  · next queued => rw [queued]; rfl

theorem startCmd_reconcile (op : cmdAt c 0 1 = 0xB) : s.startCmd i c host chunks =
    ((begun s i c).queueColl (s.entry i).part (s.entry i).ctx (collOfCmd c 2
      (if cmdAt c 12 1 = 1 then some (BitVec.ofNat 32 (cmdAt c 48 4)) else none)) (.stream (streamIx i) (cmdAt c 40 8))).map
      (fun t => t.setRun i c (.coll s.nextId) .active) := by
  have kind : ((2 : Fin 4) = 3) = False := by decide
  simp only [State.startCmd, ok, op, Bool.not_true, Bool.false_eq_true, if_false, if_true, begun, collOfCmd, decide_true, Bool.true_and,
    decide_eq_true_eq, kind]
  split
  · next full => rw [full]; rfl
  · next queued => rw [queued]; rfl

end

/-! ### Conditions and channels -/

theorem bnot_ne_true {b : Bool} (h : b = true) : ¬ (!b) = true := by
  simp [h]

section
variable {s : State} {i : Nat} {c : StreamCmd} {e : StreamEnt}

theorem waitMet_iff (s : State) (e : StreamEnt) (ev : Nat) (thr : W64) :
    s.waitMet e ev thr = true ↔ ∃ v, s.evGet e.part e.ctx ev = some v ∧ 0 ≤ (v - thr).toInt := by
  unfold State.waitMet
  cases s.evGet e.part e.ctx ev <;> simp

theorem streamIx_val (n : StreamIx) : streamIx n.val = n := Fin.ext (Nat.mod_eq_of_lt n.isLt)

theorem cryptStart_guest {outward : Bool} (guest : s.sec.conf = false) : s.cryptStart e c outward = .inl 1 := if_pos (by simp [guest])

theorem copyGo_waits (h : chosen 2 s.draws ((List.finRange 64).filter (fun x => (s.chan x.val).st = .idle && (s.copyOf x.val).isNone)) = none) :
    s.copyGo i c e = none := by
  unfold State.copyGo
  rw [h]

theorem copyGo_starts {x : Fin 64}
    (h : chosen 2 s.draws ((List.finRange 64).filter (fun x => (s.chan x.val).st = .idle && (s.copyOf x.val).isNone)) = some x) :
    s.copyGo i c e = some ((((s.drawn 1).setChan x.val { s.chan x.val with
      src := BitVec.ofNat 64 (cmdAt c 8 8), dst := BitVec.ofNat 64 (cmdAt c 16 8), cnt := BitVec.ofNat 64 (cmdAt c 24 8)
      sstr := 0, sstr2 := 0, dstr := 0, dstr2 := 0, ctrl := copyCtrl
      tag := BitVec.ofNat 32 (e.part + 16 * e.ctx) }).setRun i c (.copy x.val) .active).sysCtrl x (copyCtrl ||| 1#64)) := by
  unfold State.copyGo
  rw [h]

end

/-- UNSEAL is a new command unless one runs. -/
theorem exec_unseal_starts {s : State} {n : StreamIx} {c : StreamCmd} {chunks : List (List PByte × List PByte)}
    (idle : ∀ y slot gen k j, (s.entry n.val).run ≠ some (y, .crypt slot gen k j)) :
    exec (.unseal n c chunks) s = .next (s.streamCmd n.val 5 c [] chunks) := by
  change execUnseal n c chunks s = _
  unfold execUnseal
  split
  · next running => exact absurd running (idle _ _ _ _ _)
  · rfl

/-- Settles O44: a command that may start is `startCmd` of its opcode, whose branches are the rows of R435. -/
theorem streamCommandsStart : Obligations.StreamCommandsStart := by
  unfold Obligations.StreamCommandsStart
  intro s n c host chunks i e w s1 all coll
  have rows (idle : ∀ y slot gen k j, e.run ≠ some (y, .crypt slot gen k j)) :
      ∀ o ∈ all, o.2 < 256 ∧ ∃ h ch, exec o.1 s = .next (s.streamCmd i o.2 c h ch) := by
    simp only [all, List.forall_mem_cons, List.not_mem_nil, false_implies, implies_true, and_true]
    exact ⟨⟨by decide, _, _, rfl⟩, ⟨by decide, _, _, rfl⟩, ⟨by decide, _, _, rfl⟩, ⟨by decide, _, _, rfl⟩, ⟨by decide, _, _, rfl⟩,
      ⟨by decide, _, _, exec_unseal_starts idle⟩, ⟨by decide, _, _, rfl⟩, ⟨by decide, _, _, rfl⟩, ⟨by decide, _, _, rfl⟩,
      ⟨by decide, _, _, rfl⟩, ⟨by decide, _, _, rfl⟩, ⟨by decide, _, _, rfl⟩⟩
  refine ⟨fun no o mem idle => ?_, fun can => ?_⟩
  · obtain ⟨-, h, ch, runs⟩ := rows idle o mem
    exact runs.trans (congrArg _ (streamCmd_idle no))
  have idle (y : StreamCmd) (slot : Nat) (gen : W32) (k j : Nat) : e.run ≠ some (y, .crypt slot gen k j) := by
    rw [show e.run = none from canStart_run can]
    nofun
  have starts {o : Instr} {op : Nat} {h : List PByte} {ch : List (List PByte × List PByte)} {r : Option State}
      (runs : exec o s = .next (s.streamCmd i op c h ch)) (start : s.startCmd i (w op) h ch = r) : exec o s = .next (r.getD s) :=
    runs.trans (congrArg _ (streamCmd_starts can start))
  have code {op : Nat} (h : op < 256) : cmdAt (w op) 0 1 = op := withOp_code c h
  have unseals : exec (.unseal n c chunks) s = .next (s.streamCmd i 5 c [] chunks) := exec_unseal_starts idle
  refine ⟨fun o mem bad => ?_, fun ok => starts rfl (startCmd_nop ok (code (by decide))), fun ok => ?_, fun ok => ?_, fun ok => ?_, ?_,
    fun win ch slot gen => ?_, fun ok => starts rfl (startCmd_signal ok (code (by decide))), fun ok => ?_, fun ok => ?_, fun ok => ?_, ?_⟩
  · obtain ⟨-, h, ch, runs⟩ := rows idle o mem
    exact starts runs (startCmd_bad bad)
  · intro h
    refine ⟨fun none_ => starts rfl (startCmd_noKernel ok (.inl (code (by decide))) none_), fun m k kernel => ?_⟩
    intro ov code_ held
    have launch := startCmd_launch (host := []) (chunks := []) ok kernel (code (by decide))
    refine ⟨fun bad => starts rfl (launch.trans (if_pos bad)), fun good busy => starts (r := none) rfl (launch.trans ?_),
      fun good free => starts (r := some _) rfl (launch.trans ?_)⟩
    · exact (if_neg (not_not.2 good)).trans (if_pos busy)
    · exact (if_neg (not_not.2 good)).trans (if_neg (Bool.eq_false_iff.1 free))
  · intro h
    refine ⟨fun none_ => starts rfl (startCmd_noKernel ok (.inr (code (by decide))) none_), fun m k kernel direct => ?_, fun m k d kernel listed read => ?_⟩
    · intro l code_ m'
      have patch := (startCmd_patchDirect (host := host) (chunks := []) ok kernel (code (by decide)) direct).trans (congrArg some (patchGo_eq ..))
      exact ⟨fun bad => starts rfl (patch.trans (congrArg some (if_neg bad))), fun good => starts rfl (patch.trans (congrArg some (if_pos good)))⟩
    · exact starts rfl (startCmd_patchList ok kernel (code (by decide)) listed read)
  · intro free
    have copy := startCmd_copy (s := s) (i := i) (host := []) (chunks := []) ok (code (by decide))
    refine ⟨fun none_ => starts rfl (copy.trans (copyGo_waits none_)), fun x found => starts rfl (copy.trans (copyGo_starts found))⟩
  · simp only [List.forall_mem_cons, List.not_mem_nil, false_implies, implies_true, and_true]
    have refused {outward : Bool} {o : Instr} {h : List PByte} {ch : List (List PByte × List PByte)}
        (runs : exec o s = .next (s.streamCmd i (cryptCode outward) c h ch)) (ok : cmdOk (w (cryptCode outward)) = true) :
        (s.sec.conf = false → exec o s = .next ((s1 (cryptCode outward)).faultStream i 1 0)) ∧
        (∀ code, (s1 (cryptCode outward)).cryptStart e (w (cryptCode outward)) outward = .inl code →
          exec o s = .next ((s1 (cryptCode outward)).faultStream i code 0)) := by
      have op : cmdAt (w (cryptCode outward)) 0 1 = cryptCode outward := code (by cases outward <;> decide)
      exact ⟨fun guest => starts runs (startCmd_cryptRefused ok op (cryptStart_guest guest)),
        fun k h => starts runs (startCmd_cryptRefused ok op h)⟩
    exact ⟨refused (outward := true) rfl, refused (outward := false) unseals⟩
  · intro k held
    exact ⟨fun ok start => starts rfl (startCmd_seal ok (code (by decide)) start),
      fun ok start => starts unseals (startCmd_unseal ok (code (by decide)) start)⟩
  · intro thr met
    have wait := startCmd_wait (s := s) (i := i) (host := []) (chunks := []) ok (code (by decide))
    refine ⟨fun h => starts rfl (wait.trans (if_pos ((waitMet_iff ..).2 h))), fun h => starts rfl (wait.trans (if_neg (mt (waitMet_iff ..).1 h)))⟩
  · have barrier := startCmd_barrier (s := s) (i := i) (host := []) (chunks := []) ok (code (by decide))
    exact ⟨fun other => starts rfl (barrier.trans (if_pos (congrArg (fun b => !b) other))),
      fun own met => starts rfl (barrier.trans ((if_neg (bnot_ne_true own)).trans (if_pos met))),
      fun own unmet => starts rfl (barrier.trans ((if_neg (bnot_ne_true own)).trans (if_neg (Bool.eq_false_iff.1 unmet))))⟩
  · intro q
    have update := startCmd_update (s := s) (i := i) (host := []) (chunks := []) ok (code (by decide))
    rw [show streamIx i = n from streamIx_val n] at update
    exact ⟨fun full => starts rfl (update.trans (congrArg _ full)), fun t queued => starts rfl (update.trans (congrArg _ queued))⟩
  · simp only [List.forall_mem_cons, List.not_mem_nil, false_implies, implies_true, and_true]
    refine ⟨fun ok => ?_, fun ok => ?_⟩
    · have convoy := startCmd_convoy (s := s) (i := i) (host := []) (chunks := []) ok (code (by decide))
      rw [show streamIx i = n from streamIx_val n] at convoy
      exact ⟨fun full => starts rfl (convoy.trans (congrArg _ full)), fun t queued => starts rfl (convoy.trans (congrArg _ queued))⟩
    · have reconcile := startCmd_reconcile (s := s) (i := i) (host := []) (chunks := []) ok (code (by decide))
      rw [show streamIx i = n from streamIx_val n] at reconcile
      exact ⟨fun full => starts rfl (reconcile.trans (congrArg _ full)), fun t queued => starts rfl (reconcile.trans (congrArg _ queued))⟩

end Sys2Proof.Machine

/-! # Dispatch and end of stream commands -/

namespace Sys2Proof.Machine

open Sys2Proof.Slice0

/-! ### Dispatch (R433) -/

section
variable {s : State} {i : Nat}

theorem tryStream_starts {t : State} {d host : List PByte}
    (read : s.fetch (s.entry i) ((s.entry i).slotAddr (s.entry i).head.toNat) 64 host = some (0, d))
    (start : s.startCmd i (BitVec.ofNat 512 (leNatP d)) [] [] = some t) : s.tryStream i host = some t := by
  unfold State.tryStream
  dsimp only
  rw [read]
  exact start

theorem firstStart_starts {t : State} {host : List PByte} (l : List Nat) (start : s.tryStream i host = some t) :
    s.firstStart host (i :: l) = { t with stream := { t.stream with lastServed := i } } := by
  unfold State.firstStart
  rw [start]

/-! ### The end of a launch (R435, R437, R507) -/

/-- A launch ends once every tile of it has halted and is idle. -/
theorem endLaunch_eq {y : StreamCmd} {h : W32} {ts : List Nat} {image : Tab W64} (run : (s.entry i).run = some (y, .launch h ts image true)) :
    s.endLaunch i =
      if ts.all (fun t => (s.tile t).seq.st = .halted && tileIdle (s.tile t)) then
        if ts.any (fun t => (s.tile t).seq.faultHalt || (s.tile t).seq.mcHalt) then (s.releaseClaims (s.entry i) ts).faultStream i 0xA 0
        else (s.releaseClaims (s.entry i) ts).completeCmd i y
      else s := by
  have works : (ts.any (fun t => (s.tile t).seq.st ≠ .halted || !tileIdle (s.tile t))) =
      !ts.all (fun t => (s.tile t).seq.st = .halted && tileIdle (s.tile t)) := by
    rw [List.not_all_eq_any_not]
    refine congrArg (fun f => ts.any f) (funext fun t => ?_)
    rw [Bool.not_and, decide_not]
  unfold State.endLaunch
  dsimp only
  rw [run]
  dsimp only
  rw [works]
  cases ts.all (fun t => (s.tile t).seq.st = .halted && tileIdle (s.tile t)) <;> rfl

/-! ### Waits (R430, R435) -/

section
variable (waiting : (s.entry i).st = .waiting)
include waiting

theorem waitDone_wait {y : StreamCmd} {ev : Nat} {thr : W64} (run : (s.entry i).run = some (y, .wait ev thr)) :
    s.waitDone i = if s.waitMet (s.entry i) ev thr then s.completeCmd i y else s := by
  unfold State.waitDone
  dsimp only
  rw [if_neg (not_not.2 waiting), run]

theorem waitDone_barrier {y : StreamCmd} (run : (s.entry i).run = some (y, .barrier)) :
    s.waitDone i = if s.barrierMet y then s.completeCmd i y else s := by
  unfold State.waitDone
  dsimp only
  rw [if_neg (not_not.2 waiting), run]

theorem waitTimeout_wait {y : StreamCmd} {ev : Nat} {thr : W64} (run : (s.entry i).run = some (y, .wait ev thr)) :
    s.waitTimeout i = if cmdAt y 24 4 ≠ 0 then s.faultStream i 9 0 else s := by
  unfold State.waitTimeout
  dsimp only
  rw [if_neg (not_not.2 waiting), run]

theorem waitTimeout_barrier {y : StreamCmd} (run : (s.entry i).run = some (y, .barrier)) : s.waitTimeout i = s := by
  unfold State.waitTimeout
  dsimp only
  rw [if_neg (not_not.2 waiting), run]

end

/-! ### Completion and fault (R430, R436, R437) -/

/-- A command that asks for no record and no vector leaves its stream one place further. -/
theorem completeCmd_silent {c : StreamCmd} (silent : cmdAt c 1 1 = 0) : s.completeCmd i c =
    let e := s.entry i
    s.setEntry i ({ e with head := e.head + 1, nlaunch := if cmdAt c 0 1 = 1 then e.nlaunch + 1 else e.nlaunch } : StreamEnt).settle := by
  unfold State.completeCmd
  dsimp only
  rw [if_neg (by rw [silent]; decide), if_neg (by rw [silent]; decide)]

theorem faultStream_stays (code hi : Nat) (open_ : (s.entry i).closing = false) (stays : (s.entry i).resuming = false) :
    s.faultStream i code hi =
      let e := s.entry i
      let e' := { e with st := .faulted, fault := BitVec.ofNat 32 (hi * 2 ^ 24 + code), fidx := e.head, run := none }
      ((s.setEntry i e').writeRecord e' (match e.run with | some x => cmdAt x.1 4 4 | none => 0)).streamVector e' := by
  unfold State.faultStream
  dsimp only
  rw [if_neg (by simp [open_]), if_neg (by simp [stays])] <;> rfl

end

/-- Settles O45: the stream at the head of the ready ones is served, and each end looks at what its stream runs. -/
theorem streamCommandsDispatchAndEnd : Obligations.StreamCommandsDispatchAndEnd := by
  unfold Obligations.StreamCommandsDispatchAndEnd
  intro s n c host chunks i e
  refine ⟨fun none_ => ?_, fun j l d t ready read start => ?_, fun y h ts image run => ?_, fun y ev thr waiting run => ?_, fun y waiting run => ?_,
    fun slot gen k j run => ?_, fun silent => ?_, fun code hi open_ stays => faultStream_stays code hi open_ stays⟩
  · change Host.Outcome.next (s.firstStart host s.readyStreams) = _
    rw [none_]
    rfl
  · change Host.Outcome.next (s.firstStart host s.readyStreams) = _
    rw [ready, firstStart_starts l (tryStream_starts read start)]
  · intro done bad u
    have ends := endLaunch_eq run
    refine ⟨fun no => congrArg _ (ends.trans (if_neg (Bool.eq_false_iff.1 no))),
      fun all fails => congrArg _ (ends.trans ((if_pos all).trans (if_pos fails))),
      fun all fine => congrArg _ (ends.trans ((if_pos all).trans (if_neg (Bool.eq_false_iff.1 fine))))⟩
  · intro met
    have done := waitDone_wait waiting run
    have late := waitTimeout_wait waiting run
    exact ⟨fun h => congrArg _ (done.trans (if_pos ((waitMet_iff ..).2 h))), fun h => congrArg _ (done.trans (if_neg (mt (waitMet_iff ..).1 h))),
      fun limit => congrArg _ (late.trans (if_pos limit)), fun limit => congrArg _ (late.trans (if_neg (not_not.2 limit)))⟩
  · have done := waitDone_barrier waiting run
    exact ⟨fun met => congrArg _ (done.trans (if_pos met)), fun unmet => congrArg _ (done.trans (if_neg (Bool.eq_false_iff.1 unmet))),
      congrArg _ (waitTimeout_barrier waiting run)⟩
  · change execUnseal n c chunks s = _
    unfold execUnseal
    rw [show (s.entry n.val).run = _ from run]
    exact next_if_pos rfl
  · intro e'
    rw [completeCmd_silent silent]
    rfl

end Sys2Proof.Machine

/-! # The host's accesses and the PCIe link

BAR 0 reaches hub registers, BAR 2 a stack, and the MSI-X table is written through BAR 0. A host request is answered, or ends when the
link goes down; with the host lost its streams fault. -/

namespace Sys2Proof.Machine

open Sys2Proof.Slice0

/-! ### Waking the device (R497) -/

section
variable (s : State)

theorem devWake_pci : s.devWake.pci = s.pci := by unfold State.devWake; split <;> rfl
theorem devWake_sec : s.devWake.sec = s.sec := by unfold State.devWake; split <;> rfl

end

/-! ### BAR 0 (R424, R426) -/

section
variable {s : State} {off : Nat} {op : ReqOp}

/-- What the host hears of a refused access: ones for a read. -/
def onesOf (op : ReqOp) : List PByte := match op with | .read n => List.replicate n ((0xFF : Byte), false) | .write _ => []

/-- A refused access of BAR 0 counts. -/
def State.bar0Refused (s : State) : State := { s with pci := { s.pci with bar0err := satInc s.pci.bar0err } }

theorem regAccess_bar0 (s : State) (off : Nat) (op : ReqOp) : s.regAccess .bar0 (hubBase + off) op = s.bar0Reg off op := by
  unfold State.regAccess
  dsimp only
  rw [if_neg (by rintro (h | ⟨_, h⟩) <;> [exact absurd h (by decide); omega]), if_pos rfl, Nat.add_sub_cancel_left]

theorem bar0Reg_refused (h : off ≥ 0x4000000 ∨ (s.sec.conf = true ∧ confPage off (opLen op) = false)) :
    s.bar0Reg off op = ⟨s.bar0Refused, 3, onesOf op⟩ := by
  have closed : ¬ (decide (off < 0x4000000) && (!s.sec.conf || confPage off (opLen op))) = true :=
    decide_and_fails (h.imp (by omega) (fun c => by rw [c.1, c.2]; rfl))
  unfold State.bar0Reg
  dsimp only
  rw [if_neg closed, if_pos (.inr rfl)]
  rfl

theorem bar0Reg_served (low : off < 0x4000000) (seen : s.sec.conf = false ∨ confPage off (opLen op) = true) :
    s.bar0Reg off op = if (s.hubAccess .bar0 off op).status = 2 ∨ (s.hubAccess .bar0 off op).status = 3 then
      ⟨(s.hubAccess .bar0 off op).s.bar0Refused, (s.hubAccess .bar0 off op).status, onesOf op⟩ else s.hubAccess .bar0 off op := by
  have open_ : (decide (off < 0x4000000) && (!s.sec.conf || confPage off (opLen op))) = true :=
    decide_and_holds low (by rcases seen with c | c <;> simp [c])
  unfold State.bar0Reg
  dsimp only
  rw [if_pos open_]
  rfl

end

/-! ### BAR 2 (R425, R426) -/

section
variable {s : State} {b : BarAcc}

/-- The request that an access through BAR 2 makes. -/
def bar2Req (s : State) (b : BarAcc) : Req := ⟨.bar2, 0, 0, s.pci.b2base.toNat + b.off, b.op⟩

theorem bar2Go_outside (h : s.sec.conf = true ∨ bar2Size < b.off + opLen b.op ∨ memEnd < (bar2Req s b).addr + opLen b.op) :
    s.bar2Go b = s.respond (bar2Req s b) 1 [] := by
  refine if_pos ?_
  rcases h with h | h | h
  · simp [h]
  · simp [h]
  · exact Bool.or_eq_true_iff.2 (.inr (decide_eq_true h))

theorem bar2Go_inside (guest : s.sec.conf = false) (size : b.off + opLen b.op ≤ bar2Size) (mem : (bar2Req s b).addr + opLen b.op ≤ memEnd) :
    s.bar2Go b = s.stackArrive (bar2Req s b) := by
  refine if_neg ?_
  rw [guest, Bool.false_or, Bool.or_eq_true_iff, decide_eq_true_iff, decide_eq_true_iff]
  exact fun h => h.elim (fun h => absurd size (Nat.not_le.2 h)) (fun h => absurd mem (Nat.not_le.2 h))

theorem stackArrive_queued {r : Req} (h : s.memCheck (s.tagOf r.src) r.addr (opLen r.op) = 0) : s.stackArrive r =
    s.modStack (r.addr / 2 ^ 37) (fun k => { k with queue := k.queue ++ [⟨r, clsOf (s.tagOf r.src), 0⟩] }) := by
  unfold State.stackArrive
  exact if_neg (by simp [h])

theorem stackArrive_refused {r : Req} (h : s.memCheck (s.tagOf r.src) r.addr (opLen r.op) ≠ 0) : s.stackArrive r =
    s.respond r (s.memCheck (s.tagOf r.src) r.addr (opLen r.op)) (match r.op with
      | .read n => List.replicate n ((0 : Byte), decide (s.memCheck (s.tagOf r.src) r.addr (opLen r.op) = 5)) | .write _ => []) := by
  unfold State.stackArrive
  refine (if_pos h).trans ?_
  cases r.op <;> rfl

/-- What the host hears of an access: the bytes of a read. -/
def heard (op : ReqOp) (x : State) (d : List PByte) : State := match op with | .read _ => x.emit (.barData d) | .write _ => x

/-- A refused access of BAR 2 counts, and a read gives ones. -/
theorem respond_bar2_refused {op : ReqOp} {addr status : Nat} (no : status ≠ 0) (unpoisoned : status ≠ 5) (d : List PByte) :
    s.respond ⟨.bar2, 0, 0, addr, op⟩ status d = heard op { s with pci := { s.pci with bar2err := satInc s.pci.bar2err } } (onesOf op) := by
  have bad : (decide (status ≠ 0) && decide (status ≠ 5)) = true := by simp [no, unpoisoned]
  unfold State.respond
  dsimp only
  rw [bad]
  cases op <;> rfl

/-- An access of BAR 2 that is answered OK or POISON gives its bytes. -/
theorem respond_bar2_answered {op : ReqOp} {addr status : Nat} (ok : status = 0 ∨ status = 5) (d : List PByte) :
    s.respond ⟨.bar2, 0, 0, addr, op⟩ status d = heard op s d := by
  have good : (decide (status ≠ 0) && decide (status ≠ 5)) = false := by rcases ok with h | h <;> simp [h]
  unfold State.respond
  dsimp only
  rw [good]
  cases op <;> rfl

end

/-! ### The MSI-X table (R427) -/

section
variable {s : State} (vec : Fin 2048) (word : Fin 4) (v : W32)

theorem arrIx_msix : arrIx (0x8000 + 16 * vec.val + 4 * word.val) 0x8000 4 8192 = some (4 * vec.val + word.val, 0) := by
  rw [show 0x8000 + 16 * vec.val + 4 * word.val = 0x8000 + 4 * (4 * vec.val + word.val) by omega]
  exact arrIx_at (by decide) (by omega)

theorem pciRead_msix : (pciRead s (0x8000 + 16 * vec.val + 4 * word.val)).map (·.1) = some false := by
  unfold pciRead
  split
  case h_7 => rw [arrIx_msix]; rfl
  all_goals omega

theorem pciWrite_msix (p : Part) (v : W64) :
    pciWrite s (0x8000 + 16 * vec.val + 4 * word.val) p v = s.msixWrite (4 * vec.val + word.val) (v.truncate 32) := by
  unfold pciWrite
  split
  case h_6 => rw [arrIx_msix]; rfl
  all_goals omega

theorem put32_msix (guest : s.sec.conf = false) :
    s.put32 .bar0 (0x3908000 + 16 * vec.val + 4 * word.val) v = s.msixWrite (4 * vec.val + word.val) v := by
  have block : hubBlock (0x3908000 + 16 * vec.val + 4 * word.val) = some (.pci, 0x8000 + 16 * vec.val + 4 * word.val) := by
    unfold hubBlock
    iterate 12 rw [if_neg (by omega)]
    rw [if_pos (by omega)]
    have : 0x3908000 + 16 * vec.val + 4 * word.val - 0x3900000 = 0x8000 + 16 * vec.val + 4 * word.val := by omega
    rw [this]
  have read : blockRead s .bar0 .pci (0x8000 + 16 * vec.val + 4 * word.val) = pciRead s (0x8000 + 16 * vec.val + 4 * word.val) := by
    unfold blockRead
    exact (if_neg (by omega)).trans (if_neg (by omega))
  have write (p : Part) (x : W64) : blockWrite s .bar0 .pci (0x8000 + 16 * vec.val + 4 * word.val) p x =
      (pciWrite s (0x8000 + 16 * vec.val + 4 * word.val) p x, 0) := by
    unfold blockWrite
    exact congrArg (·, 0) (if_neg (by omega))
  rw [put32_eq (by omega) block (by omega) (by rw [read]; exact pciRead_msix vec word) rfl rfl (by decide) (fun _ => ⟨by omega, guest⟩),
    write, pciWrite_msix, truncate_zeroExtend]
  rfl

/-- In confidential operation BAR 0 does not reach the table (R426). -/
theorem put32_msix_conf (conf : s.sec.conf = true) : s.put32 .bar0 (0x3908000 + 16 * vec.val + 4 * word.val) v = s.bar0Refused := by
  have closed : confPage (0x3908000 + 16 * vec.val + 4 * word.val) 4 = false := by
    unfold confPage
    simp
    omega
  unfold State.put32 State.putReg
  dsimp only
  rw [regAccess_bar0, bar0Reg_refused (.inr ⟨conf, ?_⟩)]
  · rfl
  · rw [if_neg (by decide), opLen_write4]; exact closed

end

theorem msixWrite_sends {s : State} {i : Nat} {v : W32} (h : i % 4 = 3 ∧ v[0] = false ∧ tget false s.pci.msixPend (i / 4) = true) (up : s.pci.up = true) :
    s.msixWrite i v = ({ s with pci := { s.pci with msix := tset 0 s.pci.msix i v, msixPend := tset false s.pci.msixPend (i / 4) false } } : State).sendMsix (i / 4) := by
  obtain ⟨mask, clear, pend⟩ := h
  exact if_pos (by simp [mask, clear, pend, up])

theorem msixWrite_keeps {s : State} {i : Nat} {v : W32} (h : ¬ (i % 4 = 3 ∧ v[0] = false ∧ tget false s.pci.msixPend (i / 4) = true)) :
    s.msixWrite i v = { s with pci := { s.pci with msix := tset 0 s.pci.msix i v } } := by
  refine if_neg fun c => h ?_
  simp only [Bool.and_eq_true, decide_eq_true_eq, Bool.not_eq_true'] at c
  exact ⟨c.1.1.1, c.1.1.2, c.1.2⟩

/-! ### The commands -/

section
variable {s : State} {b : BarAcc}

theorem execBar0Access_served (wf : b.wf = true) (up : s.pci.up = true) :
    execBar0Access b s = .next ((s.devWake.bar0Reg b.off b.op).tell .bar0 b.op) := by
  unfold execBar0Access
  rw [if_neg (by simp [wf]), if_neg (by simp [up]), regAccess_bar0]

theorem execBar2Access_served (wf : b.wf = true) (up : s.pci.up = true) : execBar2Access b s = .next (s.devWake.bar2Go b) := by
  unfold execBar2Access
  rw [if_neg (by simp [wf]), if_neg (by simp [up])]

theorem execMsixVectorWrite_up (up : s.pci.up = true) (vec : Fin 2048) (word : Fin 4) (v : W32) :
    execMsixVectorWrite vec word v s = .next (s.devWake.put32 .bar0 (0x3908000 + 16 * vec.val + 4 * word.val) v) := next_if_pos up

end

theorem tell_bar0 (x : Ans) (op : ReqOp) : x.tell .bar0 op = heard op x.s x.data := by cases op <;> rfl

/-- Settles O46: a BAR access wakes the device and is served by the register or the stack that it names; a refused one counts. -/
theorem hostAccessesAreServedOrRefused : Obligations.HostAccessesAreServedOrRefused := by
  intro s b vec word v w ones answered refused0 refused2 r
  have pci : w.pci = s.pci := devWake_pci s
  have sec : w.sec = s.sec := devWake_sec s
  have req : bar2Req w b = r := congrArg (fun p : PciBlk => (⟨.bar2, 0, 0, p.b2base.toNat + b.off, b.op⟩ : Req)) pci
  refine ⟨fun no => ⟨if_pos no, if_pos no⟩, fun wf down => ⟨?_, ?_⟩, fun wf up => ⟨fun h => ?_, fun low seen => ?_, fun h => ?_, ?_⟩,
    fun down => next_if_neg (by simp [down]), fun up conf => ?_, ?_⟩
  · exact (if_neg (by simp [wf])).trans (if_pos (by simp [down]))
  · exact (if_neg (by simp [wf])).trans (if_pos (by simp [down]))
  · refine (execBar0Access_served wf up).trans (congrArg _ ?_)
    rw [tell_bar0, bar0Reg_refused (s := w) (by rw [sec]; exact h)]
    rfl
  · refine (execBar0Access_served wf up).trans (congrArg _ ?_)
    rw [tell_bar0, bar0Reg_served (s := w) low (by rw [sec]; exact seen)]
    split <;> rfl
  · refine (execBar2Access_served wf up).trans (congrArg _ ?_)
    exact (bar2Go_outside (s := w) (by rw [sec, req]; exact h)).trans (by rw [req]; exact respond_bar2_refused (by decide) (by decide) _)
  · intro guest size mem code
    have go : exec (.bar2Access b) s = .next (w.stackArrive r) :=
      (execBar2Access_served wf up).trans (congrArg _ (by
        rw [bar2Go_inside (s := w) (by rw [sec]; exact guest) size (by rw [req]; exact mem), req]))
    refine ⟨fun ok => go.trans (congrArg _ (stackArrive_queued ok)), fun no unpoisoned => go.trans (congrArg _ ?_), fun retired => go.trans (congrArg _ ?_)⟩
    · exact (stackArrive_refused no).trans (respond_bar2_refused no unpoisoned _)
    · refine (stackArrive_refused (r := r) (by rw [show w.memCheck (w.tagOf r.src) r.addr (opLen r.op) = 5 from retired]; decide)).trans ?_
      rw [show w.memCheck (w.tagOf r.src) r.addr (opLen r.op) = 5 from retired]
      exact (respond_bar2_answered (.inr rfl) _).trans rfl
  · refine (execMsixVectorWrite_up up vec word v).trans (congrArg _ ?_)
    exact (put32_msix_conf (s := w) vec word v (by rw [sec]; exact conf)).trans (by rw [State.bar0Refused, pci])
  · intro up guest t
    have place : (4 * vec.val + word.val) % 4 = word.val ∧ (4 * vec.val + word.val) / 4 = vec.val := by omega
    have table : exec (.msixVectorWrite vec word v) s = .next (w.msixWrite (4 * vec.val + word.val) v) :=
      (execMsixVectorWrite_up up vec word v).trans (congrArg _ (put32_msix (s := w) vec word v (by rw [sec]; exact guest)))
    refine ⟨fun h => table.trans (congrArg _ ?_), fun h => table.trans (congrArg _ ?_)⟩
    · rw [msixWrite_sends (by rw [place.1, place.2, pci]; exact h) (by rw [pci]; exact up), place.2, pci]
    · rw [msixWrite_keeps (by rw [place.1, place.2, pci]; exact h), pci]

/-! ### Answers and link events (R422, R428, R439, R525) -/

section
variable {s : State} {id : Nat}

theorem hostAnswer_unknown (h : s.pci.hostReqs.find? (·.1 = id) = none) (ok : Bool) (d : List PByte) : s.hostAnswer id ok d = s := by
  unfold State.hostAnswer
  rw [h]

theorem hostAnswer_answered {x : Nat × Req} (h : s.pci.hostReqs.find? (·.1 = id) = some x) (ok : Bool) (d : List PByte) :
    s.hostAnswer id ok d =
      let u : State := { s with pci := { s.pci with hostReqs := s.pci.hostReqs.filter (·.1 ≠ id) } }
      if ok then
        u.respond x.2 (if anyPois ((d ++ List.replicate (opLen x.2.op) (0, false)).take (opLen x.2.op)) then 5 else 0)
          ((d ++ List.replicate (opLen x.2.op) (0, false)).take (opLen x.2.op))
      else u.respond x.2 2 (List.replicate (opLen x.2.op) (0, false)) := by
  unfold State.hostAnswer
  rw [h]

end

/-- Settles O47: completions answer the request that they name, and the link comes up, goes down and is declared lost. -/
theorem hostAnswersAndLinkEvents : Obligations.HostAnswersAndLinkEvents := by
  intro s id ok d width rate
  refine ⟨fun h => ⟨congrArg _ (hostAnswer_unknown h ok d), congrArg _ (hostAnswer_unknown h false [])⟩, fun x h => ?_, fun h => ?_,
    fun down released perst awake => ?_, fun down => congrArg _ (linkDown_down down), fun up => congrArg _ (linkDown_up up),
    fun up => next_if_pos up, fun down => next_if_neg (by simp [down])⟩
  · exact ⟨congrArg _ (hostAnswer_answered h true d), congrArg _ (hostAnswer_answered h false d), congrArg _ (hostAnswer_answered h false [])⟩
  · exact next_if_pos (by rcases h with h | h | h | h <;> simp [h])
  · exact next_if_neg (by simp [down, released, perst, awake])

end Sys2Proof.Machine

/-! # SPDM requests and vendor-defined requests

A request is served while the endpoint is up. A request of the session receives UnexpectedRequest outside it; a vendor-defined request
inside one acts and a status answers it. -/

namespace Sys2Proof.Machine

open Sys2Proof.Slice0

/-! ### Requests and responses (R448) -/

section
variable {s : State}

theorem spdmReq_down {f : State → State} (down : s.pci.up = false) : s.spdmReq f = s := if_neg (by simp [down])
theorem spdmReq_up {f : State → State} (up : s.pci.up = true) : s.spdmReq f = f s := if_pos up
theorem spdm_up (up : s.pci.up = true) (code : Nat) (d : List Byte) : s.spdm code d = s.emit (.spdm code d) := if_pos up
theorem spdmErr_up (up : s.pci.up = true) (code : Nat) : s.spdmErr code = s.emit (.spdmError code) := if_pos up

/-- While the endpoint is up a request has its effect. -/
theorem next_spdmReq {f : State → State} {u : State} (up : s.pci.up = true) (h : f s = u) :
    (.next (s.spdmReq f) : Host.Outcome State Fault Refusal) = .next u := congrArg _ ((spdmReq_up up).trans h)

theorem inSession_iff (up : s.pci.up = true) : s.inSession = true ↔ s.sec.session = .open_ := by
  unfold State.inSession
  simp [up]

theorem spdmIn_inside {f : State → State} (up : s.pci.up = true) (inside : s.sec.session = .open_) : s.spdmIn f = f s :=
  (spdmReq_up up).trans (if_pos ((inSession_iff up).2 inside))

theorem spdmIn_outside {f : State → State} (up : s.pci.up = true) (outside : s.sec.session ≠ .open_) : s.spdmIn f = s.emit (.spdmError 4) :=
  (spdmReq_up up).trans ((if_neg (fun h => outside ((inSession_iff up).1 h))).trans (spdmErr_up up 4))

end

/-- Settles O48: each request of SPDM receives its response, or the error that the state of the session asks for. -/
theorem spdmRequestsAreAnswered : Obligations.SpdmRequestsAreAnswered := by
  intro s req index nonce plain inside word drew err measured
  refine ⟨fun down => ?_, fun up => ⟨?_, ?_, fun k hk => ?_, fun hi => ⟨fun bad => ?_, fun good => ?_⟩, fun hi => ?_, fun high no1 no2 => ?_, fun busy => ?_,
    fun idle bad => ?_, fun idle good => ?_, fun no => ?_, fun shake => ?_, fun outside => ?_, fun session => ⟨?_, ?_, ?_⟩⟩⟩
  · have still (f : State → State) : (.next (s.spdmReq f) : Host.Outcome State Fault Refusal) = .next s := congrArg _ (spdmReq_down down)
    simp only [plain, inside, List.map_cons, List.map_nil, List.cons_append, List.nil_append, List.forall_mem_cons, List.not_mem_nil, false_imp_iff,
      implies_true, and_true]
    exact ⟨still _, still _, still _, still _, still _, still _, still _, still _, still _, still _, still _, still _⟩
  · have served (code reqCode : Nat) (body : List Byte) : (.next (s.spdmPlain code reqCode body) : Host.Outcome State Fault Refusal) =
        .next (s.emit (.spdm code (Config.spdmBody reqCode body))) := next_spdmReq up (spdm_up up _ _)
    simp only [plain, List.forall_mem_cons, List.not_mem_nil, false_imp_iff, implies_true, and_true]
    exact ⟨served _ _ _, served _ _ _, served _ _ _, served _ _ _, served _ _ _⟩
  · exact next_spdmReq up (spdm_up (s := drew s.sec) up _ _)
  · exact next_spdmReq up ((if_pos (by omega)).trans ((spdm_up up _ _).trans (by rw [hk]; rfl)))
  · exact next_spdmReq up ((if_neg (by omega)).trans ((if_pos hi).trans ((if_pos bad).trans (spdmErr_up up 5))))
  · exact next_spdmReq up ((if_neg (by omega)).trans ((if_pos hi).trans ((if_neg (by simp [good])).trans (spdm_up (s := (s.report nonce).2) up _ _))))
  · exact next_spdmReq up ((if_neg (by omega)).trans ((if_neg (by omega)).trans ((if_pos hi).trans (spdm_up up _ _))))
  · exact next_spdmReq up ((if_neg (by omega)).trans ((if_neg no1).trans ((if_neg (by omega)).trans (spdmErr_up up 1))))
  · exact next_spdmReq up ((if_pos busy).trans (spdmErr_up up 3))
  · exact next_spdmReq up ((if_neg (by simp [idle])).trans ((if_pos bad).trans (spdmErr_up up 5)))
  · exact next_spdmReq up ((if_neg (by simp [idle])).trans ((if_neg (by simp [good])).trans
      (spdm_up (s := drew { s.sec with session := .handshake }) up _ _)))
  · exact next_spdmReq up ((if_pos no).trans (spdmErr_up up 4))
  · exact next_spdmReq up ((if_neg (by simp [shake])).trans (spdm_up (by exact up) _ _))
  · have refused (f : State → State) : (.next (s.spdmIn f) : Host.Outcome State Fault Refusal) = .next (s.emit (.spdmError 4)) :=
      congrArg _ (spdmIn_outside up outside)
    simp only [inside, List.forall_mem_cons, List.not_mem_nil, false_imp_iff, implies_true, and_true]
    exact ⟨refused _, refused _, refused _⟩
  · exact congrArg _ ((spdmIn_inside up session).trans (spdm_up up _ _))
  · exact congrArg _ ((spdmIn_inside up session).trans (spdm_up up _ _))
  · exact congrArg _ ((spdmIn_inside up session).trans (by rw [spdm_up up]; rfl))

/-! ### Vendor-defined requests (R458) -/

section
variable {s : State}

theorem vendorReq_down {f : State → State × Nat × W64} (down : s.pci.up = false) : s.vendorReq f = s := if_pos (by simp [down])

theorem vendorReq_outside {f : State → State × Nat × W64} (up : s.pci.up = true) (outside : s.sec.session ≠ .open_) :
    s.vendorReq f = s.emit (.spdmError 4) := by
  have no : s.inSession = false := Bool.eq_false_iff.2 (fun h => outside ((inSession_iff up).1 h))
  exact (if_neg (by simp [up])).trans ((if_pos (by simp [no])).trans (spdmErr_up up 4))

theorem vendorReq_inside {f : State → State × Nat × W64} (up : s.pci.up = true) (inside : s.sec.session = .open_) :
    s.vendorReq f = (f s).1.vendor (f s).2.1 (f s).2.2 :=
  (if_neg (by simp [up])).trans (if_neg (by simp [(inSession_iff up).2 inside]))

/-- An action of a session is answered by its status. -/
theorem next_vendorOp {f : State → Nat × State} {status : Nat} {t : State} (up : s.pci.up = true) (inside : s.sec.session = .open_)
    (h : f s = (status, t)) : (.next (s.vendorOp f) : Host.Outcome State Fault Refusal) = .next (t.emit (.vendor status 0)) := by
  refine congrArg _ ((vendorReq_inside up inside).trans ?_)
  rw [h]
  rfl

theorem next_vendorReq {f : State → State × Nat × W64} {x : State × Nat × W64} (up : s.pci.up = true) (inside : s.sec.session = .open_)
    (h : f s = x) : (.next (s.vendorReq f) : Host.Outcome State Fault Refusal) = .next (x.1.emit (.vendor x.2.1 x.2.2)) := by
  subst h
  exact congrArg _ (vendorReq_inside up inside)

/-! ### The actions (R458 to R464) -/

theorem confEnter_refused (h : (caps1 s.fx)[11] = false ∨ s.sec.debugOpen = true ∨ s.openStreams ≠ [] ∨ s.modules ≠ []) : s.confEnter = (2, s) :=
  if_pos (by rcases h with h | h | h | h <;> simp [h])

theorem confEnter_enters (h : ¬ ((caps1 s.fx)[11] = false ∨ s.sec.debugOpen = true ∨ s.openStreams ≠ [] ∨ s.modules ≠ [])) :
    s.confEnter = (0, ({ s with sec := { s.sec with conf := true, confAo := true } } : State).seeLine8) := by
  refine if_neg fun c => h ?_
  simpa only [Bool.or_eq_true, Bool.not_eq_true', decide_eq_true_eq, or_assoc] using c

/-- Whether generation `g` is the one that follows the last (R463). -/
def follows (l : Option W32) (g : W32) : Bool := match l with | none => g = 0 | some l => g = l + 1

theorem follows_iff (l : Option W32) (g : W32) : follows l g = true ↔ g = (match l with | none => (0 : W32) | some l => l + 1) := by
  cases l <;> exact decide_eq_true_iff

theorem keyInstall_eq (g : W32) : s.keyInstall g =
    if s.sec.entBad || !follows s.sec.lastGen g || (s.sec.slot g.toNat).st = .live then (2, s)
    else (0, { s with sec := { s.sec.setSlot g.toNat { st := .live, gen := g } with lastGen := some g } }) := rfl

theorem keyInstall_refused {g : W32} (h : s.sec.entBad = true ∨ g ≠ (match s.sec.lastGen with | none => (0 : W32) | some l => l + 1) ∨
    (s.sec.slot g.toNat).st = .live) : s.keyInstall g = (2, s) := by
  refine (keyInstall_eq g).trans (if_pos ?_)
  rcases h with h | h | h
  · simp [h]
  · simp [Bool.eq_false_iff.2 (fun c => h ((follows_iff _ _).1 c))]
  · simp [h]

theorem keyInstall_installs {g : W32} (good : s.sec.entBad = false) (next : g = (match s.sec.lastGen with | none => (0 : W32) | some l => l + 1))
    (free : (s.sec.slot g.toNat).st ≠ .live) : s.keyInstall g =
    (0, { s with sec := { s.sec.setSlot g.toNat { st := .live, gen := g } with lastGen := some g } }) :=
  (keyInstall_eq g).trans (if_neg (by simp [good, free, (follows_iff _ _).2 next]))

theorem vendorAccess_unknown {off : Nat} (h : vendorReg off = none) (v : Option W64) : s.vendorAccess off v = (s, 4, 0) := by
  unfold State.vendorAccess
  rw [h]

theorem vendorAccess_write {off : Nat} {wide : Bool} (h : vendorReg off = some wide) (v : W64) : s.vendorAccess off (some v) =
    let x := s.regAccess (.sc 0) (hubBase + off) (.write (clean (leBytes (if wide then 8 else 4) v.toNat)))
    (x.s, if x.status = 0 then 0 else 2, BitVec.ofNat 64 (leNatP x.data)) := by
  unfold State.vendorAccess
  rw [h]
  rfl

theorem vendorAccess_read {off : Nat} {wide : Bool} (h : vendorReg off = some wide) : s.vendorAccess off none =
    let x := s.regAccess (.sc 0) (hubBase + off) (.read (if wide then 8 else 4))
    (x.s, if x.status = 0 then 0 else 2, BitVec.ofNat 64 (leNatP x.data)) := by
  unfold State.vendorAccess
  rw [h]
  rfl

end

/-- Settles O49: outside a session every vendor-defined request is unexpected; inside one each acts, or is refused, and a status answers. -/
theorem vendorRequestsActInSession : Obligations.VendorRequestsActInSession := by
  intro s w data hdr chunks part ctx g off v all answer key next bad owner words unable
  have each {P : Instr → Prop} (h : P .confEnter ∧ P (.windowSet w data hdr chunks part ctx) ∧ P (.windowClear w) ∧ P (.keyInstall g) ∧ P (.keyRetire g) ∧
      P (.regWrite off v) ∧ P (.regRead off)) : ∀ c ∈ all, P c := by
    simpa only [all, List.forall_mem_cons, List.not_mem_nil, false_imp_iff, implies_true, and_true] using h
  refine ⟨fun down => ?_, fun up outside => ?_, fun up inside => ⟨fun h => ?_, fun h => ?_, fun h => ?_, fun h valid => ?_, fun h free => ?_, fun used => ?_,
    fun free => ?_, fun h => ?_, fun good first free => ?_, fun h => ?_, fun live gen busy => ?_, fun live gen idle => ?_, fun h => ⟨?_, ?_⟩,
    fun wide h => ⟨?_, ?_⟩⟩⟩
  · have still (f : State → State × Nat × W64) : (.next (s.vendorReq f) : Host.Outcome State Fault Refusal) = .next s := congrArg _ (vendorReq_down down)
    exact each ⟨still _, still _, still _, still _, still _, still _, still _⟩
  · have refused (f : State → State × Nat × W64) : (.next (s.vendorReq f) : Host.Outcome State Fault Refusal) = .next (s.emit (.spdmError 4)) :=
      congrArg _ (vendorReq_outside up outside)
    exact each ⟨refused _, refused _, refused _, refused _, refused _, refused _, refused _⟩
  · exact next_vendorOp up inside (by exact confEnter_refused h)
  · exact next_vendorOp up inside (by exact confEnter_enters h)
  · exact next_vendorOp up inside (by exact if_pos h)
  · exact next_vendorOp up inside (by exact (if_neg h).trans (if_pos valid))
  · exact next_vendorOp up inside (by exact (if_neg h).trans (if_neg (by simp [free])))
  · exact next_vendorOp up inside (by exact if_pos used)
  · exact next_vendorOp up inside (by exact if_neg (by simp [free]))
  · exact next_vendorOp up inside (by exact keyInstall_refused h)
  · exact next_vendorOp up inside (by exact keyInstall_installs good first free)
  · exact next_vendorOp up inside (by exact if_pos (by simpa using h))
  · exact next_vendorOp up inside (by exact (if_neg (by simp [key] at live gen; simp [live, gen])).trans (if_pos busy))
  · exact next_vendorOp up inside (by exact (if_neg (by simp [key] at live gen; simp [live, gen])).trans (if_neg (by simpa using idle)))
  · exact next_vendorReq up inside (x := (s, 4, 0)) (by rw [vendorAccess_unknown h])
  · exact next_vendorReq up inside (x := (s, 4, 0)) (by exact vendorAccess_unknown h _)
  · exact (next_vendorReq up inside rfl).trans (by rw [vendorAccess_write h])
  · exact (next_vendorReq up inside rfl).trans (by rw [vendorAccess_read h])

end Sys2Proof.Machine

/-! # The security block, the mailbox and the Lookout

A service core extends the measurements and clears an idle tile; its words to the mailbox are served or held. An operation of the
Lookout acts on a path that carries it, and its answer leaves there. -/

namespace Sys2Proof.Machine

open Sys2Proof.Slice0

/-! ### Registers that an agent may not reach (R482) -/

/-- A 64-bit register that the agent may not reach refuses its write with status 1. -/
theorem put64_refused {s : State} {a : Agent} {off o : Nat} {b : HubBlock} (h0 : a ≠ .bar0) (h2 : a ≠ .bar2) (inside : off < 2 ^ 28)
    (block : hubBlock off = some (b, o)) (shut : mayReach a b o = false) (v : W64) (aligned : off % 8 = 0)
    (register : (blockRead s a b o).map (·.1) = some true) : .next (s.put64 a off v) = hubWrote a s 1 := by
  have len : opLen (.write (clean (leBytes 8 v.toNat))) = 8 := by simp [opLen, clean, leBytes_length]
  have access : s.regAccess a (hubBase + off) (.write (clean (leBytes 8 v.toNat))) = ⟨s, 1, []⟩ := by
    refine (regAccess_hub h0 h2 inside _).trans (((hub_access (op := .write _)).2 b [(o, .all)] ?_).1 (by simp [shut]))
    rw [len]
    exact hubPlace_eight block aligned register
  calc Host.Outcome.next (s.put64 a off v)
    _ = .next ((⟨s, 1, []⟩ : Ans).tell a (.write (clean (leBytes 8 v.toNat)))) :=
        congrArg (fun r => Host.Outcome.next (Ans.tell r a (.write (clean (leBytes 8 v.toNat))))) access
    _ = hubWrote a s 1 := by
        cases a with
        | bar0 => exact absurd rfl h0
        | bar2 => exact absurd rfl h2
        | _ => rfl

/-- Only the service cores reach the security block. -/
theorem mayReach_sec {a : Agent} (h : ∀ n, a ≠ .sc n) (o : Nat) : mayReach a .sec o = false := by
  cases a with
  | sc n => exact absurd rfl (h n)
  | _ => rfl

/-- Only the service cores and the Lookout reach the mailbox. -/
theorem mayReach_mbox {a : Agent} (h : ∀ n, a ≠ .sc n) (l : a ≠ .lookout) : mayReach a .lko 0x10 = false := by
  cases a with
  | sc n => exact absurd rfl (h n)
  | lookout => exact absurd rfl l
  | _ => rfl

/-! ### Measurements and tile clears (R446, R454, R456) -/

section
variable {s : State}

theorem exec_measurementExtend_core (core : Fin 8) (v : W32) : exec (.measurementExtend (.sc core) v) s =
    hubWrote (.sc core) (if 5 ≤ v.toNat % 8 then s.extend (v.toNat % 8) s.sec.mextData else s) := by
  have word : (v.zeroExtend 64 : W64).toNat = v.toNat := by
    have := v.isLt
    simp
    omega
  refine (put32_agent (a := .sc core) (off := 0x4000430) (b := .sec) (o := 0x430) nofun nofun (by decide) (by decide) rfl rfl v (by decide) rfl).trans ?_
  rw [blockWrite_sec]
  exact congrArg (fun n => hubWrote (.sc core) (if 5 ≤ n % 8 then s.extend (n % 8) s.sec.mextData else s)) word

theorem tileClear_idle {t : Nat} (halted : (s.tile t).seq.st = .halted) (idle : tileIdle (s.tile t) = true) : s.tileClear t =
    { s.setTile t { clearTile (s.tile t) with clearing := true } with sec := { s.sec with clrBusy := true } } := by
  unfold State.tileClear
  exact if_neg (by simp [halted, idle])

/-! ### The mailbox (R334, R440, R523) -/

/-- A word of a service core is served, or held while the Lookout is in reset. -/
theorem exec_mailbox_core (core : Fin 8) (v : W64) : exec (.lookoutMailboxRequest (.sc core) v) s = hubWrote (.sc core) (s.mailbox v) := by
  change Host.Outcome.next (s.put64 (.sc core) 0x4800010 v) = _
  rw [put64_eq (a := .sc core) (b := .lko) (o := 0x10) (by decide) (by decide) (by decide) rfl rfl rfl nofun nofun, tell_wrote]
  rfl

theorem exec_mailbox_lookout (v : W64) : exec (.lookoutMailboxRequest .lookout v) s = hubWrote .lookout { s with lko := { s.lko with mbox := v } } := by
  change Host.Outcome.next (s.put64 .lookout 0x4800010 v) = _
  rw [put64_eq (a := .lookout) (b := .lko) (o := 0x10) (by decide) (by decide) (by decide) rfl rfl rfl nofun nofun, tell_wrote]
  rfl

theorem mailbox_down (down : s.lko.up = false) (v : W64) : s.mailbox v = { s with lko := { s.lko with held := s.lko.held ++ [v] } } :=
  if_neg (by simp [down])

theorem mailbox_up (up : s.lko.up = true) (v : W64) : s.mailbox v = ({ s with lko := { s.lko with mbox := v } } : State).persist v := if_pos up

end

/-- Settles O51: measurements extend and idle tiles are cleared for a service core alone, and its words reach the mailbox. -/
theorem securityAndMailboxWritesAct : Obligations.SecurityAndMailboxWritesAct := by
  refine ⟨fun s a core v => ?_, fun s a core v => ?_⟩
  · intro t x slot kept old
    refine ⟨fun other h0 h2 => ⟨?_, ?_⟩, fun low => ?_, fun high => ?_, fun halted idle => ?_, ?_, rfl⟩
    · exact put32_refused (b := .sec) (o := 0x430) h0 h2 (by decide) (by decide) (mayReach_sec other _) v (by decide) rfl
    · exact put32_refused (b := .sec) (o := 0x48) h0 h2 (by decide) (by decide) (mayReach_sec other _) _ (by decide) rfl
    · rw [exec_measurementExtend_core, if_neg (Nat.not_le.2 low)]
    · rw [exec_measurementExtend_core, if_pos high]
      rfl
    · rw [exec_tileClear_core, tileClear_idle (s := s.tileClrFields v) halted idle]
      rfl
    · change execTileClearComplete s = _
      unfold execTileClearComplete State.modTile
      generalize List.range 256 = tiles
      rfl
  · intro u
    refine ⟨fun other l h0 h2 => ?_, exec_mailbox_lookout v, fun down => ⟨?_, next_if_neg (by simp [down])⟩, fun up => ⟨fun remap => ?_, fun page => ?_, ?_⟩⟩
    · exact put64_refused (b := .lko) (o := 0x10) h0 h2 (by decide) (by decide) (mayReach_mbox other l) v (by decide) rfl
    · rw [exec_mailbox_core, mailbox_down down]
    · rw [exec_mailbox_core, mailbox_up up]
      exact congrArg (hubWrote (.sc core) · 0) (if_pos remap)
    · rw [exec_mailbox_core, mailbox_up up]
      exact congrArg (hubWrote (.sc core) · 0) (if_neg (by simp [page]))
    · exact next_if_pos up

/-! ### Operations of the Lookout (R469) -/

/-- A wake changes the power block alone (R497). -/
theorem devWake_eq (s : State) : s.devWake = { s with pwr := s.devWake.pwr } := by
  unfold State.devWake
  split <;> rfl

section
variable {s : State} {p : MgmtPath}

theorem devWake_night (night : s.pwr.dev = .night) : s.devWake = s := if_neg (by simp [night])

theorem devWake_night_iff (s : State) : s.devWake.pwr.dev = .night ↔ s.pwr.dev = .night := by
  unfold State.devWake
  split
  · next dusk => simp [State.modPwr, dusk]
  · exact Iff.rfl

/-- Whether a path takes an operation that MCTP carries or not. -/
def Takes (s : State) (p : MgmtPath) (mctp : Bool) : Prop := s.lko.up = true ∧ (match p with | .tls => 0 < s.lko.tls | .mctp => mctp = true)

theorem mgmtOk_iff (mctp : Bool) : s.mgmtOk p mctp = true ↔ Takes s p mctp := by
  unfold State.mgmtOk Takes
  cases p <;> simp

theorem takes_both : (s.lko.up = true ∧ (match p with | .tls => 0 < s.lko.tls | .mctp => True)) ↔ Takes s p true := by
  unfold Takes
  cases p <;> simp

theorem takes_tls : (s.lko.up = true ∧ (match p with | .tls => 0 < s.lko.tls | .mctp => False)) ↔ Takes s p false := by
  unfold Takes
  cases p <;> simp

/-- An operation that its path takes acts on the device once it has been woken. -/
theorem next_lookoutOp {mctp : Bool} {f : State → State} {u : State} (takes : Takes s p mctp) (h : f s.devWake = u) :
    (.next (s.lookoutOp p mctp f) : Host.Outcome State Fault Refusal) = .next u :=
  congrArg _ ((if_pos ((mgmtOk_iff mctp).2 takes)).trans h)

theorem lookoutOp_refused {mctp : Bool} (no : ¬ Takes s p mctp) (f : State → State) :
    (.next (s.lookoutOp p mctp f) : Host.Outcome State Fault Refusal) = .next s :=
  congrArg _ (if_neg (fun h => no ((mgmtOk_iff mctp).1 h)))

theorem lookoutOn_night (night : s.pwr.dev = .night) (idle : s.pin.waitPgood = false) :
    s.lookoutOn = { s with pwr := { s.pwr with dev := .dawn }, pin := { s.pin with pwren := true, waitPgood := true } } :=
  if_pos (by simp [night, idle])

theorem lookoutOn_stays (h : s.pwr.dev ≠ .night ∨ s.pin.waitPgood = true) : s.lookoutOn = s :=
  if_neg (by rcases h with h | h <;> simp [h])

theorem anchorOk_iff : s.anchorOk p = true ↔ (match p with | .mctp => s.lko.anchors.length = 0 | .tls => s.lko.anchors.length ≠ 0) := by
  unfold State.anchorOk
  cases p <;> simp

end

/-- Settles O52: a path that carries an operation takes it, the operation acts, and its answer leaves on the path. -/
theorem lookoutOperationsActOnTheirPath : Obligations.LookoutOperationsActOnTheirPath := by
  intro s p slot image token anchor cert erev lrev uid nonce mode v n256 k both tls takes w answer key opens mayAnchor chained lkoNow
  have wake : w = { s with pwr := w.pwr } := devWake_eq s
  have lko : w.lko = s.lko := by rw [wake]
  have sec : w.sec = s.sec := by rw [wake]
  have pin : w.pin = s.pin := by rw [wake]
  have takesBoth : takes True ↔ Takes s p true := takes_both
  have takesTls : takes False ↔ Takes s p false := takes_tls
  refine ⟨fun no => ?_, fun no => ?_, fun yes => ?_, fun yes => ?_, fun down => ?_, fun up => ⟨next_if_pos up, next_if_pos up, fun h => ?_, fun h => ?_⟩⟩
  · have refused (f : State → State) : (.next (s.lookoutOp p true f) : Host.Outcome State Fault Refusal) = .next s :=
      lookoutOp_refused (fun h => no (takesBoth.2 h)) f
    simp only [both, List.forall_mem_cons, List.not_mem_nil, false_imp_iff, implies_true, and_true]
    exact ⟨refused _, refused _, refused _, refused _, refused _, refused _⟩
  · have refused (f : State → State) : (.next (s.lookoutOp p false f) : Host.Outcome State Fault Refusal) = .next s :=
      lookoutOp_refused (fun h => no (takesTls.2 h)) f
    simp only [tls, List.forall_mem_cons, List.not_mem_nil, false_imp_iff, implies_true, and_true]
    exact ⟨refused _, refused _, refused _, refused _, refused _, refused _⟩
  · have t := takesBoth.1 yes
    refine ⟨fun night idle => ?_, fun h => ?_, fun night => ?_, fun awake => ?_, ?_, next_lookoutOp t rfl, fun bad => ?_, fun good => ?_, fun no => ?_,
      fun may => ?_⟩
    · refine next_lookoutOp t (congrArg (fun u : State => u.mgmt p true []) ?_)
      rw [devWake_night night, lookoutOn_night night idle]
    · refine next_lookoutOp t (congrArg (fun u : State => u.mgmt p true []) (lookoutOn_stays ?_))
      exact h.imp (fun h c => h ((devWake_night_iff s).1 c)) (fun h => by rw [← h, ← pin])
    · refine next_lookoutOp t (congrArg (fun u : State => u.mgmt p true []) ?_)
      exact (if_pos ((devWake_night_iff s).2 night)).trans (devWake_night night)
    · exact next_lookoutOp t (congrArg (fun u : State => u.mgmt p true []) (if_neg (fun c => awake ((devWake_night_iff s).1 c))))
    · have draws : w.draws = s.draws := by rw [wake]
      refine next_lookoutOp t ?_
      rw [← draws]
      rfl
    · exact next_lookoutOp t (if_pos (show w.sec.entBad = true by rw [sec]; exact bad))
    · have ent : w.drawsEnt = s.drawsEnt := by rw [wake]
      refine next_lookoutOp t ((if_neg (show ¬ w.sec.entBad = true by rw [sec, good]; decide)).trans ?_)
      rw [← ent, ← sec]
      rfl
    · refine next_lookoutOp t (if_neg fun c => no ?_)
      have := anchorOk_iff.1 c
      rwa [devWake_eq] at this
    · refine next_lookoutOp t ((if_pos (anchorOk_iff.2 (by rw [devWake_eq]; exact may))).trans ?_)
      rw [← lko]
      rfl
  · have t := takesTls.1 yes
    refine ⟨fun h => next_lookoutOp t (if_pos h), fun h => next_lookoutOp t ((if_neg h).trans (by rw [← lko]; rfl)), next_lookoutOp t (by rw [← sec]; rfl),
      next_lookoutOp t (by rw [← sec]; rfl), fun no => ?_, fun yes => ?_, fun h => ?_, fun awake stays => ?_, fun night => ?_, fun awake => ?_⟩
    · exact next_lookoutOp t (if_neg (by rw [show s.devWake.sec = s.sec from sec]; exact no))
    · exact next_lookoutOp t ((if_pos (by rw [show s.devWake.sec = s.sec from sec]; exact yes)).trans (by rw [← lko]; rfl))
    · exact next_lookoutOp t (if_pos (h.imp_left (devWake_night_iff s).2))
    · exact next_lookoutOp t (if_neg (not_or.2 ⟨fun c => awake ((devWake_night_iff s).1 c), by rw [stays]; decide⟩))
    · refine next_lookoutOp t (congrArg (fun u : State => u.mgmt p true []) ((if_pos ((devWake_night_iff s).2 night)).trans ?_))
      rw [devWake_night night]
    · have cvy : w.cvy = s.cvy := by rw [wake]
      refine next_lookoutOp t (congrArg (fun u : State => u.mgmt p true []) ((if_neg (fun c => awake ((devWake_night_iff s).1 c))).trans ?_))
      rw [← lko, ← cvy]
  · have still (f : State) : (.next (if s.lko.up then f else s) : Host.Outcome State Fault Refusal) = .next s := next_if_neg (by simp [down])
    simp only [List.forall_mem_cons, List.not_mem_nil, false_imp_iff, implies_true, and_true]
    exact ⟨still _, still _, next_if_neg (by simp [down])⟩
  · obtain ⟨strap, room, chains⟩ := h
    exact next_if_pos (by simp only [up, strap, room, chains, decide_true, Bool.and_self])
  · refine next_if_neg fun c => h ?_
    simp only [Bool.and_eq_true, decide_eq_true_eq] at c
    exact ⟨c.1.1.2, c.1.2, c.2⟩

end Sys2Proof.Machine

/-! # Clocks and power

A change of operating point goes as far as locks and settle time allow; PLL events, power samples and the watchdog of the clock switch
move the power block; tiles, service cores and the device change their power state when its conditions hold. -/

namespace Sys2Proof.Machine

open Sys2Proof.Slice0

/-- What every step of a run over a list leaves as it is, the run leaves as it is. -/
theorem foldl_keeps {α β γ : Type} {f : β → α → β} (g : β → γ) (h : ∀ b a, g (f b a) = g b) : ∀ (l : List α) (b : β), g (l.foldl f b) = g b
  | [], _ => rfl
  | a :: l, b => (foldl_keeps g h l (f b a)).trans (h b a)

/-! ### Operating points (R493) -/

section
variable {s : State}

theorem opAdvance_free (free : s.pwr.opBusy = false) : s.opAdvance = s := by
  have same : s.pwr.advance = s.pwr := if_pos (by simp [free])
  unfold State.opAdvance
  rw [same]
  exact if_neg (by simp)

/-- The state in which a change has ended. -/
def State.opEnded (s : State) : State := { s with pwr := { s.pwr with opCur := s.pwr.opTarget, opBusy := false, evt := s.pwr.evt ||| 2#6 } }

/-- A change to a faster point ends once all has locked and the voltage has settled. -/
theorem opAdvance_faster (busy : s.pwr.opBusy = true) (faster : s.pwr.opTarget < s.pwr.opCur) : s.opAdvance =
    if s.pwr.pgRun &&& ~~~s.pwr.opLocked = 0 ∧ s.pwr.opSettled = true then s.opEnded else s := by
  have step : s.pwr.advance = if s.pwr.pgRun &&& ~~~s.pwr.opLocked = 0 ∧ s.pwr.opSettled = true then s.opEnded.pwr else s.pwr := by
    refine (if_neg (by simp [busy])).trans ((if_pos faster).trans (if_congr ?_ rfl rfl))
    rw [Bool.and_eq_true, decide_eq_true_iff]
  unfold State.opAdvance
  rw [step]
  split
  · exact if_neg (by simp [State.opEnded])
  · exact if_neg (by simp)

/-- A change to a slower point switches once all has locked, and ends once the voltage has settled. -/
theorem opAdvance_slower (busy : s.pwr.opBusy = true) (slower : ¬ s.pwr.opTarget < s.pwr.opCur) : s.opAdvance =
    if s.pwr.pgRun &&& ~~~s.pwr.opLocked = 0 ∧ s.pwr.opSwitched = false then
      ({ s with pwr := { s.pwr with opSwitched := true, opSettled := false } } : State).emit (.voltage s.pwr.opTarget.toNat)
    else if s.pwr.opSwitched = true ∧ s.pwr.opSettled = true then s.opEnded else s := by
  have step : s.pwr.advance = if s.pwr.pgRun &&& ~~~s.pwr.opLocked = 0 ∧ s.pwr.opSwitched = false then
        { s.pwr with opSwitched := true, opSettled := false }
      else if s.pwr.opSwitched = true ∧ s.pwr.opSettled = true then s.opEnded.pwr else s.pwr := by
    refine (if_neg (by simp [busy])).trans ((if_neg slower).trans (if_congr ?_ rfl (if_congr ?_ rfl rfl)))
    · rw [Bool.and_eq_true, decide_eq_true_iff, Bool.not_eq_true']
    · rw [Bool.and_eq_true]
  unfold State.opAdvance
  rw [step]
  split
  · next h => exact if_pos (by simp [h.2])
  · split
    · exact if_neg (by simp [State.opEnded])
    · exact if_neg (by simp)

/-! ### Writes of the clock and power registers (R482, R504) -/

section
variable {a : Agent} {o : Nat} (v : W32)

theorem manages_no_bar (m : Manages a) : a ≠ .bar0 ∧ a ≠ .bar2 := by rcases m with ⟨n, rfl⟩ | rfl <;> exact ⟨nofun, nofun⟩

theorem mayReach_pwr (m : Manages a) : mayReach a .pwr o = true := by rcases m with ⟨n, rfl⟩ | rfl <;> rfl
theorem mayReach_clk (m : Manages a) : mayReach a .clk o = true := by rcases m with ⟨n, rfl⟩ | rfl <;> rfl

theorem mayReach_not_manages (no : ¬ Manages a) : mayReach a .pwr o = false ∧ mayReach a .clk o = false := by
  cases a with
  | sc n => exact absurd (.inl ⟨n, rfl⟩) no
  | lookout => exact absurd (.inr rfl) no
  | _ => exact ⟨rfl, rfl⟩

theorem put32_pwr (m : Manages a) (block : hubBlock (0x6000000 + o) = some (.pwr, o)) (low : 0x6000000 + o < 2 ^ 28) (aligned : (0x6000000 + o) % 4 = 0)
    (register : (pwrRead s o).map (·.1) = some false) :
    .next (s.put32 a (0x6000000 + o) v) = hubWrote a (pwrWrite s (a = .lookout) (a = .sc 0) o (v.zeroExtend 64)) := by
  rw [put32_agent (b := .pwr) (o := o) (manages_no_bar m).1 (manages_no_bar m).2 low block (mayReach_pwr m) rfl v aligned register, blockWrite_pwr]

end

theorem opChange_manager {a : Agent} (m : Manages a) (v : W32) : exec (.opChange a v) s = hubWrote a (s.opWrite (v.truncate 2)) := by
  refine (put32_pwr (o := 0) v m (by decide) (by decide) (by decide) rfl).trans ?_
  exact congrArg (fun x => hubWrote a (s.opWrite x)) (by simp)

end

/-! ### Power limits (R500 to R503) -/

section
variable {s : State}

theorem evaluate_none (h : s.pwr.samples.length = 0) : s.evaluate = s := if_pos h

/-- The counters of the power manager after an evaluation. -/
def PwrBlk.counted (b : PwrBlk) : PwrBlk := { b with sinceUndo := min 100000 (b.sinceUndo + 1), hold := b.hold - 1 }

theorem evaluate_some (h : s.pwr.samples.length ≠ 0) : s.evaluate =
    if s.pwr.psus * s.pwr.samples.length < s.pwr.samples.foldl (· + ·) 0 then
      ({ s with pwr := { s.pwr.counted with
        below := 0, hold := if s.pwr.counted.sinceUndo ≤ 1000 then 10000 else s.pwr.counted.hold } } : State).takeMeasure
    else if 100 * s.pwr.samples.foldl (· + ·) 0 < 95 * s.pwr.psus * s.pwr.samples.length then
      (if 99 ≤ s.pwr.below ∧ s.pwr.counted.hold = 0 then ({ s with pwr := { s.pwr.counted with below := 0 } } : State).undoMeasure
      else { s with pwr := { s.pwr.counted with below := s.pwr.below + 1 } })
    else { s with pwr := { s.pwr.counted with below := 0 } } := by
  refine (if_neg h).trans (if_congr Iff.rfl rfl (if_congr Iff.rfl (if_congr ?_ rfl rfl) rfl))
  rw [Bool.and_eq_true, decide_eq_true_iff, decide_eq_true_iff]
  rfl

/-- The backstop acts while an excursion runs (R501). -/
theorem backstop_eq (s : State) : s.backstop = if s.pwr.excRun = true then
    (List.range 12).foldl (fun t x => t.modStack x (fun y => { y with ceil := 256 }))
      ({ s with pwr := { s.pwr with evt := s.pwr.evt ||| 0x20#6, swallow := 12 } } : State)
    else s := by
  unfold State.backstop
  cases s.pwr.excRun
  · exact if_pos rfl
  · exact if_neg (by decide)

/-! ### The clock-switch watchdog (R491) -/

theorem clockWatchdog_tiles {d : Nat} (h : d < 16) : s.clockWatchdog d =
    ({ (tilesOfGroup d).foldl (fun t x => t.setTile x Tile.reset) { s with pwr := s.pwr.wdog d } with pwr := { s.pwr.wdog d with
      pgRun := (s.pwr.wdog d).pgRun &&& ~~~(1#16 <<< d), pgHeld := (s.pwr.wdog d).pgHeld ||| (1#16 <<< d) } } : State).faultLaunches (tilesOfGroup d) := by
  have pwr : ((tilesOfGroup d).foldl (fun t x => t.setTile x Tile.reset) ({ s with pwr := s.pwr.wdog d } : State)).pwr = s.pwr.wdog d :=
    foldl_keeps (f := fun (t : State) x => t.setTile x Tile.reset) State.pwr (fun _ _ => rfl) _ _
  unfold State.clockWatchdog State.modPwr
  dsimp only
  rw [if_pos h, pwr]

theorem clockWatchdog_stack {d : Nat} (h : 16 ≤ d) : s.clockWatchdog d =
    (s.stack (d - 16)).queue.foldl (fun t x => t.respond x.req 2 (match x.req.op with | .read n => List.replicate n (0, false) | .write _ => []))
      ((({ s with pwr := s.pwr.wdog d } : State).dropPasses (d - 16)).setStack (d - 16) { StkBlk.zero with selfRefresh := true }) :=
  if_neg (by omega)

end

/-- Settles O55: operating points, PLL events, power samples, evaluations and the watchdog of the clock switch act by their rules. -/
theorem clocksAndPowerFollowTheirEvents : Obligations.ClocksAndPowerFollowTheirEvents := by
  intro s a v pg d watts temp b low dest begun m pwrNow n sum taken sunk counted dogged cold k capped sampled
  refine ⟨?_, fun manager => ?_, fun no h0 h2 => ?_, ?_, rfl, ?_, fun h => ?_,
    fun h => ?_, ?_, ?_, ?_, ?_⟩
  · intro t p locked ended
    exact ⟨opAdvance_free, opAdvance_faster, opAdvance_slower⟩
  · rw [opChange_manager manager]
    rfl
  · exact put32_refused (b := .pwr) (o := 0) h0 h2 (by decide) (by decide) (mayReach_not_manages no).1 v (by decide) rfl
  · refine congrArg _ (if_congr ?_ rfl (if_congr Iff.rfl rfl (if_congr ?_ rfl rfl)))
    · rw [Bool.or_eq_true, decide_eq_true_iff]
    · rw [Bool.and_eq_true, decide_eq_true_iff]
  · refine congrArg _ (if_congr ?_ rfl rfl)
    rw [Bool.and_eq_true, Bool.or_eq_true, decide_eq_true_iff]
  · refine congrArg _ ((clockWatchdog_tiles h).trans ?_)
    rw [wdog_eq]
  · refine congrArg _ ((clockWatchdog_stack h).trans ?_)
    rw [wdog_eq] <;> rfl
  · refine congrArg (fun b => Host.Outcome.next (pwrNow b)) ((sample_eq s.pwr watts).trans ?_)
    rfl
  · exact congrArg Host.Outcome.next (backstop_eq s)
  · by_cases h : n = 0
    · exact congrArg Host.Outcome.next ((evaluate_none h).trans (if_pos h).symm)
    · exact congrArg Host.Outcome.next ((evaluate_some h).trans (if_neg h).symm)
  · rfl

end Sys2Proof.Machine

/-! # Power states of tiles, service cores and the device

A tile, a service core and the device change their power state on request, on idleness and on a wake when the conditions hold; a refused
request is noted. -/

namespace Sys2Proof.Machine

open Sys2Proof.Slice0

/-! ### Requests (R495) -/

/-- Field state of a request with go set is the one written. -/
theorem goWord_stateField (v : W32) : ((v ||| 0x80000000#32).zeroExtend 64 : W64).extractLsb' 24 2 = v.extractLsb' 24 2 := by
  ext i hi
  interval_cases i <;> simp

theorem goWord_state (v : W32) : ((v ||| 0x80000000#32).zeroExtend 64 : W64).toNat / 2 ^ 24 % 4 = v.toNat / 2 ^ 24 % 4 := by
  have field {w : Nat} (x : BitVec w) : x.toNat / 2 ^ 24 % 4 = (x.extractLsb' 24 2).toNat := by
    rw [BitVec.extractLsb'_toNat, Nat.shiftRight_eq_div_pow]
  rw [field, field, goWord_stateField]

theorem goWord_refused30 (v : W32) : ((v ||| 0x80000000#32).zeroExtend 64 : W64)[30] = v[30] := by simp

section
variable {s : State} {a : Agent}

/-- The state after the fields of PWR_TILEREQ have been written. -/
def State.tileAsked (s : State) (v : W32) : State :=
  { s with pwr := { s.pwr with reqRefused := s.pwr.reqRefused && !v[30], reqState := v.extractLsb' 24 2, reqTile := v.truncate 8 } }

theorem tileStateRequest_manager (m : Manages a) (v : W32) : exec (.tileStateRequest a v) s =
    hubWrote a ((s.tileAsked v).tileRequest (v.toNat % 256) (v.toNat / 2 ^ 24 % 4)) := by
  have write (w : W64) (go : w[31] = true) : pwrWrite s (a = .lookout) (a = .sc 0) 0x20 w = State.tileRequest
      { s with pwr := { s.pwr with reqRefused := s.pwr.reqRefused && !w[30], reqState := w.extractLsb' 24 2, reqTile := w.truncate 8 } }
      (w.toNat % 256) (w.toNat / 2 ^ 24 % 4) := if_pos go
  refine (put32_pwr (o := 0x20) _ m (by decide) (by decide) (by decide) rfl).trans ?_
  rw [write _ (goWord_go v), goWord_refused30, goWord_stateField, goWord_tile, goWord_tileNumber, goWord_state]
  rfl

section
variable {t : Nat}

/-- A request for Dusk or Night. -/
theorem tileRequest_asleep {st : Nat} (h : st = 1 ∨ st = 2) (asleep : (s.tile t).power ≠ .noon) : s.tileRequest t st = s := by
  rcases h with rfl | rfl
  · exact if_pos asleep
  · exact if_pos asleep

theorem tileRequest_dusk (awake : (s.tile t).power = .noon) (halted : (s.tile t).seq.st = .halted) (idle : tileIdle (s.tile t) = true) :
    s.tileRequest t 1 = s.setTile t { s.tile t with power := .dusk } :=
  (if_neg (by simp [awake])).trans (if_pos (by simp [halted, idle]))

theorem tileRequest_night (awake : (s.tile t).power = .noon) (halted : (s.tile t).seq.st = .halted) (idle : tileIdle (s.tile t) = true)
    (may : s.pwr.nightok.getLsbD t = true) :
    s.tileRequest t 2 = (s.setTile t (nightTile (s.tile t))).stopGroups (partOfTile s.partMode t) :=
  (if_neg (by simp [awake])).trans (if_pos (by simp [halted, idle, may]))

theorem tileRequest_refused {st : Nat} (h : st = 1 ∨ st = 2) (awake : (s.tile t).power = .noon)
    (no : ¬ ((s.tile t).seq.st = .halted ∧ tileIdle (s.tile t) = true) ∨ (st = 2 ∧ s.pwr.nightok.getLsbD t = false)) :
    s.tileRequest t st = { s with pwr := { s.pwr with reqRefused := true } } := by
  rcases h with rfl | rfl
  · refine (if_neg (by simp [awake])).trans (if_neg fun c => ?_)
    rw [Bool.and_eq_true, decide_eq_true_iff] at c
    exact no.elim (fun n => n c) (fun n => absurd n.1 (by decide))
  · refine (if_neg (by simp [awake])).trans (if_neg fun c => ?_)
    rw [Bool.and_eq_true, Bool.and_eq_true, decide_eq_true_iff] at c
    exact no.elim (fun n => n c.1) (fun n => absurd c.2 (by simp [n.2]))

end

/-! ### Idleness and wakes (R495, R496) -/

section
variable {t : TileIx}

theorem tileIdleDusk_sleeps (awake : (s.tile t.val).power = .noon) (halted : (s.tile t.val).seq.st = .halted) (idle : tileIdle (s.tile t.val) = true)
    (timed : s.pwr.idle ≠ 0) : exec (.tileIdleDusk t) s = tileNext s t { s.tile t.val with power := .dusk } :=
  next_if_pos (by simpa [tileDone, awake, halted, idle] using timed)

theorem tileIdleDusk_stays (h : (s.tile t.val).power ≠ .noon ∨ ¬ ((s.tile t.val).seq.st = .halted ∧ tileIdle (s.tile t.val) = true) ∨ s.pwr.idle = 0) :
    exec (.tileIdleDusk t) s = .next s := by
  refine next_if_neg fun c => ?_
  simp only [tileDone, Bool.and_eq_true, decide_eq_true_iff] at c
  exact h.elim (fun h => h c.1.1) (fun h => h.elim (fun h => h c.1.2) c.2)

theorem wakeTile_stays {t : Nat} (h : (s.tile t).power ≠ .dawn ∨ s.groupRuns (groupOf t) = false) : s.wakeTile t = s :=
  if_pos (by rcases h with h | h <;> simp [h])

theorem wakeTile_dusk {t : Nat} (dawn : (s.tile t).power = .dawn) (runs : s.groupRuns (groupOf t) = true) (warm : (s.tile t).fromNight = false) :
    s.wakeTile t = s.setTile t { s.tile t with power := .noon } :=
  (if_neg (by simp [dawn, runs])).trans (if_neg (by simp [warm]))

theorem wakeTile_night {t : Nat} (dawn : (s.tile t).power = .dawn) (runs : s.groupRuns (groupOf t) = true) (cold : (s.tile t).fromNight = true) :
    s.wakeTile t = { s.setTile t { rngReseedOp false s.drawsEnt (s.tile t) with
      power := .noon, fromNight := false
      ve := { (rngReseedOp false s.drawsEnt (s.tile t)).ve with rngBusy := (s.tile t).ve.rngBusy } } with drawsEnt := s.drawsEnt + 512 } :=
  (if_neg (by simp [dawn, runs])).trans (if_pos cold)

end

/-! ### The device (R497) -/

/-- The state after the field refused of PWR_DEV has been written. -/
def State.duskAsked (s : State) (v : W32) : State := { s with pwr := { s.pwr with devRefused := s.pwr.devRefused && !v[30] } }

theorem deviceDuskRequest_manager (m : Manages a) (v : W32) : exec (.deviceDuskRequest a v) s =
    hubWrote a (if a = .sc 0 then (s.duskAsked v).devDusk else s.duskAsked v) := by
  have write (w : W64) (go : w[31] = true) : pwrWrite s (a = .lookout) (a = .sc 0) 0x30 w =
      if a = .sc 0 then State.devDusk { s with pwr := { s.pwr with devRefused := s.pwr.devRefused && !w[30] } }
      else { s with pwr := { s.pwr with devRefused := s.pwr.devRefused && !w[30] } } :=
    if_congr (by simp [go]) rfl rfl
  refine (put32_pwr (o := 0x30) _ m (by decide) (by decide) (by decide) rfl).trans ?_
  rw [write _ (goWord_go v), goWord_refused30]
  rfl

theorem devDusk_asleep (h : s.pwr.dev ≠ .noon) : s.devDusk = s := if_pos h

theorem devDusk_refused (awake : s.pwr.dev = .noon) (no : s.duskOk = false) : s.devDusk = { s with pwr := { s.pwr with devRefused := true } } :=
  (if_neg (by simp [awake])).trans (if_pos (by simp [no]))

/-- A run over the stacks leaves the power block. -/
theorem foldl_modStack_pwr (f : StkBlk → StkBlk) (l : List Nat) (u : State) : (l.foldl (fun u k => u.modStack k f) u).pwr = u.pwr :=
  foldl_keeps (f := fun (u : State) k => u.modStack k f) State.pwr (fun _ _ => rfl) l u

theorem devDusk_sleeps (awake : s.pwr.dev = .noon) (may : s.duskOk = true) : s.devDusk =
    ({ (List.range 12).foldl (fun u k => u.modStack k (fun y => { y with selfRefresh := true })) s with
      pwr := { s.pwr with dev := .dusk, pgLock := s.pwr.pgRun, pgRun := 0 } } : State).setCore 0 .dusk := by
  refine (if_neg (by simp [awake])).trans ((if_neg (by simp [may])).trans ?_)
  unfold State.modPwr
  dsimp only
  rw [foldl_modStack_pwr]

theorem devDawn_stays (h : s.pwr.dev ≠ .dawn ∨ s.pin.waitPgood = true) : s.devDawn = s := if_pos (by rcases h with h | h <;> simp [h])

theorem devDawn_wakes (dawn : s.pwr.dev = .dawn) (good : s.pin.waitPgood = false) : s.devDawn =
    (({ (List.range 12).foldl (fun u k => u.modStack k (fun y => { y with selfRefresh := y.halted })) s with
      pwr := { s.pwr with dev := .noon, pgRun := s.pwr.pgRun ||| s.pwr.pgLock, pgLock := 0 } } : State).setCore 0 .run).seeLine8 := by
  refine (if_neg (by simp [dawn, good])).trans ?_
  unfold State.modPwr
  dsimp only
  rw [foldl_modStack_pwr]

/-! ### Block clock enables (R489) -/

theorem hubClockEnable_manager (m : Manages a) (v : W32) : exec (.hubClockEnable a v) s = hubWrote a (s.hubenWrite (v.truncate 4)) := by
  refine (put32_agent (b := .clk) (o := 8) (manages_no_bar m).1 (manages_no_bar m).2 (by decide) (by decide) (mayReach_clk m) rfl v (by decide) rfl).trans ?_
  rw [blockWrite_clk]
  exact congrArg (fun x => hubWrote a (s.hubenWrite x)) (by simp)

theorem hubenWrite_truncate (v : W32) : s.hubenWrite (v.truncate 4) =
    let keeps (k : Nat) : Bool := v.getLsbD k || (s.hubEn k && s.hubBusy k)
    { s with pwr := { s.pwr with
      huben := (if keeps 0 then 1 else 0) ||| (if keeps 1 then 2 else 0) ||| (if keeps 2 then 4 else 0) ||| (if keeps 3 then 8 else 0)
      hubOff := ~~~(v.truncate 4) } } := by
  have low {k : Nat} (h : k < 4) : (v.truncate 4).getLsbD k = v.getLsbD k := by simp [h]
  unfold State.hubenWrite State.modPwr
  simp only [low (show 0 < 4 by decide), low (show 1 < 4 by decide), low (show 2 < 4 by decide), low (show 3 < 4 by decide)]

end

/-- Settles O56: tiles, service cores and the device change their power state when the conditions hold, and note a refused request. -/
theorem tilesAndDeviceChangePowerState : Obligations.TilesAndDeviceChangePowerState := by
  intro s a v t n b x quiet pwrNow asked refused st i named dusked slept woken keeps
  refine ⟨fun m here => ?_, fun awake done timed => tileIdleDusk_sleeps awake done.1 done.2 timed, tileIdleDusk_stays, fun h => ?_, fun dawn runs warm => ?_,
    fun dawn runs cold => ?_, fun m => ⟨fun h => ?_, fun core awake no => ?_, fun core awake may => ?_, ?_⟩, fun no h0 h2 => ⟨?_, ?_, ?_⟩, rfl,
    fun h => congrArg _ (devDawn_stays h), fun dawn good => congrArg _ (devDawn_wakes dawn good), ?_, ?_⟩
  · have tile : asked.tile i = x := congrArg s.tile here
    have request : exec (.tileStateRequest a v) s = hubWrote a (asked.tileRequest i st) := tileStateRequest_manager m v
    refine ⟨fun h => ?_, fun h asleep => ?_, fun h awake done => ?_, fun h awake done may => ?_, fun h awake no => ?_, fun h => ?_⟩
    · rw [request, h]
      rfl
    · rw [request, tileRequest_asleep h (by rw [tile]; exact asleep)]
    · rw [request, h, tileRequest_dusk (by rw [tile]; exact awake) (by rw [tile]; exact done.1) (by rw [tile]; exact done.2), tile]
    · rw [request, h, tileRequest_night (s := asked) (by rw [tile]; exact awake) (by rw [tile]; exact done.1) (by rw [tile]; exact done.2) may, tile]
    · rw [request, tileRequest_refused h (by rw [tile]; exact awake) (by rw [tile]; exact no)]
    · rw [request, h]
      rfl
  · exact congrArg (fun u : State => Host.Outcome.next u.startLaunches) (wakeTile_stays h)
  · exact congrArg (fun u : State => Host.Outcome.next u.startLaunches) (wakeTile_dusk dawn runs warm)
  · exact congrArg (fun u : State => Host.Outcome.next u.startLaunches) (wakeTile_night dawn runs cold)
  · refine (deviceDuskRequest_manager m v).trans (congrArg (hubWrote a · 0) ?_)
    by_cases core : a = .sc 0
    · exact (if_pos core).trans (devDusk_asleep (s := s.duskAsked v) (h.resolve_left (fun c => c core)))
    · exact if_neg core
  · exact (deviceDuskRequest_manager m v).trans (congrArg (hubWrote a · 0) ((if_pos core).trans (devDusk_refused (s := s.duskAsked v) awake no)))
  · exact (deviceDuskRequest_manager m v).trans (congrArg (hubWrote a · 0) ((if_pos core).trans (devDusk_sleeps (s := s.duskAsked v) awake may)))
  · exact (hubClockEnable_manager m v).trans (congrArg (hubWrote a · 0) (hubenWrite_truncate v))
  · exact put32_refused (b := .pwr) (o := 0x20) h0 h2 (by decide) (by decide) (mayReach_not_manages no).1 _ (by decide) rfl
  · exact put32_refused (b := .pwr) (o := 0x30) h0 h2 (by decide) (by decide) (mayReach_not_manages no).1 _ (by decide) rfl
  · exact put32_refused (b := .clk) (o := 8) h0 h2 (by decide) (by decide) (mayReach_not_manages no).2 v (by decide) rfl
  · refine congrArg Host.Outcome.next (if_congr ?_ rfl rfl)
    simp only [Bool.and_eq_true, decide_eq_true_iff, and_assoc]
    exact Iff.rfl
  · refine congrArg Host.Outcome.next (if_congr ?_ rfl rfl)
    simp only [Bool.or_eq_true, decide_eq_true_iff]

end Sys2Proof.Machine

/-! # The DMA channels

A channel is started, aborted and disabled by a write of its control word or by the DMA slot of its own tile; a Running channel issues,
takes responses and retries. -/

namespace Sys2Proof.Machine

open Sys2Proof.Slice0

/-! ### A channel's control word (R378) -/

/-- The word that a control write leaves the channel: the old fields, with the command bits written. -/
def ctlWord (old : W64) (bits : W32) : W64 := Part.lo.merge old (((old.truncate 32 &&& 0xFFFFFFF8#32) ||| bits : W32).zeroExtend 64)

/-- The fields that a channel keeps lie outside the three command bits. -/
theorem ctlWord_fields (old : W64) {bits : W32} (command : bits = 1#32 ∨ bits = 2#32 ∨ bits = 4#32) {mask : W64}
    (fields : mask = 0xFFFFFFFF000003F8#64 ∨ mask = 0xFFFFFF00000001F8#64) : ctlWord old bits &&& mask = old &&& mask := by
  have bit : ∀ i : Fin 64, ∀ x : Bool,
      ((x && (0xFFFFFFFF00000000#64).getLsbD i.val || (((decide (i.val < 32) && x) && (0xFFFFFFF8#32).getLsbD i.val || bits.getLsbD i.val) &&
        (0xFFFFFFFF#64).getLsbD i.val)) && mask.getLsbD i.val) = (x && mask.getLsbD i.val) := by
    rcases command with rfl | rfl | rfl <;> rcases fields with rfl | rfl <;> decide
  refine BitVec.eq_of_getLsbD_eq fun i hi => ?_
  unfold ctlWord Part.merge
  dsimp only
  rw [BitVec.getLsbD_and, BitVec.getLsbD_or, BitVec.getLsbD_and, BitVec.getLsbD_and, BitVec.getLsbD_setWidth, BitVec.getLsbD_or, BitVec.getLsbD_and,
    BitVec.getLsbD_setWidth, BitVec.getLsbD_and, ← bit ⟨i, hi⟩ (old.getLsbD i)]
  simp only [hi, decide_true, Bool.true_and]

section
variable (c : DmaCh) (sys : Bool) (free : BitVec 40)

/-- A control write leaves the fields of the channel as they stand. -/
theorem setWord_ctlWord {bits : W32} (command : bits = 1#32 ∨ bits = 2#32 ∨ bits = 4#32) :
    (if c.st = .idle then c.setWord sys 7 (ctlWord c.ctrl bits) else c) = ctlKept c sys := by
  have fields : c.setWord sys 7 (ctlWord c.ctrl bits) = c.setWord sys 7 c.ctrl :=
    congrArg (fun w => ({ c with ctrl := w } : DmaCh)) (ctlWord_fields c.ctrl command (by cases sys <;> simp))
  rw [fields]
  rfl

theorem dmaCtrlWrite_start : dmaCtrlWrite sys (ctlWord c.ctrl 1#32) free c = (ctlKept c sys).start sys := by
  have bits : (ctlWord c.ctrl 1#32)[2] = false ∧ (ctlWord c.ctrl 1#32)[1] = false ∧ (ctlWord c.ctrl 1#32)[0] = true := by
    simp [ctlWord, Part.merge]
  unfold dmaCtrlWrite
  rw [setWord_ctlWord c sys (.inl rfl)]
  simp only [bits]
  rfl

theorem dmaCtrlWrite_abort : dmaCtrlWrite sys (ctlWord c.ctrl 2#32) free c = (ctlKept c sys).abort := by
  have bits : (ctlWord c.ctrl 2#32)[2] = false ∧ (ctlWord c.ctrl 2#32)[1] = true := by simp [ctlWord, Part.merge]
  unfold dmaCtrlWrite
  rw [setWord_ctlWord c sys (.inr (.inl rfl))]
  simp only [bits]
  rfl

theorem dmaCtrlWrite_disable : dmaCtrlWrite sys (ctlWord c.ctrl 4#32) free c = (ctlKept c sys).disable free := by
  have bit : (ctlWord c.ctrl 4#32)[2] = true := by simp [ctlWord, Part.merge]
  unfold dmaCtrlWrite
  rw [setWord_ctlWord c sys (.inr (.inr rfl))]
  exact if_pos bit

end

section
variable {s : State} {a : Agent}

/-! ### The channels of a tile -/

theorem tileReg_dmaCtrl (n : Fin 8) : tileReg (0x840038 + 0x80 * n.val) = some (.dmaWord n.val 7) := by fin_cases n <;> rfl

theorem tregWrite_dmaCtrl (x : Tile) (g : Tag) (n : Fin 8) (v : W64) (ent : Nat) (free : W64) :
    tregWrite x g (.dmaWord n.val 7) .lo v ent free =
      { t := tileDmaEnd x n.val (dmaCtrlWrite false (Part.lo.merge (tdma x n.val).ctrl v) (free.truncate 40) (tdma x n.val)) } := rfl

/-- A control write of a tile's channel by an agent whose request gets there. -/
theorem dmaCtl_tile {t : TileIx} (h : Reaches s a t) (awake : (s.tile t.val).power = .noon) (n : Fin 8) (bits : W32) {e : DmaEnd}
    (write : dmaCtrlWrite false (ctlWord (tdma (s.tile t.val) n.val).ctrl bits) (s.free.truncate 40) (tdma (s.tile t.val) n.val) = e) :
    .next (s.dmaCtl (.tile t n) a bits) = tileWrote s t (tileDmaEnd (s.tile t.val) n.val e) := by
  subst write
  have part : partAt (TReg.dmaWord n.val 7).wide (0x840038 + 0x80 * n.val) = .lo  :=
    (if_neg (by simp [TReg.wide])).trans (if_pos (by omega))
  refine ctlWrite_wrote (w := { t := tileDmaEnd (s.tile t.val) n.val (dmaCtrlWrite false (ctlWord (tdma (s.tile t.val) n.val).ctrl bits)
    (s.free.truncate 40) (tdma (s.tile t.val) n.val)) }) h (tileReg_dmaCtrl n) (by unfold spSize; omega) (by omega) (by unfold spSize; omega) (.inl awake) ?_
  rw [part]
  rfl

theorem dmaStop_other {t : TileIx} {n : Fin 8} (other : a ≠ .tile t) (op : Nat) (bits : W32) :
    s.dmaStop (.tile t n) a op bits = s.dmaCtl (.tile t n) a bits := by
  cases a with
  | tile u => exact if_neg (fun same => other (congrArg Agent.tile same.symm))
  | _ => rfl

theorem dmaStop_own {t : TileIx} {n : Fin 8} (op : Nat) (bits : W32) : s.dmaStop (.tile t n) (.tile t) op bits = s.dmaSlotOp t op n.val 0 := if_pos rfl

/-! ### The system channels -/

theorem sdmaRead_ctrl (n : Fin 64) : (sdmaRead s (0x38 + 0x80 * n.val)).map (·.1) = some true := by
  have place : (0x38 + 0x80 * n.val) % 0x80 = 0x38 := by omega
  unfold sdmaRead
  rw [if_neg (by omega), if_pos (by omega)]
  simp [place]

theorem sdmaWrite_ctrl (g : Tag) (n : Fin 64) (p : Part) (v : W64) :
    sdmaWrite s g (0x38 + 0x80 * n.val) p v = (s.sysCtrl n (p.merge (s.chan n.val).ctrl v), 0) := by
  have place : (0x38 + 0x80 * n.val) % 0x80 = 0x38 ∧ (0x38 + 0x80 * n.val) / 0x80 = n.val := by omega
  have number : (⟨n.val % 64, Nat.mod_lt _ (by omega)⟩ : Fin 64) = n := Fin.ext (by simp)
  unfold sdmaWrite
  rw [if_neg (by omega)]
  simp only [place, number, if_true]

/-- A control write of a system channel. -/
theorem dmaCtl_sys (m : MayWrite s a) (runs : s.hubEn 1 = true) (guest : s.sec.conf = false) (n : Fin 64) (bits : W32) {e : DmaEnd}
    (write : dmaCtrlWrite true (ctlWord (s.chan n.val).ctrl bits) (s.free.truncate 40) (s.chan n.val) = e) :
    .next (s.dmaCtl (.sys n) a bits) = hubWrote a ((s.drawn 1).chanEnd (.sys n) e) := by
  subst write
  have block : hubBlock (0x100038 + 0x80 * n.val) = some (.sdma, 0x38 + 0x80 * n.val) := by
    unfold hubBlock
    iterate 5 rw [if_neg (by omega)]
    rw [if_pos (by omega)]
    have place : 0x100038 + 0x80 * n.val - 0x100000 = 0x38 + 0x80 * n.val := by omega
    rw [place]
  have value (v : W32) : BitVec.ofNat 64 (leNatP (clean (leBytes 4 (v.zeroExtend 64 : W64).toNat))) = v.zeroExtend 64 := by
    have h : (v.zeroExtend 64 : W64).toNat = v.toNat := by
      have := v.isLt
      simp
      omega
    rw [h, bytes4_value]
  unfold State.dmaCtl State.put32
  dsimp only
  rw [putReg_hub (b := .sdma) (o := 0x38 + 0x80 * n.val) (p := .lo) (w8 := false) (by omega)
    (hubPlace_four block (by omega) (w := true) (sdmaRead_ctrl n)) rfl (by simp [State.gated, runs]) m.1 (fun bar => ⟨by omega, guest⟩),
    if_neg (by decide), value, blockWrite_sdma, sdmaWrite_ctrl, tell_wrote]
  refine congrArg (fun u => hubWrote a u) ?_
  unfold State.sysCtrl
  dsimp only
  rw [if_neg (by simp [guest])]
  rfl

end

/-! ### The DMA slot (R301) -/

/-- Work that falls due in later cycles leaves a quiet tile quiet. -/
theorem placed_later {y : Tile} {slot : Nat} {l : List (Nat × Nat × Act)} (quiet : Quiet y) (later : ∀ k ∈ l, y.cyc < k.1) : Quiet (placed y slot l) := by
  refine ⟨⟨fun k hk => ?_, quiet.due.2⟩, quiet.outs⟩
  rcases List.mem_append.1 hk with old | new
  · exact quiet.due.1 k old
  · obtain ⟨w, hw, rfl⟩ := List.mem_map.1 new
    exact later w hw

section
variable {s : State} {t : TileIx} (calm : Calm (s.tile t.val)) (n : Fin 8)

theorem issue_dma {c : Cyc} (un : c.t.seq.chk = false) (op ch sr : Nat) (known : (c.dmaSlot c.t.seqNo c.t.seq.pc.toNat op ch sr).2 = false) :
    c.issue { dma := (op, ch, sr) } [] =
      { (c.dmaSlot c.t.seqNo c.t.seq.pc.toNat op ch sr).1 with t := goOn (issued (c.dmaSlot c.t.seqNo c.t.seq.pc.toNat op ch sr).1.t) } := by
  unfold Cyc.issue
  dsimp only
  rw [seqNop un]
  dsimp only
  rw [known]
  rfl

include calm

/-- An operation of the DMA slot that leaves tile `y`. -/
theorem dmaSlotOp_quiet {op sr : Nat} {y : Tile} (slot : ((s.env t.val).cyc (s.tile t.val)).dmaSlot (s.tile t.val).seqNo (s.tile t.val).seq.pc.toNat
    op n.val sr = ((s.env t.val).cyc y, false)) (quiet : Quiet y) : .next (s.dmaSlotOp t op n.val sr) = tileNext s t (after y) := by
  refine (slot_issues calm ?_).trans (issues_quiet quiet)
  have slot' : ((s.env t.val).cyc (s.tile t.val)).dmaSlot ((s.env t.val).cyc (s.tile t.val)).t.seqNo ((s.env t.val).cyc (s.tile t.val)).t.seq.pc.toNat
    op n.val sr = ((s.env t.val).cyc y, false) := slot
  rw [issue_dma calm.unchecked op n.val sr (congrArg Prod.snd slot'), slot']
  rfl

/-- A change of a channel leaves a quiet tile quiet. -/
theorem setTdma_quiet (c : DmaCh) : Quiet (setTdma (s.tile t.val) n.val c) := ⟨calm.due, calm.outs⟩

end

/-! ### What the commands do -/

section
variable {c : DmaCh}

theorem start_runs (idle : c.st = .idle) (ok : c.check false = 0) (some_ : c.isZero = false) :
    c.start false = { c := { c with st := .running, code := 1, next := 0, infl := [] } } := by
  have check : ({ c with next := 0, infl := [] } : DmaCh).check false = 0 := ok
  have zero : ({ c with next := 0, infl := [] } : DmaCh).isZero = false := some_
  unfold DmaCh.start
  rw [if_neg (by simp [idle])]
  dsimp only
  rw [check, zero]
  rfl

theorem start_again (busy : c.st ≠ .idle) : c.start false = { c := { c with again := true } } := if_pos busy

variable (running : c.st = .running) (waits : c.infl.any (·.outstanding) = true)
include running waits

/-- A Running channel that awaits responses halts once they have arrived (R390). -/
theorem abort_waits : c.abort = { c := { c with st := .halting, exit := 3 } } := (if_pos running).trans (if_pos waits)

/-- A Running channel that awaits responses drains (R391). -/
theorem disable_waits (free : BitVec 40) : c.disable free = { c := { c with st := .draining, code := 7 } } :=
  (if_pos (.inl running)).trans (if_pos waits)

end

/-- Settles O32: a control write or the DMA slot starts, aborts or disables the channel that it names. -/
theorem dmaControlActsOnItsChannel : Obligations.DmaControlActsOnItsChannel := by
  intro s a
  refine ⟨?_, ?_, ?_⟩
  · intro t n h awake x c wrote
    have ctl (bits : W32) {e : DmaEnd} := dmaCtl_tile (e := e) h awake n bits
    refine ⟨ctl _ (dmaCtrlWrite_start _ _ _), fun other => ⟨?_, ?_⟩, fun idle ok some_ => ?_, fun busy => ?_⟩
    · exact (congrArg Host.Outcome.next (dmaStop_other other _ _)).trans (ctl _ (dmaCtrlWrite_abort _ _ _))
    · exact (congrArg Host.Outcome.next (dmaStop_other other _ _)).trans (ctl _ (dmaCtrlWrite_disable _ _ _))
    · exact congrArg wrote (start_runs idle ok some_)
    · exact congrArg wrote (start_again busy)
  · intro n m runs guest c wrote
    exact ⟨dmaCtl_sys m runs guest n _ (dmaCtrlWrite_start _ _ _), dmaCtl_sys m runs guest n _ (dmaCtrlWrite_abort _ _ _),
      dmaCtl_sys m runs guest n _ (dmaCtrlWrite_disable _ _ _)⟩
  · intro t n sr calm x
    refine ⟨dmaSlotOp_quiet calm n rfl (placed_later calm.toQuiet (by simp)), fun running waits => ⟨?_, ?_⟩⟩
    · refine (congrArg Host.Outcome.next (dmaStop_own _ _)).trans (dmaSlotOp_quiet calm n ?_ (setTdma_quiet calm n _))
      exact congrArg (fun e => (((s.env t.val).cyc x).dmaEnd n.val e, false)) (abort_waits running waits)
    · refine (congrArg Host.Outcome.next (dmaStop_own _ _)).trans (dmaSlotOp_quiet calm n ?_ (setTdma_quiet calm n _))
      exact congrArg (fun e => (((s.env t.val).cyc x).dmaEnd n.val e, false)) (disable_waits running waits _)

/-! ### Requests, responses and retries (R385, R386, R388) -/

section
variable {c : DmaCh} {src : Agent} {n : Nat}

theorem issue_write {d : DmaBurst} {w : DmaWr} {l : List DmaBurst} {lim : Nat} (running : c.st = .running) (h : issueWrite c.infl = some (d, w, l)) :
    c.issue src n lim = ({ c with infl := l }, some ⟨src, n, d.idx, w.addr, .write ((d.data.drop w.off).take w.len)⟩) := by
  unfold DmaCh.issue
  rw [if_neg (by simp [running]), h]
  rfl

theorem issue_read {lim : Nat} (running : c.st = .running) (h : issueWrite c.infl = none) (room : c.inFlight < lim) (more : c.next < c.bursts) :
    c.issue src n lim = ({ c with next := c.next + 1, infl := c.infl ++ [c.burst c.next] },
      some ⟨src, n, (c.burst c.next).idx, (c.burst c.next).raddr, .read (c.burst c.next).rlen⟩) := by
  unfold DmaCh.issue
  rw [if_neg (by simp [running]), h]
  exact if_pos (by simp [room, more])

theorem reissue_read {k : Nat} {d : DmaBurst} (running : c.st = .running) (h : c.infl.find? (·.idx = k) = some d) (waits : d.rst = 3) :
    c.reissue src n k = ({ c with infl := c.infl.map (fun y => if y.idx = d.idx then { d with rst := 1, rtries := d.rtries + 1 } else y) },
      some ⟨src, n, d.idx, d.raddr, .read d.rlen⟩) := by
  unfold DmaCh.reissue
  rw [if_neg (by simp [running]), h]
  exact if_pos waits

variable {s : State} {t : TileIx} {m : Fin 8} {d : DmaCh} {q : Req}

/-- A channel of a tile that issues a request. -/
theorem chanIssue_tile (h : (tdma (s.tile t.val) m.val).issue (.tile t) m.val 4 = (d, some q)) :
    s.chanIssue (.tile t m) = (s.setTile t.val (setTdma (s.tile t.val) m.val d)).sendReq q := by
  unfold State.chanIssue
  dsimp only
  rw [show (s.chanAt (.tile t m)).issue (chanSrc (.tile t m)).1 (chanSrc (.tile t m)).2.1 (chanSrc (.tile t m)).2.2 = (d, some q) from h]
  rfl

theorem chanRetry_tile {k : Nat} (h : (tdma (s.tile t.val) m.val).reissue (.tile t) m.val k = (d, some q)) :
    s.chanRetry (.tile t m) k = (s.setTile t.val (setTdma (s.tile t.val) m.val d)).sendReq q := by
  unfold State.chanRetry
  dsimp only
  rw [show (s.chanAt (.tile t m)).reissue (chanSrc (.tile t m)).1 (chanSrc (.tile t m)).2.1 k = (d, some q) from h]
  rfl

variable {i : Nat} {r : Resp} (found : s.resps[i]? = some r)
include found

theorem chanResponse_own (src : r.req.src = .tile t) (chan : r.req.chan = m.val) : s.chanResponse (.tile t m) i =
    ({ s with resps := s.resps.eraseIdx i, draws := s.draws + 1 } : State).setTile t.val
      (tileDmaEnd (s.tile t.val) m.val ((tdma (s.tile t.val) m.val).response r (s.free.truncate 40))) := by
  unfold State.chanResponse
  rw [found]
  exact if_neg (by simp [chanSrc, src, chan])

theorem chanResponse_other (other : r.req.src ≠ .tile t ∨ r.req.chan ≠ m.val) : s.chanResponse (.tile t m) i = s := by
  unfold State.chanResponse
  rw [found]
  exact if_pos other

end

/-- Settles O33: a Running channel issues its next request, takes the responses that are its own, and retries. -/
theorem dmaBurstsIssueRespondAndRetry : Obligations.DmaBurstsIssueRespondAndRetry := by
  intro s t n x c b send
  refine ⟨fun running no room more => ?_, fun d w l running next => ?_, fun i r found => ⟨fun src chan => ?_, fun other => ?_⟩, fun k d running found waits => ?_⟩
  · exact congrArg Host.Outcome.next (chanIssue_tile (issue_read running no room more))
  · exact congrArg Host.Outcome.next (chanIssue_tile (issue_write running next))
  · exact congrArg Host.Outcome.next (chanResponse_own found src chan)
  · exact congrArg Host.Outcome.next (chanResponse_other found other)
  · exact congrArg Host.Outcome.next (chanRetry_tile (reissue_read running found waits))

end Sys2Proof.Machine

/-! # The translator, and the requests of translated code

The doorbell of a partition reads the request block and serves it; the record follows at completion. A tile's collective and update are
queued. -/

namespace Sys2Proof.Machine

open Sys2Proof.Slice0

/-! ### COLL and UPD (R288, R289, R405) -/

section
variable {s : State} {p c : Nat} {reply : ReplyTo}

theorem queueColl_full {r : CollReq} (full : 64 ≤ s.cvy.queue.length) : s.queueColl p c r reply = none := if_pos full

theorem queueColl_room {r : CollReq} (room : s.cvy.queue.length < 64) : s.queueColl p c r reply = some { s with
    nextId := s.nextId + 1
    cvy := { s.cvy with
      queue := s.cvy.queue ++ [{ id := s.nextId, part := p, ctx := c, req := r, reply := reply
                                 seq := tget 0 s.cvy.seqs (1024 * c + r.group.toNat % 1024) }]
      seqs := tset 0 s.cvy.seqs (1024 * c + r.group.toNat % 1024) (tget 0 s.cvy.seqs (1024 * c + r.group.toNat % 1024) + 1) } } :=
  if_neg (Nat.not_le.2 room)

variable {g : Nat} {step : W64}

theorem queueUpdate_full (full : (List.range 12).any (fun k => decide (32 ≤ (s.unit k).queue.length)) = true) :
    s.queueUpdate p c g step reply = none := if_pos full

theorem queueUpdate_room (room : (List.range 12).any (fun k => decide (32 ≤ (s.unit k).queue.length)) = false) :
    s.queueUpdate p c g step reply = some
      { (List.range 12).foldl (fun x k => x.setUnit k { x.unit k with queue := (x.unit k).queue ++ [.pass s.nextId p c g step] }) s with
        nextId := s.nextId + 1, upds := s.upds ++ [⟨s.nextId, p, c, reply, [], false⟩] } := by
  have upds : ((List.range 12).foldl (fun (x : State) k =>
      x.setUnit k { x.unit k with queue := (x.unit k).queue ++ [.pass s.nextId p c g step] }) s).upds = s.upds :=
    foldl_keeps (f := fun (x : State) k => x.setUnit k { x.unit k with queue := (x.unit k).queue ++ [.pass s.nextId p c g step] })
      State.upds (fun _ _ => rfl) _ s
  refine (if_neg (by simp [room])).trans ?_
  dsimp only
  rw [upds]

end

/-- Settles O36: a tile's collective is queued with the next sequence number of its group, its update on the twelve units. -/
theorem tilesQueueCollectivesAndUpdates : Obligations.TilesQueueCollectivesAndUpdates := by
  intro s t r off ev group step p c key seq full
  refine ⟨fun runs room => ?_, fun h => ?_, fun h => ?_, fun h => ?_⟩
  · exact (if_pos runs).trans (congrArg (fun x : Option State => Host.Outcome.next (x.getD s)) (queueColl_room room))
  · by_cases runs : s.hubEn 2 = true
    · refine (if_pos runs).trans (congrArg (fun x : Option State => Host.Outcome.next (x.getD s)) (queueColl_full (h.resolve_left ?_)))
      simp [runs]
    · exact if_neg runs
  · exact congrArg (fun x : Option State => Host.Outcome.next (x.getD s)) (queueUpdate_full h)
  · exact congrArg (fun x : Option State => Host.Outcome.next (x.getD s)) (queueUpdate_room h)

/-! ### The translator's registers (R265) -/

section
variable {s : State} {a : Agent} (p : PartIx)

theorem arrIx_npc {r : Nat} (h : r < 0x20) : arrIx (0x20 * p.val + r) 0 0x20 4 = some (p.val, r) := by
  have : 0x20 * p.val + r < 0x20 * 4 := by omega
  simp [arrIx, this]
  omega

theorem hubBlock_npc {o : Nat} (h : o < 0x10000) : hubBlock (0x50000 + o) = some (.npc, o) := by
  unfold hubBlock
  rw [if_neg (by omega), if_neg (by omega), if_pos (by omega), Nat.add_sub_cancel_left]

theorem npcRead_req : (npcRead s (0x20 * p.val + 0)).map (·.1) = some true := by
  unfold npcRead
  rw [arrIx_npc p (by decide)]
  rfl

theorem npcRead_doorbell : (npcRead s (0x20 * p.val + 8)).map (·.1) = some false := by
  unfold npcRead
  rw [arrIx_npc p (by decide)]
  rfl

theorem npcWrite_req (part : Part) (v : W64) : npcWrite s (0x20 * p.val + 0) part v = s.npcReqWrite p.val part v := by
  unfold npcWrite
  rw [arrIx_npc p (by decide)]
  rfl

theorem npcWrite_doorbell (part : Part) (v : W64) : npcWrite s (0x20 * p.val + 8) part v = s.npcDoorbell p.val := by
  unfold npcWrite
  rw [arrIx_npc p (by decide)]
  rfl

variable (m : MayWrite s a)
include m

theorem exec_npcRequestWrite (v : W64) : exec (.npcRequestWrite a p v) s = hubWrote a (s.npcReqWrite p.val .all v) := by
  have place : 0x50000 + 0x20 * p.val = 0x50000 + (0x20 * p.val + 0) := rfl
  refine (put64_wrote m (off := 0x50000 + 0x20 * p.val) (b := .npc) (o := 0x20 * p.val + 0) (by omega) (by rw [place, hubBlock_npc (by omega)]) rfl rfl v
    (by omega) (npcRead_req p)).trans ?_
  rw [blockWrite_npc, npcWrite_req]

/-- A write of a partition's doorbell. -/
theorem put32_npcDoorbell (v : W32) : .next (s.put32 a (0x50008 + 0x20 * p.val) v) = hubWrote a (s.npcDoorbell p.val) := by
  have place : 0x50008 + 0x20 * p.val = 0x50000 + (0x20 * p.val + 8) := by omega
  refine (put32_wrote m (off := 0x50008 + 0x20 * p.val) (b := .npc) (o := 0x20 * p.val + 8) (by omega) (by rw [place, hubBlock_npc (by omega)]) rfl rfl v
    (by omega) (npcRead_doorbell p)).trans ?_
  rw [blockWrite_npc, npcWrite_doorbell]

theorem exec_npcDoorbell {i : Instr} (h : i ∈ [Instr.npcLoad a p, .npcUnload a p]) : exec i s = hubWrote a (s.npcDoorbell p.val) := by
  rcases List.mem_pair.1 h with rfl | rfl <;> exact put32_npcDoorbell p m 1#32

end

/-! ### Requests (R265, R268, R269) -/

section
variable {s : State} {p : Nat} (here : p < partCount s.partMode)
include here

theorem npcReqWrite_free (free : (s.npcOf p).busy = none) (v : W64) :
    s.npcReqWrite p .all v = s.setNpc p { s.npcOf p with req := v &&& 0x1FFFFFFFFC0#64 } :=
  (if_neg (Nat.not_le.2 here)).trans (if_neg (by simp [free]))

theorem npcReqWrite_busy (busy : (s.npcOf p).busy ≠ none) (part : Part) (v : W64) :
    s.npcReqWrite p part v = s.setNpc p { s.npcOf p with overrun := true } :=
  (if_neg (Nat.not_le.2 here)).trans (if_pos (Option.isSome_iff_ne_none.2 busy))

theorem npcDoorbell_busy (busy : (s.npcOf p).busy ≠ none) : s.npcDoorbell p = s.setNpc p { s.npcOf p with overrun := true } :=
  (if_neg (Nat.not_le.2 here)).trans (if_pos (Option.isSome_iff_ne_none.2 busy))

variable (free : (s.npcOf p).busy = none)
include free

theorem npcDoorbell_unread (bad : (s.npcOf p).req.toNat % 64 ≠ 0 ∨ (s.hubRead ⟨false, p, noCtx⟩ (s.npcOf p).req.toNat 64).1 ≠ 0) :
    s.npcDoorbell p = s.npcBusy p none 10 [] :=
  (if_neg (Nat.not_le.2 here)).trans ((if_neg (by simp [free])).trans (if_pos (by rcases bad with h | h <;> simp [h])))

theorem npcDoorbell_serves (aligned : (s.npcOf p).req.toNat % 64 = 0) (read : (s.hubRead ⟨false, p, noCtx⟩ (s.npcOf p).req.toNat 64).1 = 0)
    (ok : s.reqOk p (s.hubRead ⟨false, p, noCtx⟩ (s.npcOf p).req.toNat 64).2 = true) : s.npcDoorbell p =
    if leAt (s.hubRead ⟨false, p, noCtx⟩ (s.npcOf p).req.toNat 64).2 0 2 = 1 then
      s.npcLoadGo p (s.hubRead ⟨false, p, noCtx⟩ (s.npcOf p).req.toNat 64).2
    else s.npcUnloadGo p (s.hubRead ⟨false, p, noCtx⟩ (s.npcOf p).req.toNat 64).2 :=
  (if_neg (Nat.not_le.2 here)).trans ((if_neg (by simp [free])).trans ((if_neg (by simp [aligned, read])).trans (if_neg (by simp [ok]))))

end

/-! ### Modules (R268, R269, R276) -/

section
variable (s : State)

theorem hubWrite_modules (g : Tag) (a : Nat) (bs : List PByte) : (s.hubWrite g a bs).1.modules = s.modules := by
  unfold State.hubWrite State.memWrite
  dsimp only
  split
  · rfl
  · split <;> rfl

/-- The constants of a module go to memory and scratchpads. -/
theorem writeConsts_modules (p c : Nat) (m : List Byte) (ks : List Kernel) : (s.writeConsts p c m ks).modules = s.modules := by
  unfold State.writeConsts
  dsimp only
  split
  · refine foldl_keeps (fun x : State × Nat => x.1.modules) (fun x _ => ?_) _ _
    split
    · rfl
    · split
      · rfl
      · split
        · exact hubWrite_modules _ _ _ _
        · split
          · refine foldl_keeps State.modules (fun y t => ?_) _ _
            split <;> rfl
          · rfl
  · rfl

theorem npcLoadGo_modules {p : Nat} {d : List PByte} {r : Nat × List PByte} {m : List Byte} {checked : Bool}
    (bytes : s.hubRead ⟨false, p, noCtx⟩ (leAt d 8 8) (leAt d 16 8) = r) (plain_ : plain r.2 = m)
    (mode : (decide (leAt d 3 1 = 1) || decide (modAt m 5 1 % 2 = 1)) = checked) : (s.npcLoadGo p d).modules =
    if r.1 = 0 ∧ moduleFail s.fx s.partMode p checked m = none then
      s.modules ++ [⟨s.nextSerial, p, leAt d 2 1, checked, moduleKernels s.fx s.partMode checked m⟩] else s.modules := by
  unfold State.npcLoadGo
  dsimp only
  rw [bytes, plain_, mode]
  by_cases read : r.1 = 0
  · rw [if_neg (not_not.2 read)]
    cases moduleFail s.fx s.partMode p checked m with
    | none => exact (writeConsts_modules _ _ _ _ _).trans (if_pos ⟨read, rfl⟩).symm
    | some x => exact (if_neg (fun h => absurd h.2 (by simp))).symm
  · exact (congrArg State.modules (if_pos read)).trans (if_neg (fun h => read h.1)).symm

theorem npcUnloadGo_modules (p : Nat) (d : List PByte) : (s.npcUnloadGo p d).modules =
    match s.modules.find? (fun y => y.serial = leAt d 32 4 / 65536 && y.part = p && y.ctx = leAt d 2 1) with
    | some x => if leAt d 32 4 % 65536 = 0 ∧ s.moduleInUse x = false then s.modules.filter (fun y => y.serial ≠ x.serial) else s.modules
    | none => s.modules := by
  unfold State.npcUnloadGo
  dsimp only
  split
  · next none_ => rw [none_]; rfl
  · next x found =>
    rw [found]
    dsimp only
    by_cases whole : leAt d 32 4 % 65536 = 0
    · rw [if_neg (not_not.2 whole)]
      cases s.moduleInUse x
      · exact (congrArg State.modules (if_neg Bool.false_ne_true)).trans (if_pos ⟨whole, rfl⟩).symm
      · exact (congrArg State.modules (if_pos rfl)).trans (if_neg (fun h => absurd h.2 (by decide))).symm
    · rw [if_pos whole, if_neg (fun h => whole h.1)]
      rfl

/-! ### Completion (R265, R473) -/

theorem npcComplete_idle {s : State} {p : Nat} (h : (s.npcOf p).busy = none) : s.npcComplete p = s := by
  unfold State.npcComplete
  dsimp only
  rw [h]

theorem npcComplete_busy {s : State} {p : Nat} {x : NpcDone} (h : (s.npcOf p).busy = some x) : s.npcComplete p =
    (((match x.recAddr with | some m => (s.hubWrite ⟨false, p, noCtx⟩ m (clean x.record)).1 | none => s).setNpc p
      { s.npcOf p with busy := none, last := x.status }).latch (12 + p)) := by
  unfold State.npcComplete
  dsimp only
  rw [h] <;> rfl

end

/-- Settles O35: the doorbell serves the request block or finds the translator busy, and the completion writes the record. -/
theorem translatorServesOneRequest : Obligations.TranslatorServesOneRequest := by
  intro s a p v b req r busy m here
  have doorbell {i : Instr} (h : i ∈ [Instr.npcLoad a p, .npcUnload a p]) : exec i s = hubWrote a (s.npcDoorbell p.val) := exec_npcDoorbell p m h
  refine ⟨fun free => ?_, fun i hi taken => ?_, fun i hi free => ⟨fun bad => ?_, fun aligned read ok load => ?_, fun aligned read ok unload => ?_⟩,
    fun free => congrArg _ (npcComplete_idle free), fun x taken silent => ?_, fun x n taken addr => ?_,
    fun d => ⟨npcLoadGo_modules s rfl rfl rfl, npcUnloadGo_modules s p.val d⟩⟩
  · rw [exec_npcRequestWrite p m, npcReqWrite_free here free]
  · rcases List.mem_cons.1 hi with rfl | hi
    · rw [exec_npcRequestWrite p m, npcReqWrite_busy here taken]
    · rw [doorbell hi, npcDoorbell_busy here taken]
  · rw [doorbell hi, npcDoorbell_unread here free bad]
    rfl
  · rw [doorbell hi, npcDoorbell_serves here free aligned read ok, if_pos load]
  · rw [doorbell hi, npcDoorbell_serves here free aligned read ok, if_neg (by rw [show leAt _ 0 2 = 2 from unload]; decide)]
  · refine congrArg Host.Outcome.next ((npcComplete_busy taken).trans ?_)
    rw [silent]
  · refine congrArg Host.Outcome.next ((npcComplete_busy taken).trans ?_)
    rw [addr]

end Sys2Proof.Machine

/-! # The load/store slot at issue (R157, R186, R551) -/

namespace Sys2Proof.Machine

open Sys2Proof.Slice0

/-- Work placed one piece after another falls due later if each piece does. -/
theorem range_later {c n : Nat} {g : Nat → Nat × Nat × Act} (later : ∀ u, c < (g u).1) : ∀ k ∈ (List.range n).map g, c < k.1 := by
  intro k hk
  obtain ⟨u, -, rfl⟩ := List.mem_map.1 hk
  exact later u

theorem lsFor_quiet {x : Tile} (quiet : Quiet x) (n : Nat) : Quiet (lsFor x n) := ⟨quiet.due, quiet.outs⟩

/-! ### The slot (R551) -/

/-- A bundle with an operation of the load/store slot alone. -/
theorem issue_ls {c : Cyc} (un : c.t.seq.chk = false) (op : Nat) (f : LsF) : c.issue { ls := some (op, f) } [] =
    { c.lsIssue c.t.seqNo c.t.seq.pc.toNat op f with t := goOn (issued (c.lsIssue c.t.seqNo c.t.seq.pc.toNat op f).t) } := by
  unfold Cyc.issue
  dsimp only
  rw [seqNop un]
  rfl

/-- A command of the load/store slot that leaves tile `y` with nothing due in this cycle. -/
theorem lsOp_quiet {s : State} {t : TileIx} {op : Nat} {f : LsF} {y : Tile} (calm : Calm (s.tile t.val))
    (issue : ((s.env t.val).cyc (s.tile t.val)).lsIssue (s.tile t.val).seqNo (s.tile t.val).seq.pc.toNat op f = (s.env t.val).cyc y)
    (quiet : Quiet y) : .next (s.lsOp t op f) = tileNext s t (after y) := by
  refine (slot_issues calm ?_).trans (issues_quiet quiet)
  have issue' : ((s.env t.val).cyc (s.tile t.val)).lsIssue ((s.env t.val).cyc (s.tile t.val)).t.seqNo ((s.env t.val).cyc (s.tile t.val)).t.seq.pc.toNat
    op f = (s.env t.val).cyc y := issue
  rw [issue_ls calm.unchecked, issue']
  rfl

/-! ### What an operation does at issue -/

section
variable {e : TileEnv} {x : Tile} {sq pc op : Nat} {f : LsF} (un : x.seq.chk = false)

/-- Whether the slot or a path it needs is taken. -/
def lsBusy (x : Tile) : Bool := decide (x.cyc < x.ve.lsFree) || decide (x.cyc < x.ve.pathFree)

theorem lsBusy_free (free : x.ve.lsFree ≤ x.cyc ∧ x.ve.pathFree ≤ x.cyc) : lsBusy x = false := by
  unfold lsBusy
  simp [free.1, free.2]

theorem lsBusy_taken (taken : ¬ (x.ve.lsFree ≤ x.cyc ∧ x.ve.pathFree ≤ x.cyc)) : lsBusy x = true := by
  unfold lsBusy
  simp
  omega

/-- A compressed store's operands are refused (R157). -/
def lsBadZ (f : LsF) : Bool := f.fmt?.isNone || !regFmt f.fm || f.fm = .raw || groupBad f.fm f.vr.toNat (64 * f.e.toNat + 64)

/-- Whether an operation is refused for its operands. -/
def lsBad (x : Tile) (op : Nat) (f : LsF) : Bool := if op = 4 then lsBadZ f else (lInst x op f).bad

variable (known : op < 5)
include un known

theorem lsIssue_bad (bad : lsBad x op f = true) : (e.cyc x).lsIssue sq pc op f = e.cyc (veRefused x 4) := by
  unfold Cyc.lsIssue
  dsimp only
  rw [if_neg (Nat.not_le.2 known)]
  by_cases z : op = 4
  · rw [if_pos z]
    exact (if_pos (show lsBadZ f = true by simpa [lsBad, z] using bad)).trans (veFlag_refused un 4 7 4 pc)
  · rw [if_neg z]
    exact (if_pos (show (lInst x op f).bad = true by simpa [lsBad, z] using bad)).trans (veFlag_refused un 4 7 4 pc)

theorem lsIssue_busy (good : lsBad x op f = false) (busy : lsBusy x = true) : (e.cyc x).lsIssue sq pc op f = e.cyc (veRefused x 2) := by
  unfold Cyc.lsIssue
  dsimp only
  rw [if_neg (Nat.not_le.2 known)]
  by_cases z : op = 4
  · rw [if_pos z]
    refine (if_neg (Bool.eq_false_iff.1 (show lsBadZ f = false by simpa [lsBad, z] using good))).trans ?_
    exact (if_pos busy).trans (veFlag_refused un 2 4 4 pc)
  · rw [if_neg z]
    refine (if_neg (Bool.eq_false_iff.1 (show (lInst x op f).bad = false by simpa [lsBad, z] using good))).trans ?_
    exact (if_pos busy).trans (veFlag_refused un 2 4 4 pc)

end

section
variable {e : TileEnv} {x : Tile} {f : LsF} (un : x.seq.chk = false) (free : lsBusy x = false)
include un free

/-- A load places the reads of its units, and of its scales. -/
theorem lsIssue_load {op : Nat} (load : op = 1 ∨ op = 2) (good : (lInst x op f).bad = false) :
    (e.cyc x).lsIssue x.seqNo x.seq.pc.toNat op f = e.cyc (placed (lsFor x (lInst x op f).units) 4
      ((List.range (lInst x op f).units).map (fun u => (x.cyc + 1 + u, 20, Act.vldUnit (lInst x op f) u)) ++
        (if op = 2 then (List.range (((f.cnt + 31) / 32 + 63) / 64)).map (fun v => (x.cyc + 1 + v, 30, Act.vldScale (lInst x op f) v)) else []))) := by
  unfold Cyc.lsIssue
  dsimp only
  rw [if_neg (by omega), if_neg (by omega)]
  refine (if_neg (Bool.eq_false_iff.1 good)).trans ((if_neg (Bool.eq_false_iff.1 free)).trans ((if_neg (by omega)).trans ?_))
  rw [foldl_fix]
  · exact taskList_placed (y := lsFor x _) rfl rfl
  · exact fun _ => expects_off un

/-- A store places the writes of its units, with the elements that it reads at issue. -/
theorem lsIssue_store (good : (lInst x 3 f).bad = false) :
    (e.cyc x).lsIssue x.seqNo x.seq.pc.toNat 3 f = e.cyc (placed (lsFor x (lInst x 3 f).units) 4
      ((List.range (lInst x 3 f).units).map (fun u => (x.cyc + 3 + u, 40,
        Act.vstUnit (lInst x 3 f) u (velems x.ve f.fm f.vr.toNat (u * (lInst x 3 f).perUnit) ((lInst x 3 f).unitCnt u)))))) := by
  unfold Cyc.lsIssue
  dsimp only
  rw [if_neg (by omega), if_neg (by omega)]
  refine (if_neg (Bool.eq_false_iff.1 good)).trans ((if_neg (Bool.eq_false_iff.1 free)).trans ((if_pos rfl).trans ?_))
  rw [orders_off (by exact un), foldl_fix]
  · exact taskList_placed (y := lsFor x _) rfl rfl
  · exact fun _ => expect_off un

/-- A compressed store gives the compressor its block. -/
theorem lsIssue_compressed (good : lsBadZ f = false) :
    (e.cyc x).lsIssue x.seqNo x.seq.pc.toNat 4 f = e.cyc (placed (lsFor x 1) 4
      [(x.cyc + 3, 50, Act.vstZ (lInst x 4 f) (velems x.ve f.fm f.vr.toNat (64 * f.e.toNat) 64))]) := by
  unfold Cyc.lsIssue
  dsimp only
  rw [if_neg (by omega), if_pos rfl]
  refine (if_neg (Bool.eq_false_iff.1 good)).trans ((if_neg (Bool.eq_false_iff.1 free)).trans ?_)
  rw [orders_off (by exact un)]
  rfl

end

/-- Settles O27: loads and stores place the work of their units, and a transfer that is refused or comes too early sets its status bit. -/
theorem loadStoreSlotMovesUnits : Obligations.LoadStoreSlotMovesUnits := by
  intro s t f x l free badZ reads calm
  have un := calm.unchecked
  have quiet (n : Nat) : Quiet (lsFor x n) := lsFor_quiet calm.toQuiet n
  refine ⟨fun good free => ?_, fun good free => ?_, fun good free => ?_, fun good free => ?_, ?_⟩
  · refine lsOp_quiet calm ((lsIssue_load un (lsBusy_free free) (.inl rfl) good).trans (congrArg (fun r => (s.env t.val).cyc
      (placed (lsFor x (l 1).units) 4 r)) (List.append_nil _))) (placed_later (quiet _) (range_later fun u => ?_))
    show x.cyc < x.cyc + 1 + u
    omega
  · refine lsOp_quiet calm (lsIssue_load un (lsBusy_free free) (.inr rfl) good) (placed_later (quiet _) fun k hk => ?_)
    refine (List.mem_append.1 hk).elim (range_later (fun u => ?_) k) (range_later (fun u => ?_) k)
    · show x.cyc < x.cyc + 1 + u
      omega
    · show x.cyc < x.cyc + 1 + u
      omega
  · refine lsOp_quiet calm (lsIssue_store un (lsBusy_free free) good) (placed_later (quiet _) (range_later fun u => ?_))
    show x.cyc < x.cyc + 3 + u
    omega
  · refine lsOp_quiet calm (lsIssue_compressed un (lsBusy_free free) good) (placed_later (quiet _) ?_)
    simp [lsFor]
  · have refused (op : Nat) (known : op < 5) : (lsBad x op f = true → .next (s.lsOp t op f) = tileNext s t (after (veRefused x 4))) ∧
        (lsBad x op f = false → ¬ free → .next (s.lsOp t op f) = tileNext s t (after (veRefused x 2))) :=
      ⟨fun bad => lsOp_quiet calm (lsIssue_bad un known bad) (veRefused_quiet calm.toQuiet 4),
        fun good taken => lsOp_quiet calm (lsIssue_busy un known good (lsBusy_taken taken)) (veRefused_quiet calm.toQuiet 2)⟩
    simp only [List.forall_mem_cons, List.not_mem_nil, false_imp_iff, implies_true, and_true]
    exact ⟨refused 1 (by decide), refused 2 (by decide), refused 3 (by decide), refused 4 (by decide)⟩

end Sys2Proof.Machine

/-! # The special-function slot at issue (R205, R219, R220, R223, R230, R231) -/

namespace Sys2Proof.Machine

open Sys2Proof.Slice0

theorem sfRefused_quiet {x : Tile} (q : Quiet x) (b : BitVec 6) : Quiet (sfRefused x b) := ⟨q.due, q.outs⟩

theorem sfFor_quiet {x : Tile} (q : Quiet x) (n : Nat) : Quiet (sfFor x n) := ⟨q.due, q.outs⟩

/-! ### The slot -/

/-- A bundle with an operation of the special-function slot alone. -/
theorem issue_sf {c : Cyc} (un : c.t.seq.chk = false) (op : Nat) (f : SfF) (ck : List CheckFail) : c.issue { sf := some (op, f) } ck =
    { c.sfIssue c.t.seqNo c.t.seq.pc.toNat op f (ck.filter (·.unit = 2)) with
      t := goOn (issued (c.sfIssue c.t.seqNo c.t.seq.pc.toNat op f (ck.filter (·.unit = 2))).t) } := by
  unfold Cyc.issue
  dsimp only
  rw [seqNop un]
  rfl

section
variable {s : State} {t : TileIx} {op : Nat} {f : SfF} {ck : List CheckFail} {y : Tile} (calm : Calm (s.tile t.val))
  (issue : ((s.env t.val).cyc (s.tile t.val)).sfIssue (s.tile t.val).seqNo (s.tile t.val).seq.pc.toNat op f (ck.filter (·.unit = 2)) =
    (s.env t.val).cyc y)
include calm issue

/-- A command of the special-function slot. -/
theorem sfOp_issues : .next (s.sfOp t op f ck) = issues s t y := by
  refine slot_issues calm ?_
  have issue' : ((s.env t.val).cyc (s.tile t.val)).sfIssue ((s.env t.val).cyc (s.tile t.val)).t.seqNo
    ((s.env t.val).cyc (s.tile t.val)).t.seq.pc.toNat op f (ck.filter (·.unit = 2)) = (s.env t.val).cyc y := issue
  rw [issue_sf calm.unchecked, issue']
  rfl

theorem sfOp_quiet (quiet : Quiet y) : .next (s.sfOp t op f ck) = tileNext s t (after y) :=
  (sfOp_issues calm issue).trans (issues_quiet quiet)

end

/-! ### What an operation does at issue -/

/-- The cycles for which an operation occupies the slot (R230). -/
def sfTakes (i : SInst) (op : Nat) : Nat := [i.G, 2 * i.G + 20, i.G + 30 + (if i.rstd then 12 else 0)].getD op 0

/-- What an operation that is claimed and well formed does at issue. -/
def Cyc.sfEnter (c : Cyc) (k : Task) (op : Nat) (i : SInst) : Cyc :=
  if c.t.cyc < c.t.sf.free then c.sfFlag 2 4 k.pc
  else if i.f.form then
    ({ c with t := sfFor c.t 2 } : Cyc).taskList k [(c.t.cyc, 0, .sfDesc i 0), (c.t.cyc + 1, 0, .sfDesc i 1)]
  else
    ({ c with t := sfFor c.t (sfTakes i op) } : Cyc).taskList k
      ((List.range i.chunks).map (fun j => (c.t.cyc + i.gSum j, 5, .sfChunk i j (c.t.cyc + 1 + i.gSum j))))

section
variable {e : TileEnv} {x : Tile} (un : x.seq.chk = false)
include un

theorem sfFlag_refused (b : BitVec 6) (kind pc : Nat) : (e.cyc x).sfFlag b kind pc = e.cyc (sfRefused x b) := sfFlag_off un

section
variable {f : SfF} {ck : List CheckFail} {op : Nat} (function : op < 3)
include function

theorem sfIssue_unclaimed (user : (sInst x op f ck).isUser = true) (free : x.sf.use ≠ 2) (sq pc : Nat) :
    (e.cyc x).sfIssue sq pc op f (ck.filter (·.unit = 2)) = e.cyc (sfRefused x 0x20) := by
  have no : ((sInst x op f ck).isUser && !decide (x.sf.use = 2)) = true := by simp [user, free]
  unfold Cyc.sfIssue
  dsimp only
  rw [if_neg (by omega), if_neg (by omega)]
  exact (if_pos no).trans (sfFlag_refused un _ _ _)

variable (claimed : (sInst x op f ck).isUser = true → x.sf.use = 2)
include claimed

theorem sfIssue_bad (bad : (sInst x op f ck).bad = true ∨ ((sInst x op f ck).isUser = true ∧ hdrBad (sInst x op f ck).hdr = true)) (sq pc : Nat) :
    (e.cyc x).sfIssue sq pc op f (ck.filter (·.unit = 2)) = e.cyc (sfRefused x 4) := by
  have mine : ¬ ((sInst x op f ck).isUser && !decide (x.sf.use = 2)) = true := by simpa using claimed
  unfold Cyc.sfIssue
  dsimp only
  rw [if_neg (by omega), if_neg (by omega)]
  refine (if_neg mine).trans ((if_pos ?_).trans (sfFlag_refused un _ _ _))
  rw [Bool.or_eq_true, Bool.and_eq_true]
  exact bad

theorem sfIssue_enters (good : ¬ ((sInst x op f ck).bad = true ∨ ((sInst x op f ck).isUser = true ∧ hdrBad (sInst x op f ck).hdr = true)))
    (sq pc : Nat) : (e.cyc x).sfIssue sq pc op f (ck.filter (·.unit = 2)) = (e.cyc x).sfEnter ⟨x.cyc, 3, 0, sq, pc, .dzRec⟩ op (sInst x op f ck) := by
  have mine : ¬ ((sInst x op f ck).isUser && !decide (x.sf.use = 2)) = true := by simpa using claimed
  have fine : ¬ ((sInst x op f ck).bad || ((sInst x op f ck).isUser && hdrBad (sInst x op f ck).hdr)) = true := by
    rw [Bool.or_eq_true, Bool.and_eq_true]
    exact good
  unfold Cyc.sfIssue
  dsimp only
  rw [if_neg (by omega), if_neg (by omega)]
  refine (if_neg mine).trans ((if_neg fine).trans (if_congr Iff.rfl rfl (if_congr Iff.rfl rfl ?_)))
  match op, function with
  | 0, _ =>
    rw [foldl_fix]
    · rfl
    · exact fun _ => expects_off un
  | 1, _ =>
    rw [foldl_fix]
    · rfl
    · exact fun _ => expects_off un
  | 2, _ =>
    rw [expect_off (by rw [expect_off (by exact un)]; exact un), expect_off (by exact un)]
    rfl

end

section
variable {op : Nat} {i : SInst} {k : Task}

theorem sfEnter_busy (busy : x.cyc < x.sf.free) : (e.cyc x).sfEnter k op i = e.cyc (sfRefused x 2) := (if_pos busy).trans (sfFlag_refused un _ _ _)

omit un
variable (free : x.sf.free ≤ x.cyc) (seq : k.seq = x.seqNo) (pc : k.pc = x.seq.pc.toNat)
include free seq pc

theorem sfEnter_descriptors (desc : i.f.form = true) :
    (e.cyc x).sfEnter k op i = e.cyc (placed (sfFor x 2) k.slot [(x.cyc, 0, .sfDesc i 0), (x.cyc + 1, 0, .sfDesc i 1)]) :=
  (if_neg (Nat.not_lt.2 free)).trans ((if_pos desc).trans (taskList_placed (y := sfFor x 2) seq pc))

theorem sfEnter_chunks (count : i.f.form = false) : (e.cyc x).sfEnter k op i = e.cyc (placed (sfFor x (sfTakes i op)) k.slot
      ((List.range i.chunks).map (fun j => (x.cyc + i.gSum j, 5, .sfChunk i j (x.cyc + 1 + i.gSum j))))) :=
  (if_neg (Nat.not_lt.2 free)).trans ((if_neg (by simp [count])).trans (taskList_placed (y := sfFor x _) seq pc))

end

/-! ### Loading the tables (R219) -/

section
variable {f : SfF} {ck : List CheckFail} (sq pc : Nat)

theorem sfld_unclaimed (free : x.sf.use ≠ 2) : (e.cyc x).sfIssue sq pc 3 f ck = e.cyc (sfRefused x 0x20) := by
  unfold Cyc.sfIssue
  dsimp only
  rw [if_neg (by decide), if_pos rfl]
  exact (if_pos (by simp [free])).trans (sfFlag_refused un _ _ _)

/-- Whether a table load stays inside the scratchpad and the tables. -/
def sfldFits (i : SInst) : Prop :=
  i.sva.toNat % 2 ^ 23 % 64 = 0 ∧ i.svd.toNat % 64 = 0 ∧ i.sva.toNat % 2 ^ 23 + 64 * i.cnt ≤ spSize ∧ i.svd.toNat + 64 * i.cnt ≤ 0x20000

omit un in
theorem sfldFits_iff (i : SInst) : (decide (i.sva.toNat % 2 ^ 23 % 64 ≠ 0) || decide (i.svd.toNat % 64 ≠ 0) ||
    decide (spSize < i.sva.toNat % 2 ^ 23 + 64 * i.cnt) || decide (0x20000 < i.svd.toNat + 64 * i.cnt)) = true ↔ ¬ sfldFits i := by
  unfold sfldFits
  simp only [Bool.or_eq_true, decide_eq_true_iff]
  omega

variable (claimed : x.sf.use = 2)
include claimed

theorem sfld_bad (bad : ¬ sfldFits (sInst x 3 f ck)) : (e.cyc x).sfIssue sq pc 3 f (ck.filter (·.unit = 2)) = e.cyc (sfRefused x 4) := by
  unfold Cyc.sfIssue
  dsimp only
  rw [if_neg (by decide), if_pos rfl]
  exact (if_neg (by simp [claimed])).trans ((if_pos ((sfldFits_iff _).2 bad)).trans (sfFlag_refused un _ _ _))

variable (fits : sfldFits (sInst x 3 f ck))
include fits

theorem sfld_busy (busy : x.cyc < x.sf.free) : (e.cyc x).sfIssue sq pc 3 f (ck.filter (·.unit = 2)) = e.cyc (sfRefused x 2) := by
  unfold Cyc.sfIssue
  dsimp only
  rw [if_neg (by decide), if_pos rfl]
  exact (if_neg (by simp [claimed])).trans ((if_neg (fun h => (sfldFits_iff _).1 h fits)).trans ((if_pos busy).trans (sfFlag_refused un _ _ _)))

theorem sfld_loads (free : x.sf.free ≤ x.cyc) : (e.cyc x).sfIssue x.seqNo x.seq.pc.toNat 3 f (ck.filter (·.unit = 2)) =
    e.cyc (placed (sfFor x (sInst x 3 f ck).cnt) 3 ((List.range (sInst x 3 f ck).cnt).map (fun u =>
      (x.cyc + 2 + u, 10, .sfldUnit ((sInst x 3 f ck).sva.toNat % 2 ^ 23 + 64 * u) ((sInst x 3 f ck).svd.toNat + 64 * u))))) := by
  unfold Cyc.sfIssue
  dsimp only
  rw [if_neg (by decide), if_pos rfl]
  refine (if_neg (by simp [claimed])).trans ((if_neg (fun h => (sfldFits_iff _).1 h fits)).trans ((if_neg (Nat.not_lt.2 free)).trans ?_))
  rw [foldl_fix]
  · exact taskList_placed (y := sfFor x _) rfl rfl
  · exact fun _ => expect_off un

end

end

/-- Settles O28: each operation of the slot enters it by the one rule of `sfEnter`, or sets the bit of its refusal. -/
theorem specialFunctionsTakeGrants : Obligations.SpecialFunctionsTakeGrants := by
  intro s t f ck x free calm
  have un := calm.unchecked
  have refused (b : BitVec 6) : Quiet (sfRefused x b) := sfRefused_quiet calm.toQuiet b
  refine ⟨?_, fun claimed fits free => ?_, fun no => ?_, fun claimed bad => ?_, fun claimed fits busy => ?_⟩
  · have function (op : Nat) (lt : op < 3) :
        let i := sInst x op f ck
        let claimed := i.isUser = true → x.sf.use = 2
        let bad := i.bad = true ∨ (i.isUser = true ∧ hdrBad i.hdr = true)
        (claimed → ¬ bad → free → f.form = false → .next (s.sfOp t op f ck) = issues s t (placed (sfFor x (sfTakes i op)) 3
          ((List.range i.chunks).map (fun j => (x.cyc + i.gSum j, 5, .sfChunk i j (x.cyc + 1 + i.gSum j)))))) ∧
        (claimed → ¬ bad → free → f.form = true →
          .next (s.sfOp t op f ck) = issues s t (placed (sfFor x 2) 3 [(x.cyc, 0, .sfDesc i 0), (x.cyc + 1, 0, .sfDesc i 1)])) ∧
        (¬ claimed → .next (s.sfOp t op f ck) = tileNext s t (after (sfRefused x 0x20))) ∧
        (claimed → bad → .next (s.sfOp t op f ck) = tileNext s t (after (sfRefused x 4))) ∧
        (claimed → ¬ bad → ¬ free → .next (s.sfOp t op f ck) = tileNext s t (after (sfRefused x 2))) := by
      intro i claimed bad
      refine ⟨fun mine good free count => ?_, fun mine good free desc => ?_, fun no => ?_, fun mine bad => ?_, fun mine good busy => ?_⟩
      · exact sfOp_issues calm ((sfIssue_enters un lt mine good _ _).trans (sfEnter_chunks free rfl rfl count))
      · exact sfOp_issues calm ((sfIssue_enters un lt mine good _ _).trans (sfEnter_descriptors free rfl rfl desc))
      · obtain ⟨user, other⟩ := Classical.not_imp.1 no
        exact sfOp_quiet calm (sfIssue_unclaimed un lt user other _ _) (refused 0x20)
      · exact sfOp_quiet calm (sfIssue_bad un lt mine bad _ _) (refused 4)
      · exact sfOp_quiet calm ((sfIssue_enters un lt mine good _ _).trans (sfEnter_busy un (Nat.lt_of_not_le busy))) (refused 2)
    simp only [List.forall_mem_cons, List.not_mem_nil, false_imp_iff, implies_true, and_true]
    exact ⟨function 0 (by decide), function 1 (by decide), function 2 (by decide)⟩
  · refine sfOp_quiet calm (sfld_loads un claimed fits free) (placed_later (sfFor_quiet calm.toQuiet _) (range_later fun u => ?_))
    show x.cyc < x.cyc + 2 + u
    omega
  · exact sfOp_quiet calm (sfld_unclaimed un _ _ no) (refused 0x20)
  · exact sfOp_quiet calm (sfld_bad un _ _ claimed bad) (refused 4)
  · exact sfOp_quiet calm (sfld_busy un _ _ claimed fits (Nat.lt_of_not_le busy)) (refused 2)

end Sys2Proof.Machine

/-! # Product tables, expansion, recombination and the control operations of the vector slot (R171, R187, R188, R193 to R197) -/

namespace Sys2Proof.Machine

open Sys2Proof.Slice0

/-! ### Several retirements of one bundle in one cycle (R308) -/

/-- Two retirements touch no byte of one register. -/
def Apart (d r : Ret) : Prop := wwClash (retBytes d.act) (retBytes r.act) = false

/-- Retirements that touch different registers take effect one after another. -/
theorem retire_apart : ∀ (rs done : List Ret) (c : Cyc), (∀ r ∈ rs, ∀ d ∈ done, Apart d r) → rs.Pairwise Apart →
    c.retire done rs = { c with t := rs.foldl (fun t r => applyRet t r.act) c.t }
  | [], _, _, _, _ => rfl
  | r :: rs, done, c, old, new => by
    obtain ⟨head, tail⟩ := List.pairwise_cons.1 new
    have none_ : done.find? (fun d => wwClash (retBytes d.act) (retBytes r.act)) = none :=
      List.find?_eq_none.2 fun d hd => Bool.eq_false_iff.1 (old r (List.mem_cons_self) d hd)
    unfold Cyc.retire
    dsimp only
    rw [none_]
    refine (retire_apart rs (r :: done) _ (fun q hq d hd => ?_) tail).trans rfl
    rcases List.mem_cons.1 hd with rfl | hd
    · exact head q hq
    · exact old q (List.mem_cons_of_mem _ hq) d hd

/-- A retirement of the same slot and bundle comes last. -/
theorem insRet_last {r : Ret} : ∀ {l : List Ret}, (∀ x ∈ l, x.slot = r.slot ∧ x.seq = r.seq) → insRet r l = l ++ [r]
  | [], _ => rfl
  | x :: l, same => by
    obtain ⟨slot, seq⟩ := same x List.mem_cons_self
    unfold insRet
    rw [if_neg (by simp [slot, seq]), insRet_last (fun y hy => same y (List.mem_cons_of_mem _ hy)), List.cons_append]

/-- Retirements of one slot and bundle stay in their order. -/
theorem foldl_insRet {q n : Nat} : ∀ (ds l : List Ret), (∀ x ∈ l ++ ds, x.slot = q ∧ x.seq = n) → ds.foldl (fun l r => insRet r l) l = l ++ ds
  | [], l, _ => (List.append_nil l).symm
  | r :: ds, l, same => by
    have mine := same r (by simp)
    rw [List.foldl_cons, insRet_last (fun x hx => by rw [(same x (by simp [hx])).1, (same x (by simp [hx])).2, mine.1, mine.2]; exact ⟨rfl, rfl⟩),
      foldl_insRet ds (l ++ [r]) (by simpa using same), List.append_assoc, List.singleton_append]

/-- The end of a cycle in which the retirements that one bundle's slot added last take effect. -/
theorem finish_due {c : Cyc} {l ds : List Ret} {q n : Nat} (rets : c.t.rets = l ++ ds) (later : ∀ r ∈ l, c.t.cyc < r.at_)
    (due : ∀ r ∈ ds, r.at_ ≤ c.t.cyc) (same : ∀ r ∈ ds, r.slot = q ∧ r.seq = n) (apart : ds.Pairwise Apart)
    (incs : c.incs = []) (confl : c.confl = []) (evs : c.evs = []) :
    c.finish = clockTile (ds.foldl (fun t r => applyRet t r.act) { c.t with rets := l }) := by
  have old := filter_due_rets later
  have now : ds.filter (fun r => decide (r.at_ ≤ c.t.cyc)) = ds := List.filter_eq_self.2 fun r hr => decide_eq_true (due r hr)
  have gone : ds.filter (fun r => !decide (r.at_ ≤ c.t.cyc)) = [] := List.filter_eq_nil_iff.2 fun r hr => by simp [due r hr]
  unfold Cyc.finish
  rw [rets, List.filter_append, List.filter_append, old.1, old.2, now, gone, List.nil_append, List.append_nil, foldl_insRet ds [] (by simpa using same),
    List.nil_append]
  dsimp only
  rw [retire_apart ds [] _ (fun _ _ _ h => absurd h List.not_mem_nil) apart, incs, confl, evs]
  rfl

/-- What a bundle's slot retires in the issue cycle takes effect at its end. -/
theorem issues_retiring {s : State} {t : TileIx} {x : Tile} {slot : Nat} {rets : List (Nat × RAct)} (quiet : Quiet x) (now : ∀ r ∈ rets, r.1 = x.cyc)
    (apart : rets.Pairwise (fun d r => wwClash (retBytes d.2) (retBytes r.2) = false))
    (outs : (rets.foldl (fun t r => applyRet t r.2) (goOn (issued x))).outs = x.outs) :
    issues s t (retiring x slot rets) = tileNext s t (clockTile (rets.foldl (fun t r => applyRet t r.2) (goOn (issued x)))) := by
  have work : (((s.env t.val).cyc (goOn (issued (retiring x slot rets)))).runTasks).finish =
      clockTile (rets.foldl (fun t r => applyRet t r.2) (goOn (issued x))) := by
    rw [runTasks_none (c := (s.env t.val).cyc (goOn (issued (retiring x slot rets)))) quiet.due.1,
      finish_due (c := (s.env t.val).cyc (goOn (issued (retiring x slot rets)))) (l := x.rets) (q := slot) (n := x.seqNo) rfl quiet.due.2
        (fun r hr => ?_) (fun r hr => ?_) (List.pairwise_map.2 apart) rfl rfl rfl, List.foldl_map]
    · rfl
    · obtain ⟨w, hw, rfl⟩ := List.mem_map.1 hr
      exact Nat.le_of_eq (now w hw)
    · obtain ⟨w, hw, rfl⟩ := List.mem_map.1 hr
      exact ⟨rfl, rfl⟩
  exact congrArg Host.Outcome.next (tileWork_clock (f := fun e _ => ((e.cyc (goOn (issued (retiring x slot rets)))).runTasks).finish) work
    (by rw [outs]; exact quiet.outs))

/-! ### The operations at issue -/

section
variable {e : TileEnv} {x : Tile} {f : VecF} {ck : List CheckFail} (un : x.seq.chk = false)

/-- The product-table operations (R194 to R196). -/
def tableOps : List VOp := [.ptld, .ptmac, .ptswap]

section
variable {op : VOp} (table : op ∈ tableOps)
include un table

/-- The part lacks the tables. -/
theorem vIssue_noTables (lacks : e.fx = false) (sq pc : Nat) : (e.cyc x).vIssue sq pc op f ck = e.cyc (veRefused x 4) := by
  have no : (!(e.cyc x).fx) = true := by rw [show (e.cyc x).fx = false from lacks]; rfl
  rcases List.mem_cons.1 table with rfl | table
  · exact (if_pos no).trans (veFlag_refused un 4 7 2 pc)
  · rcases List.mem_pair.1 table with rfl | rfl
    · exact (if_pos no).trans (veFlag_refused un 4 7 2 pc)
    · exact (if_pos no).trans (veFlag_refused un 4 7 2 pc)

/-- The tables are not claimed for products. -/
theorem vIssue_unclaimed (has : e.fx = true) (other : x.sf.use ≠ 1) (sq pc : Nat) : (e.cyc x).vIssue sq pc op f ck = e.cyc (veRefused x 8) := by
  have yes : ¬ (!(e.cyc x).fx) = true := by rw [show (e.cyc x).fx = true from has]; decide
  have no : (!decide (x.sf.use = 1)) = true := by simp [other]
  rcases List.mem_cons.1 table with rfl | table
  · exact (if_neg yes).trans ((if_pos no).trans (veFlag_refused un 8 7 2 pc))
  · rcases List.mem_pair.1 table with rfl | rfl
    · exact (if_neg yes).trans ((if_pos no).trans (veFlag_refused un 8 7 2 pc))
    · exact (if_neg yes).trans ((if_pos no).trans (veFlag_refused un 8 7 2 pc))

end

section
variable (has : e.fx = true) (claimed : x.sf.use = 1)
include has claimed

include un in
theorem vIssue_ptswap (sq pc : Nat) : (e.cyc x).vIssue sq pc .ptswap f ck = e.cyc { x with ve := { x.ve with ptbank := !x.ve.ptbank } } := by
  have yes : ¬ (!(e.cyc x).fx) = true := by rw [show (e.cyc x).fx = true from has]; decide
  have mine : ¬ (!decide (x.sf.use = 1)) = true := by simp [claimed]
  refine (if_neg yes).trans ((if_neg mine).trans ?_)
  dsimp only
  rw [event_off (by exact un), ite_self]
  rfl

variable (free : x.ve.lanesFree ≤ x.cyc)
include free

theorem vIssue_ptld (good : (vInst x .ptld f ck).ptBad = false) :
    (e.cyc x).vIssue x.seqNo x.seq.pc.toNat .ptld f (ck.filter (·.unit = 1)) =
      e.cyc (placed { lanesFor x ((f.cnt * 2 ^ f.sub.toNat + 15) / 16) with
        ve := { (lanesFor x ((f.cnt * 2 ^ f.sub.toNat + 15) / 16)).ve with ptldEnd := x.cyc + 4 + (f.cnt * 2 ^ f.sub.toNat + 15) / 16 } } 2
          [(x.cyc, 20, .vPtld (vInst x .ptld f ck) 0)]) := by
  have yes : ¬ (!(e.cyc x).fx) = true := by rw [show (e.cyc x).fx = true from has]; decide
  have mine : ¬ (!decide (x.sf.use = 1)) = true := by simp [claimed]
  exact (if_neg yes).trans ((if_neg mine).trans ((if_neg (Bool.eq_false_iff.1 good)).trans ((if_neg (Nat.not_lt.2 free)).trans rfl)))

include un in
theorem vIssue_ptmac (good : (vInst x .ptmac f ck).ptBad = false) :
    (e.cyc x).vIssue x.seqNo x.seq.pc.toNat .ptmac f (ck.filter (·.unit = 1)) =
      e.cyc (placed (lanesFor x (vInst x .ptmac f ck).chunks) 2
        ((List.range (vInst x .ptmac f ck).chunks).map (fun j => (x.cyc + j, 20, .vChunk (vInst x .ptmac f ck) j)))) := by
  have yes : ¬ (!(e.cyc x).fx) = true := by rw [show (e.cyc x).fx = true from has]; decide
  have mine : ¬ (!decide (x.sf.use = 1)) = true := by simp [claimed]
  refine (if_neg yes).trans ((if_neg mine).trans ((if_neg (Bool.eq_false_iff.1 good)).trans ((if_neg (Nat.not_lt.2 free)).trans ?_)))
  dsimp only
  rw [vExpects_off (by exact un)]
  exact taskList_placed (y := lanesFor x _) rfl rfl

end

theorem vIssue_expand (free : x.ve.lanesFree ≤ x.cyc) : (e.cyc x).vIssue x.seqNo x.seq.pc.toNat .expand f (ck.filter (·.unit = 1)) =
    e.cyc (placed (pathsFor x) 2 ((List.range 2).map (fun i => (x.cyc + i, 0, .vDesc (vInst x .expand f ck) i)))) :=
  (if_neg (Nat.not_lt.2 free)).trans (taskList_placed (y := pathsFor x) rfl rfl)

include un in
theorem vIssue_expandBusy (busy : x.cyc < x.ve.lanesFree) (sq pc : Nat) : (e.cyc x).vIssue sq pc .expand f ck = e.cyc (veRefused x 2) :=
  (if_pos busy).trans (veFlag_refused un 2 4 2 pc)

include un in
theorem vIssue_rcmb (good : (vInst x .rcmb f ck).rcBad = false) (slices : (marr x f.arr.toNat).sliceN.toNat ≠ 0)
    (fits : f.arow.toNat + f.cnt * (marr x f.arr.toNat).sliceN.toNat ≤ 128) (free : x.ve.lanesFree ≤ x.cyc) :
    (e.cyc x).vIssue x.seqNo x.seq.pc.toNat .rcmb f (ck.filter (·.unit = 1)) =
      e.cyc (placed (lanesFor x (f.cnt * (marr x f.arr.toNat).sliceN.toNat)) 2
        ((List.range (f.cnt * (marr x f.arr.toNat).sliceN.toNat)).map (fun q =>
          (x.cyc + q, 20, .rcRow (vInst x .rcmb f ck) (marr x f.arr.toNat).sliceN.toNat q)))) := by
  have inside : ¬ (decide ((marr x f.arr.toNat).sliceN.toNat = 0) ||
      decide (128 < f.arow.toNat + f.cnt * (marr x f.arr.toNat).sliceN.toNat)) = true := by
    simp only [Bool.or_eq_true, decide_eq_true_iff]
    omega
  refine (if_neg (Bool.eq_false_iff.1 good)).trans ((if_neg inside).trans ((if_neg (Nat.not_lt.2 free)).trans ?_))
  dsimp only
  rw [foldl_fix]
  · exact taskList_placed (y := lanesFor x _) rfl rfl
  · intro i
    split
    · exact expect_off un
    · exact expects_off un

/-! ### The broadcast clear of the summaries (log 18) -/

/-- What the clear leaves of summary i: its value or 0. -/
def clearedSum (e : TileEnv) (x : Tile) (i : Nat) : W64 := tget 0 x.seq.sum i &&& (if ((e.cyc x).free i).getLsbD 0 then 0 else -1)

theorem clearedSum_eq (e : TileEnv) (x : Tile) (i : Nat) : clearedSum e x i = if !((e.cyc x).free i).getLsbD 0 then tget 0 x.seq.sum i else 0 := by
  unfold clearedSum
  cases ((e.cyc x).free i).getLsbD 0
  · exact BitVec.and_allOnes
  · exact BitVec.and_zero

/-- The retirements of the clear. -/
def clearRets (e : TileEnv) (x : Tile) : List (Nat × RAct) := (List.range 8).map fun i => (x.cyc, .sum i (clearedSum e x i) false)

theorem vIssue_sumClear : (e.cyc x).vIssue x.seqNo x.seq.pc.toNat .sumClear f ck = e.cyc (retiring x 2 (clearRets e x)) := by
  have added : ∀ (l : List Nat) (y : Tile), y.seq.sum = x.seq.sum → y.cyc = x.cyc →
      l.foldl (fun (c : Cyc) i => c.ret ⟨x.cyc, 2, 0, x.seqNo, x.seq.pc.toNat, .dzRec⟩ x.cyc
        (.sum i (tget 0 c.t.seq.sum i &&& (if (c.free i).getLsbD 0 then 0 else -1)) false)) (e.cyc y) =
      e.cyc { y with rets := y.rets ++ l.map fun i => ⟨x.cyc, 2, x.seqNo, x.seq.pc.toNat, .sum i (clearedSum e x i) false⟩ } := by
    intro l
    induction l with
    | nil => intro y _ _; simp
    | cons i l ih =>
      intro y sum cyc
      have free : (e.cyc y).free i = (e.cyc x).free i := by unfold Cyc.free; rw [show (e.cyc y).t.cyc = (e.cyc x).t.cyc from cyc]; rfl
      rw [List.foldl_cons]
      refine Eq.trans ?_ ((ih { y with rets := y.rets ++ [⟨x.cyc, 2, x.seqNo, x.seq.pc.toNat, .sum i (clearedSum e x i) false⟩] } sum cyc).trans ?_)
      · congr 1
        unfold clearedSum
        rw [← free, ← sum]
        rfl
      · simp
  refine (added (List.range 8) x rfl rfl).trans ?_
  unfold retiring clearRets
  rw [List.map_map]
  rfl

/-- Summaries that retire without poison, one after another. -/
theorem foldl_sums (value : Nat → W64) (at_ : Nat) : ∀ (l : List Nat) (y : Tile),
    (l.map fun i => ((at_, .sum i (value i) false) : Nat × RAct)).foldl (fun t r => applyRet t r.2) y = { y with
      seq := { y.seq with sum := l.foldl (fun m k => tset 0 m k (value k)) y.seq.sum }
      ve := { y.ve with sumpois := l.foldl (fun p k => p &&& ~~~(1#8 <<< k)) y.ve.sumpois } }
  | [], _ => rfl
  | i :: l, y => foldl_sums value at_ l (applyRet y (.sum i (value i) false))

/-- The clear sets the summaries and takes their poison away. -/
theorem clear_summaries (e : TileEnv) (x y : Tile) : (clearRets e x).foldl (fun t r => applyRet t r.2) y = { y with
    seq := { y.seq with sum := (List.range 8).foldl (fun m k => tset 0 m k (clearedSum e x k)) y.seq.sum }
    ve := { y.ve with sumpois := 0 } } := by
  have pois : ∀ p : BitVec 8, (List.range 8).foldl (fun p k => p &&& ~~~(1#8 <<< k)) p = 0 := by decide
  refine (foldl_sums (clearedSum e x) x.cyc (List.range 8) y).trans ?_
  rw [pois]

end

/-- Settles O26: tables, expansion and recombination place their work, and the clear's eight summaries retire in the issue cycle. -/
theorem tableExpandAndRecombineIssue : Obligations.TableExpandAndRecombineIssue := by
  intro s t f ck x free v nb ne calm
  have un := calm.unchecked
  have refused (b : BitVec 5) : Quiet (veRefused x b) := veRefused_quiet calm.toQuiet b
  refine ⟨fun has claimed free good => ?_, fun has claimed free good => ?_, fun has claimed => ?_, ?_, fun free => ?_, fun good slices fits free => ?_,
    fun busy => ?_, fun i => !(((s.env t.val).cyc x).free i).getLsbD 0, ?_⟩
  · exact veOp_issues calm (vIssue_ptld has claimed free good)
  · exact veOp_issues calm (vIssue_ptmac un has claimed free good)
  · exact veOp_quiet (ck := []) calm (vIssue_ptswap un has claimed _ _) ⟨calm.due, calm.outs⟩
  · have table (op : VOp) (h : op ∈ tableOps) (ck : List CheckFail) :
        (s.fx = false → .next (s.veOp t op f ck) = tileNext s t (after (veRefused x 4))) ∧
        (s.fx = true → x.sf.use ≠ 1 → .next (s.veOp t op f ck) = tileNext s t (after (veRefused x 8))) :=
      ⟨fun lacks => veOp_quiet calm (vIssue_noTables un h lacks _ _) (refused 4),
        fun has other => veOp_quiet calm (vIssue_unclaimed un h has other _ _) (refused 8)⟩
    simp only [List.forall_mem_cons, List.not_mem_nil, false_imp_iff, implies_true, and_true]
    exact ⟨table .ptld (by decide) ck, table .ptmac (by decide) ck, table .ptswap (by decide) []⟩
  · exact veOp_issues calm (vIssue_expand free)
  · exact veOp_issues calm (vIssue_rcmb un good slices fits free)
  · exact veOp_quiet calm (vIssue_expandBusy un (Nat.lt_of_not_le busy) _ _) (refused 2)
  · have apart : (clearRets (s.env t.val) x).Pairwise (fun d r => wwClash (retBytes d.2) (retBytes r.2) = false) := by
      refine List.pairwise_map.2 ?_
      have codes : (List.range 8).Pairwise (fun i j => wwClash [(0, 0x50 + i, 0xFF)] [(0, 0x50 + j, 0xFF)] = false) := by decide
      exact codes
    have now : ∀ r ∈ clearRets (s.env t.val) x, r.1 = x.cyc := by
      intro r hr
      obtain ⟨i, -, rfl⟩ := List.mem_map.1 hr
      rfl
    have cleared := clear_summaries (s.env t.val) x (goOn (issued x))
    refine (veOp_issues (ck := []) calm vIssue_sumClear).trans ((issues_retiring calm.toQuiet now apart (by rw [cleared]; rfl)).trans ?_)
    have sums : clearedSum (s.env t.val) x = fun k => if !(((s.env t.val).cyc x).free k).getLsbD 0 then tget 0 x.seq.sum k else 0 :=
      funext (clearedSum_eq _ x)
    rw [cleared, sums]
    rfl

end Sys2Proof.Machine

/-! # The results of an elementwise instruction of one chunk (R176, R177, R200) -/

namespace Sys2Proof.Machine

open Sys2Proof.Slice0

/-! ### One piece of work that is due in the issue cycle -/

/-- Of the tasks of a cycle the one that was added last is due. -/
theorem runTasks_last {c : Cyc} {l : List Task} {k : Task} (tasks : c.t.tasks = l ++ [k]) (later : ∀ j ∈ l, c.t.cyc < j.at_) (due : k.at_ ≤ c.t.cyc) :
    c.runTasks = ({ c with t := { c.t with tasks := l } } : Cyc).act k := by
  have old := filter_due_tasks later
  have now : [k].filter (fun j => decide (j.at_ ≤ c.t.cyc)) = [k] := by simp [due]
  have gone : [k].filter (fun j => !decide (j.at_ ≤ c.t.cyc)) = [] := by simp [due]
  unfold Cyc.runTasks
  rw [tasks, List.filter_append, List.filter_append, old.1, old.2, now, gone, List.append_nil]
  rfl

/-- A bundle whose one piece of work acts in the issue cycle, with nothing that retires in it. -/
theorem issues_task {s : State} {t : TileIx} {y : Tile} {slot rank : Nat} {a : Act} {c : Cyc} (quiet : Quiet y)
    (acts : ((s.env t.val).cyc (goOn (issued y))).act ⟨y.cyc, slot, rank, y.seqNo, y.seq.pc.toNat, a⟩ = c)
    (later : ∀ r ∈ c.t.rets, c.t.cyc < r.at_) (incs : c.incs = []) (confl : c.confl = []) (evs : c.evs = [])
    (outs : c.t.outs.all TileOut.isPhase = true) : issues s t (placed y slot [(y.cyc, rank, a)]) = tileNext s t (clockTile c.t) := by
  have ran : ((s.env t.val).cyc (goOn (issued (placed y slot [(y.cyc, rank, a)])))).runTasks = c := by
    rw [runTasks_last (c := (s.env t.val).cyc (goOn (issued (placed y slot [(y.cyc, rank, a)])))) (l := y.tasks)
      (k := ⟨y.cyc, slot, rank, y.seqNo, y.seq.pc.toNat, a⟩) rfl quiet.due.1 (Nat.le_refl _)]
    exact acts
  refine congrArg Host.Outcome.next (tileWork_clock
    (f := fun e _ => ((e.cyc (goOn (issued (placed y slot [(y.cyc, rank, a)])))).runTasks).finish) ?_ outs)
  rw [ran]
  exact finish_none later incs confl evs

/-! ### The one chunk -/

@[simp] theorem velem_k (v : VeBlk) (f : Fmt) (r i : Nat) : (velem v f r i).k = i := by
  unfold velem
  dsimp only
  split <;> rfl

@[simp] theorem ckWrites_nil (u : Nat) (ws : List VWr) : ckWrites [] u ws = ws := by
  unfold ckWrites ckLane
  simp

/-- Operand a's element i: of its group, or none for an operation that reads none. -/
def operandA (t : Tile) (v : VInst) (i : Nat) : Elem := if usesA v.op then velem t.ve v.f.fm v.f.va.toNat i else ⟨i, 0, false⟩
/-- Operand b's element i, unless it is a broadcast value. -/
def operandB (t : Tile) (v : VInst) (i : Nat) : Elem := if usesB v.op && v.f.bsrc = 0 then velem t.ve v.f.fm v.f.vb.toNat i else ⟨i, 0, false⟩
/-- Operand c's element i. -/
def operandC (t : Tile) (v : VInst) (i : Nat) : Elem := if usesC v.op then velem t.ve v.f.fm v.f.vc.toNat i else ⟨i, 0, false⟩

/-- Result i of an elementwise instruction, with its flags. -/
def resultElem (t : Tile) (v : VInst) (i : Nat) : Elem × Flags :=
  v.elem t (t.ve.rngN + 1) (operandA t v i) (operandB t v i) (operandC t v i) (v.bval t)

/-- The results of an elementwise instruction of one chunk. -/
def chunkResults (t : Tile) (v : VInst) : List (Elem × Flags) := (List.range v.f.cnt).map (resultElem t v)

/-- The retirements of results with their flags. -/
def resultRets (v : VInst) (at_ : Nat) (rs : List (Elem × Flags)) : List (Nat × RAct) :=
  [(at_, .vec (elemsWr v.rf v.f.vd.toNat (rs.map (·.1))))] ++ if fUnion (rs.map (·.2)) = 0 then [] else [(at_, .flags (fUnion (rs.map (·.2))) 1)]

theorem operandA_k (t : Tile) (v : VInst) (i : Nat) : (operandA t v i).k = i := by
  unfold operandA
  split
  · exact velem_k _ _ _ _
  · rfl

/-- The latency of an operation is two cycles or more (R200). -/
theorem two_le_latency (v : VInst) : 2 ≤ v.L := by
  have arithmetic : ∀ (f : Fmt) (p : Prop) [Decidable p], 2 ≤ if f = .fp64 then 8 else if f.isFloat then 4 else if p then 3 else 2 := by
    intro f p _
    split_ifs <;> decide
  have lat : ∀ (op : VOp) (f : Fmt) (sub : Nat), 2 ≤ vLat op f sub := by
    intro op f sub
    cases op with
    | add | sub | mul | fma | fms => exact arithmetic f _
    | segSum | segMax | segMin => exact Nat.le_trans (by decide) (Nat.le_add_right 4 sub)
    | mac | cvt => exact show 2 ≤ 3 by decide
    | perm => exact show 2 ≤ 4 by decide
    | ptmac => exact show 2 ≤ 5 by decide
    | _ => exact Nat.le_refl 2
  exact Nat.le_trans (lat _ _ _) (Nat.le_add_right _ _)

/-- Elements of an elementwise operation that enter: what `Cyc.enter` does with them once the failed checks are recorded. -/
def Cyc.enterElems (c : Cyc) (k : Task) (v : VInst) (first : Bool) (at_ n : Nat) (es : List Elem) : Cyc :=
  let k0 := match es with | e :: _ => e.k | [] => 0
  let kn := k0 + es.length - 1
  let bv := v.bval c.t
  let ub := usesB v.op && v.f.bsrc = 0
  let c := if ub then c.orders k (elemRegions v.f.fm v.f.vb.toNat k0 kn) else c
  let c := if usesC v.op then c.orders k (elemRegions v.f.fm v.f.vc.toNat k0 kn) else c
  let rs := es.map (fun a =>
    let b := if ub then velem c.t.ve v.f.fm v.f.vb.toNat a.k else ⟨a.k, 0, false⟩
    let cc := if usesC v.op then velem c.t.ve v.f.fm v.f.vc.toNat a.k else ⟨a.k, 0, false⟩
    v.elem c.t n a b cc bv)
  let ws := elemsWr v.rf v.f.vd.toNat (rs.map (·.1))
  (c.ret k at_ (.vec (if first then ckWrites v.ck 1 ws else ws))).retFlags k at_ (fUnion (rs.map (·.2))) 1

theorem enter_enterElems {c : Cyc} {k : Task} {v : VInst} {es : List Elem} {fin : Bool} (elementwise : v.op ∈ elemOps.map (·.1)) :
    c.enter k v 0 es fin = (c.veChecks k v (c.t.cyc + v.L - 1 - 1)).enterElems k v true (c.t.cyc + v.L - 1) c.n es := by
  obtain ⟨op, f, sva, svb, svd, ck, at_, bank⟩ := v
  change op ∈ elemOps.map (·.1) at elementwise
  unfold Cyc.enter
  cases op with
  | mac | perm | segSum | segMax | segMin | summary | rng | drop | ptld | ptmac | ptswap | rcmb | expand | sumClear =>
    exact absurd elementwise (by decide)
  | _ => rfl

section
variable {c : Cyc} {k : Task} {v : VInst} (un : c.t.seq.chk = false)
include un

theorem enterElems_results (checks : v.ck = []) (at_ : Nat) (is : List Nat) :
    c.enterElems k v true at_ (c.t.ve.rngN + 1) (is.map (operandA c.t v)) =
      (c.ret k at_ (.vec (elemsWr v.rf v.f.vd.toNat ((is.map (resultElem c.t v)).map (·.1))))).retFlags k at_
        (fUnion ((is.map (resultElem c.t v)).map (·.2))) 1 := by
  unfold Cyc.enterElems
  dsimp only
  rw [orders_off un, ite_self, orders_off un, ite_self, if_pos rfl, checks, ckWrites_nil]
  have same : (is.map (operandA c.t v)).map (fun a : Elem => v.elem c.t (c.t.ve.rngN + 1) a
      (if (usesB v.op && decide (v.f.bsrc = 0)) = true then velem c.t.ve v.f.fm v.f.vb.toNat a.k else ⟨a.k, 0, false⟩)
      (if usesC v.op = true then velem c.t.ve v.f.fm v.f.vc.toNat a.k else ⟨a.k, 0, false⟩) (v.bval c.t)) = is.map (resultElem c.t v) := by
    rw [List.map_map]
    refine List.map_congr_left fun i _ => ?_
    rw [Function.comp_apply, operandA_k]
    rfl
  rw [same]

variable (elementwise : v.op ∈ elemOps.map (·.1)) (checks : v.ck = [])
include elementwise checks

/-- The one chunk of an elementwise operation retires with its flags. -/
theorem vChunk_elementwise (count : v.f.cnt ≤ v.C) : c.vChunk k v 0 =
    (c.ret k (c.t.cyc + v.L - 1) (.vec (elemsWr v.rf v.f.vd.toNat ((chunkResults c.t v).map (·.1))))).retFlags k (c.t.cyc + v.L - 1)
      (fUnion ((chunkResults c.t v).map (·.2))) 1 := by
  have lanes : ∀ op ∈ elemOps.map (·.1), laneOp op = false := by decide
  have elems : (if usesA v.op = true then velems c.t.ve v.f.fm v.f.va.toNat (0 * v.C) (min v.C (v.f.cnt - 0 * v.C))
      else (rangeFrom (0 * v.C) (min v.C (v.f.cnt - 0 * v.C))).map (fun i => (⟨i, 0, false⟩ : Elem))) = (List.range v.f.cnt).map (operandA c.t v) := by
    have all : rangeFrom (0 * v.C) (min v.C (v.f.cnt - 0 * v.C)) = List.range v.f.cnt := by
      rw [Nat.zero_mul, Nat.sub_zero, Nat.min_eq_right count]
      simp [rangeFrom]
    unfold velems operandA
    rw [all]
    split <;> rfl
  unfold Cyc.vChunk
  dsimp only
  rw [if_neg (Bool.eq_false_iff.1 (lanes _ elementwise)), orders_off un, ite_self, elems, enter_enterElems elementwise]
  have none_ : c.veChecks k v (c.t.cyc + v.L - 1 - 1) = c := by unfold Cyc.veChecks; rw [checks]; rfl
  rw [none_]
  exact enterElems_results un checks _ _

end

/-- One chunk holds a count that the chunk length covers. -/
theorem chunks_one {v : VInst} (count : v.f.cnt ≤ v.C) : v.chunks = 1 := by
  have pos : 0 < v.f.cnt := Nat.succ_pos _
  unfold VInst.chunks
  exact Nat.div_eq_of_lt_le (by omega) (by omega)

/-- A retirement and the flags that it raises, as the cycle lists them. -/
theorem ret_retFlags {c : Cyc} {k : Task} {v : VInst} {at_ : Nat} {rs : List (Elem × Flags)} :
    (c.ret k at_ (.vec (elemsWr v.rf v.f.vd.toNat (rs.map (·.1))))).retFlags k at_ (fUnion (rs.map (·.2))) 1 = { c with
      t := { c.t with rets := c.t.rets ++ (resultRets v at_ rs).map (fun r => ⟨r.1, k.slot, k.seq, k.pc, r.2⟩) } } := by
  unfold resultRets Cyc.retFlags Cyc.ret
  split
  · rfl
  · simp

theorem resultRets_later {v : VInst} {at_ : Nat} {rs : List (Elem × Flags)} : ∀ r ∈ resultRets v at_ rs, r.1 = at_ := by
  unfold resultRets
  split <;> simp

theorem chunkResults_goOn (x : Tile) (v : VInst) : chunkResults (goOn (issued x)) v = chunkResults x v := rfl

theorem chunkResults_lanesFor (x : Tile) (n : Nat) (v : VInst) : chunkResults (lanesFor x n) v = chunkResults x v := rfl

/-- The one chunk of an elementwise operation acts in the issue cycle: its results are on their way. -/
theorem act_elementwise {e : TileEnv} {y : Tile} {v : VInst} (un : y.seq.chk = false) (elementwise : v.op ∈ elemOps.map (·.1)) (checks : v.ck = [])
    (count : v.f.cnt ≤ v.C) : (e.cyc (goOn (issued y))).act ⟨y.cyc, 2, 20, y.seqNo, y.seq.pc.toNat, .vChunk v 0⟩ =
      e.cyc (goOn (issued (retiring y 2 (resultRets v (y.cyc + v.L - 1) (chunkResults y v))))) := by
  refine (vChunk_elementwise (c := e.cyc (goOn (issued y))) un elementwise checks count).trans (ret_retFlags.trans ?_)
  rw [TileEnv.cyc_t, chunkResults_goOn]
  rfl

/-- Settles O25: the one chunk is due in the issue cycle and places the results in cycle L - 1 after it. -/
theorem elementwiseResultsRetireAtLatency : Obligations.ElementwiseResultsRetireAtLatency := by
  intro s t f ck o ho x v at_ rs fl calm form vector good free checks count
  have elementwise : v.op ∈ elemOps.map (·.1) := List.mem_map_of_mem ho
  obtain ⟨own, command⟩ := exec_vecOp (List.mem_append_left _ ho)
  have un := calm.unchecked
  have quiet : Quiet (lanesFor x (vq o.1 f.fm)) := ⟨calm.due, calm.outs⟩
  have one : v.chunks = 1 := chunks_one count
  have issue : ((s.env t.val).cyc x).vIssue x.seqNo x.seq.pc.toNat o.1 f (ck.filter (·.unit = 1)) =
      (s.env t.val).cyc (placed (lanesFor x (vq o.1 f.fm)) 2 [(x.cyc, 20, .vChunk v 0)]) := by
    refine (vIssue_enters own).trans ((vEnter_chunks (v := v) form good un free rfl rfl vector).trans ?_)
    rw [one, Nat.mul_one]
    rfl
  have later : x.cyc < x.cyc + v.L - 1 := by
    have := two_le_latency v
    omega
  have acts := act_elementwise (e := s.env t.val) (y := lanesFor x (vq o.1 f.fm)) un elementwise checks count
  rw [chunkResults_lanesFor] at acts
  have whole : issues s t (placed (lanesFor x (vq o.1 f.fm)) 2 [(x.cyc, 20, .vChunk v 0)]) =
      tileNext s t (after (retiring (lanesFor x (vq o.1 f.fm)) 2 (resultRets v (x.cyc + v.L - 1) (chunkResults x v)))) := by
    refine issues_task (y := lanesFor x (vq o.1 f.fm)) quiet acts (fun r hr => ?_) rfl rfl rfl calm.outs
    rcases List.mem_append.1 hr with hr | hr
    · exact calm.due.2 r hr
    · obtain ⟨w, hw, rfl⟩ := List.mem_map.1 hr
      exact lt_of_lt_of_eq later (resultRets_later w hw).symm
  have same : rs = chunkResults x v := rfl
  have raised : fl = fUnion ((chunkResults x v).map (·.2)) := congrArg (fun l : List (Elem × Flags) => fUnion (l.map (·.2))) same
  refine (command t f ck s).trans ((veOp_issues calm issue).trans (whole.trans ?_))
  rw [same, raised]
  rfl

end Sys2Proof.Machine

/-! # Operations of the matrix arrays (R115, R116, R134 to R136, R139) -/

namespace Sys2Proof.Machine

open Sys2Proof.Slice0

/-! ### An array of a tile -/

section
variable {t : Tile} {n : Nat} {a b : MxArr}

theorem setMarr_setMarr (a_set : a ≠ MxArr.zero) : setMarr (setMarr t n a) n b = setMarr t n b := by
  unfold setMarr
  dsimp only
  rw [tset_tset _ _ _ _ a_set]

theorem marr_setMarr (a_set : a ≠ MxArr.zero) : marr (setMarr t n a) n = a := tget_tset_kept _ _ _ a_set

theorem MxArr.ne_zero_of_run {r : MxOp} (h : a.run = some r) : a ≠ MxArr.zero := by
  rintro rfl
  cases h

end

/-- The clock leaves the arrays, the scratchpad, the vector registers and the retirements in flight as they are. -/
theorem clockTile_keeps (y : Tile) : (clockTile y).mx = y.mx ∧ (clockTile y).sp = y.sp ∧ (clockTile y).spPois = y.spPois ∧
    (clockTile y).ve.vreg = y.ve.vreg ∧ (clockTile y).rets = y.rets := by
  unfold clockTile
  dsimp only
  split <;> exact ⟨rfl, rfl, rfl, rfl, rfl⟩

/-! ### The schedule of an operation (R112, R116) -/

/-- Tile t with array n replaced, and with other work and expected writes of its operations. -/
def withArray (t : Tile) (n : Nat) (b : MxArr) (tasks : List Task) (exps : List Expect) : Tile :=
  { setMarr t n b with tasks := tasks, exps := exps }

/-- Two arrays with the same entries and operations. -/
def SameWorkload (b a : MxArr) : Prop := b.acc = a.acc ∧ b.run = a.run ∧ b.pend = a.pend

/-- An operation that starts keeps the entries and the pending operation. -/
theorem startOn_eq (o : MxOp) (a : MxArr) : (o.startOn a).acc = a.acc ∧ (o.startOn a).run = some o ∧ (o.startOn a).pend = a.pend := by
  unfold MxOp.startOn
  dsimp only
  split <;> exact ⟨rfl, rfl, rfl⟩

section
variable {c : Cyc} {k : Task} {n : Nat} (un : c.t.seq.chk = false)
include un

theorem reexpect_taskList (r : Region) (first last : Nat) (l : List (Nat × Nat × Act)) :
    ∃ tasks exps, (c.reexpect k r first last).taskList k l = { c with t := { c.t with tasks := tasks, exps := exps } } :=
  by
  have noted (y : Cyc) (off : y.t.seq.chk = false) : (y.expect k r first last).taskList k l = y.taskList k l := by rw [expect_off off]
  exact ⟨_, _, noted _ un⟩

/-- New marks of an array, new expected writes and new work. -/
theorem marks_place {a b : MxArr} (set : a ≠ MxArr.zero) (same : SameWorkload b a) (r : Region) (first last : Nat) (l : List (Nat × Nat × Act)) :
    ∃ m tasks exps, (({ c with t := setMarr (setMarr c.t n a) n b } : Cyc).reexpect k r first last).taskList k l =
      { c with t := withArray c.t n m tasks exps } ∧ SameWorkload m a := by
  rw [setMarr_setMarr set]
  obtain ⟨tasks, exps, placed⟩ := reexpect_taskList (c := { c with t := setMarr c.t n b }) (k := k) un r first last l
  exact ⟨b, tasks, exps, placed, same⟩

/-- A schedule places work and moves the array's marks. -/
theorem schedule_places (o : MxOp) (c0 : Nat) {a : MxArr} (set : a ≠ MxArr.zero) : ∃ b tasks exps,
    ({ c with t := setMarr c.t n a } : Cyc).schedule k n o c0 = { c with t := withArray c.t n b tasks exps } ∧ SameWorkload b a := by
  have same : SameWorkload a a := ⟨rfl, rfl, rfl⟩
  have accumulators (entries : Region) (first last : Nat) (writes : Nat → Region) (at_ till : Nat → Nat) (rows : List Nat) (l : List (Nat × Nat × Act)) :
      ∃ b tasks exps, (if o.kind = .accld then ({ c with t := setMarr c.t n a } : Cyc).reexpect k entries first last
        else rows.foldl (fun c q => c.expect k (writes q) (at_ q) (till q)) ({ c with t := setMarr c.t n a } : Cyc)).taskList k l =
          { c with t := withArray c.t n b tasks exps } ∧ SameWorkload b a := by
    split
    · obtain ⟨tasks, exps, placed⟩ := reexpect_taskList (c := { c with t := setMarr c.t n a }) (k := k) un entries first last l
      exact ⟨a, tasks, exps, placed, same⟩
    · rw [foldl_fix]
      · exact ⟨a, _, _, rfl, same⟩
      · exact fun _ => expect_off un
  unfold Cyc.schedule
  dsimp only
  rw [marr_setMarr set]
  split
  · split
    · exact marks_place un set (by exact ⟨rfl, rfl, rfl⟩) _ _ _ _
    · split
      · exact ⟨a, _, _, rfl, same⟩
      · split
        · exact marks_place un set (by exact ⟨rfl, rfl, rfl⟩) _ _ _ _
        · exact marks_place un set (by exact ⟨rfl, rfl, rfl⟩) _ _ _ _
  · exact accumulators _ _ _ _ _ _ _ _

/-! ### A descriptor that is read (R115, R134 to R136) -/

/-- The operation of a descriptor. -/
def descOp (t : Tile) (k : Task) (kind : MxKind) (off : Nat) (ck : List CheckFail) : MxOp :=
  ⟨k.seq, k.pc, kind, (List.range 8).map (fun i => BitVec.ofNat 64 (leNatP (((spRead t off 64).drop (8 * i)).take 8))), ck⟩

/-- What becomes of an operation whose descriptor has been read: what `Cyc.mxDesc` does after the read. -/
def Cyc.mxTake (c : Cyc) (k : Task) (arr : Nat) (o : MxOp) : Cyc :=
  let a := marr c.t arr
  if o.bad c.fx then c.mxFlag arr 4 k.slot k.pc
  else if o.clash a then c.mxFlag arr 8 k.slot k.pc
  else
    let c := if o.kind = .accst then c else c.expect k (o.region arr) (2 ^ 62) (2 ^ 62)
    match a.run with
    | none =>
      let c0 := if o.kind = .mma then c.t.cyc else max c.t.cyc a.lastVis
      ({ c with t := setMarr c.t arr (o.startOn a) }).schedule k arr o c0
    | some r =>
      let c := { c with t := setMarr c.t arr { a with pend := some o } }
      if earlyPair r o then c.schedule k arr o c.t.cyc else c

theorem mxDesc_mxTake (idle : c.busy = []) (kind : MxKind) (off : Nat) (ck : List CheckFail) :
    ∃ bz, c.mxDesc k n kind off ck = ({ c with busy := bz } : Cyc).mxTake k n (descOp c.t k kind off ck) := by
  obtain ⟨bz, bytes⟩ := read_free (k := k) (a := off) (n := 64) un idle (by decide)
  refine ⟨bz, ?_⟩
  unfold Cyc.mxDesc
  rw [bytes]
  rfl

/-- A descriptor that is accepted starts its operation or makes it the pending one. -/
theorem mxTake_accepts {o : MxOp} {a : MxArr} (array : marr c.t n = a) (good : o.bad c.fx = false) (fits : o.clash a = false) (free : a.pend = none) :
    ∃ b tasks exps, c.mxTake k n o = { c with t := withArray c.t n b tasks exps } ∧ b.acc = a.acc ∧
      (a.run = none → b.run = some o ∧ b.pend = none) ∧ (∀ r, a.run = some r → b.run = some r ∧ b.pend = some o) := by
  unfold Cyc.mxTake
  dsimp only
  rw [array, if_neg (Bool.eq_false_iff.1 good), if_neg (Bool.eq_false_iff.1 fits), expect_off un, ite_self]
  cases runs : a.run with
  | none =>
    obtain ⟨acc, run, pend⟩ := startOn_eq o a
    obtain ⟨b, tasks, exps, eq, bacc, brun, bpend⟩ := schedule_places (c := c) (k := k) (n := n) un o
      (if o.kind = .mma then c.t.cyc else max c.t.cyc a.lastVis) (MxArr.ne_zero_of_run run)
    exact ⟨b, tasks, exps, eq, bacc.trans acc, fun _ => ⟨brun.trans run, bpend.trans (pend.trans free)⟩, nofun⟩
  | some r =>
    have set : { a with run := some r, pend := some o } ≠ MxArr.zero := MxArr.ne_zero_of_run rfl
    dsimp only
    split
    · obtain ⟨b, tasks, exps, eq, bacc, brun, bpend⟩ := schedule_places (c := c) (k := k) (n := n) un o c.t.cyc set
      exact ⟨b, tasks, exps, eq, bacc, nofun, fun q h => ⟨brun.trans h, bpend⟩⟩
    · exact ⟨_, _, _, rfl, rfl, nofun, fun q h => ⟨h, rfl⟩⟩

/-- A pending operation takes its array when the running one ends. -/
theorem mxEnd_starts {a : MxArr} {r p : MxOp} (array : marr c.t n = a) (running : a.run = some r) (pending : a.pend = some p) :
    ∃ b tasks exps, c.mxEnd k n = { c with t := withArray (dropCaps c.t k.seq 1) n b tasks exps } ∧
      b.acc = a.acc ∧ b.run = some p ∧ b.pend = none := by
  obtain ⟨acc, run, pend⟩ := startOn_eq p { a with run := some r, pend := none }
  have starts (k' : Task) (c0 : Nat) : ∃ b tasks exps,
      ({ c with t := setMarr (dropCaps c.t k.seq 1) n (p.startOn { a with run := some r, pend := none }) } : Cyc).schedule k' n p c0 =
        { c with t := withArray (dropCaps c.t k.seq 1) n b tasks exps } ∧ b.acc = a.acc ∧ b.run = some p ∧ b.pend = none := by
    obtain ⟨b, tasks, exps, eq, bacc, brun, bpend⟩ := schedule_places (c := { c with t := dropCaps c.t k.seq 1 }) (k := k') (n := n) un p c0
      (MxArr.ne_zero_of_run run)
    exact ⟨b, tasks, exps, eq, bacc.trans acc, brun.trans run, bpend.trans pend⟩
  unfold Cyc.mxEnd
  dsimp only
  rw [array, running, pending]
  dsimp only
  split
  · exact ⟨_, _, _, rfl, acc, run, pend⟩
  · split
    · exact starts _ _
    · exact starts _ _

end

/-! ### The slot -/

theorem mxRefused_quiet {x : Tile} (q : Quiet x) (n : Nat) (b : BitVec 5) : Quiet (mxRefused x n b) := ⟨q.due, q.outs⟩

/-- A bundle with an operation of the matrix slot alone. -/
theorem issue_mx {c : Cyc} (un : c.t.seq.chk = false) (kind : MxKind) (f : MxF) (ck : List CheckFail) : c.issue { mx := some (kind, f) } ck =
    { c.mxIssue c.t.seqNo c.t.seq.pc.toNat kind f (ck.filter (·.unit = 0)) with
      t := goOn (issued (c.mxIssue c.t.seqNo c.t.seq.pc.toNat kind f (ck.filter (·.unit = 0))).t) } := by
  unfold Cyc.issue
  dsimp only
  rw [seqNop un]
  rfl

section
variable {s : State} {t : TileIx} {kind : MxKind} {f : MxF} {ck : List CheckFail} {y : Tile} (calm : Calm (s.tile t.val))
  (issue : ((s.env t.val).cyc (s.tile t.val)).mxIssue (s.tile t.val).seqNo (s.tile t.val).seq.pc.toNat kind f (ck.filter (·.unit = 0)) =
    (s.env t.val).cyc y)
include calm issue

/-- A command of the matrix slot. -/
theorem mxOp_issues : .next (s.mxOp t kind f ck) = issues s t y := by
  refine slot_issues calm ?_
  have issue' : ((s.env t.val).cyc (s.tile t.val)).mxIssue ((s.env t.val).cyc (s.tile t.val)).t.seqNo
    ((s.env t.val).cyc (s.tile t.val)).t.seq.pc.toNat kind f (ck.filter (·.unit = 0)) = (s.env t.val).cyc y := issue
  rw [issue_mx calm.unchecked, issue']
  rfl

theorem mxOp_quiet (quiet : Quiet y) : .next (s.mxOp t kind f ck) = tileNext s t (after y) :=
  (mxOp_issues calm issue).trans (issues_quiet quiet)

end

/-- The commands of the matrix slot issue their operation with the failed checks that concern it. -/
theorem exec_mxOp {o : MxKind × (TileIx → MxF → List CheckFail → Instr)} (h : o ∈ mxOps) (t : TileIx) (f : MxF) (ck : List CheckFail) (s : State) :
    ∃ ck', exec (o.2 t f ck) s = .next (s.mxOp t o.1 f ck') ∧
      ck'.filter (·.unit = 0) = if o.1 = .accst then [] else ck.filter (fun k => k.unit = 0) := by
  rcases List.mem_cons.1 h with rfl | h
  · exact ⟨ck, rfl, rfl⟩
  · rcases List.mem_pair.1 h with rfl | rfl
    · exact ⟨ck, rfl, rfl⟩
    · exact ⟨[], rfl, rfl⟩

section
variable {e : TileEnv} {x : Tile} (un : x.seq.chk = false)

/-- The place of the descriptor in the scratchpad. -/
def descOff (x : Tile) (f : MxF) : Nat := (scalarOf x f.sr.toNat).toNat % 2 ^ 23

section
variable {kind : MxKind} {f : MxF} {ck : List CheckFail} {sq pc : Nat}
include un

theorem mxFlag_refused (n : Nat) (b : BitVec 5) (slot pc : Nat) : (e.cyc x).mxFlag n b slot pc = e.cyc (mxRefused x n b) := mxFlag_off un

theorem mxIssue_drop (taken : (marr x f.arr.val).pend ≠ none) : (e.cyc x).mxIssue sq pc kind f ck = e.cyc (mxRefused x f.arr.val 2) := by
  have drop : (marr x f.arr.val).pend.isSome = true := Option.isSome_iff_ne_none.2 taken
  unfold Cyc.mxIssue
  dsimp only
  rw [order_off un]
  exact (if_pos drop).trans (mxFlag_refused un _ 2 1 pc)

variable (free : (marr x f.arr.val).pend = none)
include free

theorem mxIssue_off (gated : x.mx.clken.getLsbD f.arr.val = false) : (e.cyc x).mxIssue sq pc kind f ck = e.cyc (mxRefused x f.arr.val 16) := by
  unfold Cyc.mxIssue
  dsimp only
  rw [order_off un]
  exact (if_neg (by simp [free])).trans ((if_pos (by rw [TileEnv.cyc_t, gated]; rfl)).trans (mxFlag_refused un _ 16 1 pc))

variable (enabled : x.mx.clken.getLsbD f.arr.val = true)
include enabled

theorem mxIssue_misaligned (misaligned : descOff x f % 64 ≠ 0) : (e.cyc x).mxIssue sq pc kind f ck = e.cyc (mxRefused x f.arr.val 4) := by
  unfold Cyc.mxIssue
  dsimp only
  rw [order_off un]
  exact (if_neg (by simp [free])).trans ((if_neg (by rw [TileEnv.cyc_t, enabled]; decide)).trans ((if_pos misaligned).trans (mxFlag_refused un _ 4 1 pc)))

/-- The read of the descriptor is due in the issue cycle. -/
theorem mxIssue_reads (aligned : descOff x f % 64 = 0) : (e.cyc x).mxIssue x.seqNo x.seq.pc.toNat kind f ck =
    e.cyc (placed x 1 [(x.cyc, mxRank f.arr.val 0, .mxDesc f.arr.val kind (descOff x f) ck)]) := by
  unfold Cyc.mxIssue
  dsimp only
  rw [order_off un]
  exact (if_neg (by simp [free])).trans ((if_neg (by rw [TileEnv.cyc_t, enabled]; decide)).trans ((if_neg (not_not_intro aligned)).trans rfl))

end

/-- The read of a descriptor acts in its cycle. -/
theorem act_mxDesc {c : Cyc} {k : Task} {n off : Nat} {kind : MxKind} {ck : List CheckFail} (desc : k.act = .mxDesc n kind off ck) :
    c.act k = c.mxDesc k n kind off ck := by
  unfold Cyc.act
  rw [desc]
  rfl

section
variable {c : Cyc} {k : Task} {n : Nat} {o : MxOp}

theorem mxTake_bad (off : c.t.seq.chk = false) (bad : o.bad c.fx = true) : c.mxTake k n o = { c with t := mxRefused c.t n 4 } :=
  (if_pos bad).trans (mxFlag_off off)

theorem mxTake_clash (off : c.t.seq.chk = false) (good : o.bad c.fx = false) (clash : o.clash (marr c.t n) = true) :
    c.mxTake k n o = { c with t := mxRefused c.t n 8 } :=
  (if_neg (Bool.eq_false_iff.1 good)).trans ((if_pos clash).trans (mxFlag_off off))

end

end

/-- The read of a descriptor, as a task of the bundle that issues. -/
def descTask (x : Tile) (n : Nat) (kind : MxKind) (off : Nat) (ck : List CheckFail) : Task :=
  ⟨x.cyc, 1, mxRank n 0, x.seqNo, x.seq.pc.toNat, .mxDesc n kind off ck⟩

/-- A bundle whose descriptor is read in its cycle ends on the tile that `Cyc.mxTake` leaves. -/
theorem issues_mxDesc {s : State} {t : TileIx} (n : Nat) (kind : MxKind) (off : Nat) (ck : List CheckFail) (calm : Calm (s.tile t.val)) :
    ∃ bz, ∀ y : Tile, ({ (s.env t.val).cyc (goOn (issued (s.tile t.val))) with busy := bz } : Cyc).mxTake (descTask (s.tile t.val) n kind off ck) n
      (descOp (s.tile t.val) (descTask (s.tile t.val) n kind off ck) kind off ck) = { (s.env t.val).cyc y with busy := bz } →
      y.rets = (s.tile t.val).rets → y.cyc = (s.tile t.val).cyc → y.outs = (s.tile t.val).outs →
      issues s t (placed (s.tile t.val) 1 [((s.tile t.val).cyc, mxRank n 0, .mxDesc n kind off ck)]) = tileNext s t (clockTile y) := by
  obtain ⟨bz, desc⟩ := mxDesc_mxTake (c := (s.env t.val).cyc (goOn (issued (s.tile t.val)))) (n := n) (k := descTask (s.tile t.val) n kind off ck)
    calm.unchecked rfl kind off ck
  have bytes : spRead (goOn (issued (s.tile t.val))) off 64 = spRead (s.tile t.val) off 64 := spRead_congr rfl rfl off 64
  have op (k : Task) : descOp (goOn (issued (s.tile t.val))) k kind off ck = descOp (s.tile t.val) k kind off ck := by
    unfold descOp
    rw [bytes]
  rw [TileEnv.cyc_t, op] at desc
  refine ⟨bz, fun y takes rets cyc outs => ?_⟩
  exact issues_task (c := { (s.env t.val).cyc y with busy := bz }) calm.toQuiet ((act_mxDesc rfl).trans (desc.trans takes))
    (show ∀ r ∈ y.rets, y.cyc < r.at_ by rw [rets, cyc]; exact calm.due.2) rfl rfl rfl
    (show y.outs.all TileOut.isPhase = true by rw [outs]; exact calm.outs)

/-- Settles O29: a descriptor that may be read is taken in the issue cycle by `Cyc.mxTake`; the other operations are refused at issue. -/
theorem matrixOperationsRunPendOrDrop : Obligations.MatrixOperationsRunPendOrDrop := by
  intro s t f ck o ho x n a off words c q on calm
  have un := calm.unchecked
  obtain ⟨ck', command, checks⟩ := exec_mxOp ho t f ck s
  have reads (on : on) : exec (o.2 t f ck) s = issues s t (placed x 1 [(x.cyc, mxRank n 0, .mxDesc n o.1 off c)]) := by
    obtain ⟨free, enabled, aligned⟩ := on
    have issue := mxIssue_reads (e := s.env t.val) (x := x) (kind := o.1) (f := f) (ck := ck'.filter (·.unit = 0)) un free enabled aligned
    refine command.trans ((mxOp_issues calm issue).trans ?_)
    rw [checks]
    rfl
  have refused (b : BitVec 5) : Quiet (mxRefused x n b) := mxRefused_quiet calm.toQuiet n b
  obtain ⟨bz, ends⟩ := issues_mxDesc n o.1 off c calm
  refine ⟨fun enabled good fits => ?_, fun enabled bad => ?_, fun enabled good clash => ?_, fun taken => ?_, fun free gated => ?_,
    fun free enabled misaligned => ?_⟩
  · obtain ⟨b, tasks, exps, takes, acc, starts, waits⟩ :=
      mxTake_accepts (c := { (s.env t.val).cyc (goOn (issued x)) with busy := bz }) (k := descTask x n o.1 off c) (n := n) un (a := a) rfl good fits enabled.1
    obtain ⟨mx, sp, pois, vreg, rets⟩ := clockTile_keeps (withArray (goOn (issued x)) n b tasks exps)
    exact ⟨_, b, (reads enabled).trans (ends (withArray (goOn (issued x)) n b tasks exps) takes rfl rfl rfl), mx, acc, starts, waits, sp, pois, vreg,
      clockTile_seq _, rets⟩
  · exact (reads enabled).trans (ends (mxRefused (goOn (issued x)) n 4) (mxTake_bad un bad) rfl rfl rfl)
  · exact (reads enabled).trans (ends (mxRefused (goOn (issued x)) n 8) (mxTake_clash un good clash) rfl rfl rfl)
  · exact command.trans (mxOp_quiet calm (mxIssue_drop un taken) (refused 2))
  · exact command.trans (mxOp_quiet calm (mxIssue_off un free gated) (refused 16))
  · exact command.trans (mxOp_quiet calm (mxIssue_misaligned un free enabled misaligned) (refused 4))

/-! ### The pending operation (R115, R116) -/

theorem runPend_idle {e : TileEnv} {n m : Nat} {x : Tile} (none_ : (marr x n).pend = none) : runPend e n m x = x := by
  cases m with
  | zero => rfl
  | succ m => exact if_neg (by simp [none_])

/-- The pending operation starts in this cycle. -/
theorem runPend_once {e : TileEnv} {n m : Nat} {x : Tile} {p : MxOp} (some_ : m ≠ 0) (pending : (marr x n).pend = some p) (work : x.tasks ≠ [])
    (started : (marr (idleCycle e x) n).pend = none) : runPend e n m x = idleCycle e x := by
  cases m with
  | zero => exact absurd rfl some_
  | succ m => exact (if_pos ⟨by rw [pending]; rfl, work⟩).trans (runPend_idle started)

theorem pollWait_awake {x : Tile} (awake : x.seq.st ≠ .waiting) : pollWait x = x := by
  unfold pollWait
  split
  · exact absurd ‹_› awake
  · rfl

/-- Of the tasks of a cycle the first is due. -/
theorem runTasks_first {c : Cyc} {l : List Task} {k : Task} (tasks : c.t.tasks = k :: l) (later : ∀ j ∈ l, c.t.cyc < j.at_) (due : k.at_ ≤ c.t.cyc) :
    c.runTasks = ({ c with t := { c.t with tasks := l } } : Cyc).act k := by
  have old := filter_due_tasks later
  unfold Cyc.runTasks
  rw [tasks, List.filter_cons_of_pos (by simp [due]), List.filter_cons_of_neg (by simp [due]), old.1, old.2]
  rfl

/-- A tile that does not wait and whose one due task is the end of a matrix operation: the cycle is that task. -/
theorem idleCycle_mxEnd {e : TileEnv} {x : Tile} {k : Task} {rest : List Task} {n : Nat} {y : Tile} (awake : x.seq.st ≠ .waiting)
    (tasks : x.tasks = k :: rest) (ends : k.act = .mxEnd n) (due : k.at_ = x.cyc) (later : ∀ j ∈ rest, x.cyc < j.at_)
    (acts : (e.cyc { x with tasks := rest }).mxEnd k n = e.cyc y) (rets : ∀ r ∈ y.rets, y.cyc < r.at_) : idleCycle e x = clockTile y := by
  have no_ld : poisonLd x = false := by
    unfold poisonLd
    rw [tasks, List.any_cons, ends, Bool.and_false, Bool.false_or, List.any_eq_false]
    intro j hj
    have := later j hj
    simp
    omega
  have act : (e.cyc { x with tasks := rest }).act k = e.cyc y := by
    unfold Cyc.act
    rw [ends]
    exact acts
  unfold idleCycle
  rw [pollWait_awake awake, checkLd_clean no_ld, runTasks_first (c := e.cyc x) tasks later (Nat.le_of_eq due)]
  exact (congrArg Cyc.finish act).trans (finish_none (c := e.cyc y) rets rfl rfl rfl)

/-- The array whose pending operation waits, with the checks that fail in this step. -/
def checkedPend (a : MxArr) (p : MxOp) (ck : List CheckFail) : MxArr := { a with pend := some { p with ck := p.ck ++ ck.filter (·.unit = 0) } }
/-- The tile with that array. -/
def withChecks (x : Tile) (n : Nat) (p : MxOp) (ck : List CheckFail) : Tile := setMarr x n (checkedPend (marr x n) p ck)

theorem startPending_none {e : TileEnv} {n : Nat} {ck : List CheckFail} {x : Tile} (free : (marr x n).pend = none) : startPending e n ck x = x := by
  unfold startPending
  dsimp only
  rw [free]

theorem startPending_waits {e : TileEnv} {n : Nat} {ck : List CheckFail} {x : Tile} {p : MxOp} (pending : (marr x n).pend = some p) :
    startPending e n ck x = runPend e n (2 ^ 40) (withChecks x n p ck) := by
  unfold startPending
  dsimp only
  rw [pending]
  rfl

/-- The end of the running operation is the one task that is due: the pending one takes the array in this cycle. -/
theorem startPending_starts {e : TileEnv} {n : Nat} {ck : List CheckFail} {x : Tile} {k : Task} {rest : List Task} {r p : MxOp}
    (pending : (marr x n).pend = some p) (running : (marr x n).run = some r) (awake : x.seq.st ≠ .waiting) (un : x.seq.chk = false)
    (tasks : x.tasks = k :: rest) (ends : k.act = .mxEnd n) (due : k.at_ = x.cyc) (later : ∀ j ∈ rest, x.cyc < j.at_) (rets : ∀ j ∈ x.rets, x.cyc < j.at_) :
    ∃ (y : Tile) (b : MxArr), startPending e n ck x = clockTile y ∧ y.cyc = x.cyc ∧ y.outs = x.outs ∧
      y.mx = { x.mx with arr := tset MxArr.zero x.mx.arr n b } ∧ b.acc = (marr x n).acc ∧
      b.run = some { p with ck := p.ck ++ ck.filter (·.unit = 0) } ∧ b.pend = none ∧ y.sp = x.sp ∧ y.seq = x.seq ∧ y.rets = x.rets := by
  have set : checkedPend (marr x n) p ck ≠ MxArr.zero := MxArr.ne_zero_of_run (r := r) running
  obtain ⟨b, placed, exps, acts, acc, run, pend⟩ := mxEnd_starts (k := k) (n := n) (a := checkedPend (marr x n) p ck)
    (c := e.cyc { withChecks x n p ck with tasks := rest }) un (marr_setMarr set) running rfl
  have cycle := idleCycle_mxEnd (e := e) (x := withChecks x n p ck)
    (y := withArray (dropCaps { withChecks x n p ck with tasks := rest } k.seq 1) n b placed exps) awake tasks ends due later acts rets
  have started : (marr (idleCycle e (withChecks x n p ck)) n).pend = none := by
    rw [cycle]
    unfold marr
    rw [(clockTile_keeps _).1]
    exact (congrArg MxArr.pend (tget_tset_kept _ _ _ (MxArr.ne_zero_of_run run))).trans pend
  have waits : (marr (withChecks x n p ck) n).pend = some { p with ck := p.ck ++ ck.filter (·.unit = 0) } :=
    congrArg MxArr.pend (marr_setMarr set)
  refine ⟨_, b, (startPending_waits pending).trans ((runPend_once (by norm_num) waits ?_ started).trans cycle), rfl, rfl, ?_, acc, run, pend, rfl, rfl, rfl⟩
  · rw [show (withChecks x n p ck).tasks = k :: rest from tasks]
    exact List.cons_ne_nil _ _
  · exact congrArg (fun arr => { x.mx with arr := arr }) (tset_tset _ _ _ _ set)

/-- Settles O30: without a pending operation the command does nothing; else the pending one starts in the cycle of `startPending_starts`. -/
theorem pendingOperationTakesArray : Obligations.PendingOperationTakesArray := by
  intro s t n ck k rest r p x a
  refine ⟨fun free used outs => ?_, fun pending running noon awake un outs tasks ends due later rets => ?_⟩
  · have same : startPending (s.env t.val) n.val ck x = x := startPending_none free
    refine congrArg Host.Outcome.next ((tileWork_eq (f := fun e y => startPending e n.val ck y) ?_ ?_).trans (congrArg (s.setTile t.val) same))
    · rw [same]
      exact used
    · rw [same]
      exact outs
  · obtain ⟨y, b, starts, cyc, sent, mx, acc, run, pend, sp, seq, kept⟩ :=
      startPending_starts (e := s.env t.val) (ck := ck) pending running awake un tasks ends due later rets
    obtain ⟨mx', sp', -, -, kept'⟩ := clockTile_keeps y
    refine ⟨clockTile y, b, congrArg Host.Outcome.next (tileWork_clock (f := fun e y => startPending e n.val ck y) starts (by rw [sent]; exact outs)), ?_,
      mx'.trans mx, acc, run, pend, sp'.trans sp, (clockTile_seq y).trans seq, kept'.trans kept⟩
    rw [clockTile_cyc, cyc]

end Sys2Proof.Machine
